-- ==== Sys2Proof/Word.lean ====
section
/-! DEFINITION. The word widths of the machine (R4, R5, R55, R106). -/

namespace Sys2Proof

/-- A byte of memory (R5). -/
abbrev Byte := BitVec 8

/-- The 32-bit value of a vector register, a block register or a memory word (R55). -/
abbrev W32 := BitVec 32

/-- The 64-bit value of a scalar register, an instruction word or a clause header (R55, R142, R146). -/
abbrev W64 := BitVec 64

/-- A 48-bit virtual address (R92). -/
abbrev VA := BitVec 48

/-- A mask with bit `l` for lane `l` of a wave of up to 64 lanes (R25, R379). -/
abbrev Mask := BitVec 64

/-- An accumulator element in its stored form (R106). -/
abbrev A80 := BitVec 80

end Sys2Proof
end

