-- ==== Sys2Proof/Machine/Bits.lean ====
section
/-! DEFINITION. Bit-field, byte-order and sign helpers, lanes of a mask. -/

namespace Sys2Proof.Machine

/-- Bits [lo + n - 1 : lo] of a 64-bit value as a number (R4). -/
def field (w : W64) (lo n : Nat) : Nat := (w.extractLsb' lo n).toNat

/-- The low `n` bits of `x` read in two's complement (R100). -/
def signed (n x : Nat) : Int :=
  let y := x % 2 ^ n
  if 2 * y < 2 ^ n then (y : Int) else (y : Int) - (2 ^ n : Nat)

/-- An integer modulo 2^n as a bit vector (R100). -/
def wrap (n : Nat) (x : Int) : BitVec n := BitVec.ofInt n x

/-- The number whose bytes, lowest first, are given (R5). -/
def leNat : List Byte → Nat
  | [] => 0
  | b :: bs => b.toNat + 256 * leNat bs

/-- The `n` bytes of a number, lowest first (R5). -/
def leBytes : Nat → Nat → List Byte
  | 0, _ => []
  | n + 1, x => BitVec.ofNat 8 x :: leBytes n (x / 256)

/-- The 64-bit value of the first eight bytes (R5). -/
def leW64 (bs : List Byte) : W64 := BitVec.ofNat 64 (leNat (bs.take 8))

/-- The lanes set in a mask, ascending, of a wave of width `w`. -/
def lanesOf (w : Nat) (m : Mask) : List Nat := (List.range w).filter fun l => m.getLsbD l

/-- The mask of one lane. -/
def laneBit (l : Nat) : Mask := BitVec.ofNat 64 (2 ^ l)

/-- The mask of a list of lanes. -/
def maskOf (ls : List Nat) : Mask := ls.foldl (fun m l => m ||| laneBit l) 0#64

/-- The mask of all lanes of a wave of width `w`. -/
def fullMask (w : Nat) : Mask := BitVec.ofNat 64 (2 ^ w - 1)

/-- The lowest lane of a mask. -/
def lowLane (w : Nat) (m : Mask) : Option Nat := (lanesOf w m).head?

/-- The highest lane of a mask. -/
def highLane (w : Nat) (m : Mask) : Option Nat := (lanesOf w m).getLast?

/-- Bit `l` of a mask set or cleared. -/
def maskSet (m : Mask) (l : Nat) (b : Bool) : Mask := if b then m ||| laneBit l else m &&& ~~~laneBit l

/-- Rounding up of a quotient. -/
def ceilDiv (a b : Nat) : Nat := (a + b - 1) / b

/-- A truth value as a number. -/
def nat1 (b : Bool) : Nat := if b then 1 else 0

/-- Replace the item at an index of a list. -/
def listSet {β : Type} : List β → Nat → β → List β
  | [], _, _ => []
  | _ :: t, 0, v => v :: t
  | x :: t, n + 1, v => x :: listSet t n v

/-- Change the item at an index of a list. -/
def listMod {β : Type} : List β → Nat → (β → β) → List β
  | [], _, _ => []
  | x :: t, 0, f => f x :: t
  | x :: t, n + 1, f => x :: listMod t n f

/-- The list without its item at an index. -/
def listDrop {β : Type} : List β → Nat → List β
  | [], _ => []
  | _ :: t, 0 => t
  | x :: t, n + 1 => x :: listDrop t n

/-- Keep the first of equal items, in order. -/
def listNub {β : Type} (eq : β → β → Bool) : List β → List β
  | [] => []
  | x :: t => x :: (listNub eq t).filter fun y => !eq x y

/-- The morton code of two coordinates over their low `n` bits (R34). -/
def morton (n x y : Nat) : Nat :=
  (List.range n).foldl (fun c i => c + x / 2 ^ i % 2 * 2 ^ (2 * i) + y / 2 ^ i % 2 * 2 ^ (2 * i + 1)) 0

/-- The least number at or above `lo`, below `lo + fuel`, for which `p` holds. -/
def leastFrom (p : Nat → Bool) : Nat → Nat → Option Nat
  | 0, _ => none
  | fuel + 1, lo => if p lo then some lo else leastFrom p fuel (lo + 1)

/-- A stable insertion by a strict order. -/
def insertBy {β : Type} (lt : β → β → Bool) (x : β) : List β → List β
  | [] => [x]
  | y :: t => if lt x y then x :: y :: t else y :: insertBy lt x t

/-- A stable insertion sort by a strict order. -/
def sortBy {β : Type} (lt : β → β → Bool) (l : List β) : List β :=
  l.foldl (fun acc x => insertBy lt x acc) []

/-- The first item that no other item precedes in a strict order. -/
def leastBy {β : Type} (lt : β → β → Bool) : List β → Option β
  | [] => none
  | x :: t =>
    match leastBy lt t with
    | none => some x
    | some y => if lt y x then some y else some x

/-- Lexicographic order of number lists. -/
def lexLt : List Nat → List Nat → Bool
  | [], [] => false
  | [], _ :: _ => true
  | _ :: _, [] => false
  | x :: xs, y :: ys => decide (x < y) || (decide (x = y) && lexLt xs ys)

end Sys2Proof.Machine
end

