-- ==== Sys2Proof/Machine/Compress.lean ====
section
/-! DEFINITION. Compressed blocks of 256 bytes (R94, R305, R306, R307) and the checks every decoder makes (R408). -/

namespace Sys2Proof.Machine

/-- The byte places of a quadrant's pixels, in row-major order (R306). -/
def quadPixels (q : Nat) : List Nat :=
  (List.range 16).map fun i => 4 * (8 * (4 * (q / 2) + i / 4) + 4 * (q % 2) + i % 4)

/-- LEN of a delta block whose stream holds `s` bits (R306). -/
def deltaLen (s : Nat) : Nat := ceilDiv (96 + s) 128 - 1

/-- LEN of a sparse block with `n` units (R94). -/
def sparseLen (n : Nat) : Nat := ceilDiv (8 + 8 * n) 16 - 1

/-- The width of channel `c` of quadrant `q` (R306). -/
def deltaWidth (data : List Byte) (q c : Nat) : Nat :=
  leNat ((data.drop (4 + 2 * q)).take 2) / 2 ^ (4 * c) % 16

/-- The least width whose signed range holds a delta (R307). -/
def widthOf (x : Int) : Nat :=
  (leastFrom (fun w => decide (x = 0 ∧ w = 0) ||
    (decide (0 < w) && decide (-(2 ^ (w - 1) : Nat) ≤ x) && decide (x < (2 ^ (w - 1) : Nat)))) 9 0).getD 8

/-- The (quadrant, byte place, channel, width) of each stream field, in order (R306). -/
def deltaFields (wd : Nat → Nat → Nat) : List (Nat × Nat × Nat) :=
  (List.range 4).flatMap fun q =>
    (quadPixels q).flatMap fun off => (List.range 4).map fun c => (off, c, wd q c)

/-- The bytes of a delta stream (R306): each field's place takes base + delta. -/
def deltaDecode (base : List Byte) : List (Nat × Nat × Nat) → Nat → List (Nat × Byte)
  | [], _ => []
  | (off, c, w) :: t, stream =>
    let x := signed w (stream % 2 ^ w)
    let v : Byte := wrap 8 ((base.getD c 0).toNat + (if w = 0 then 0 else x))
    (off + c, v) :: deltaDecode base t (stream / 2 ^ w)

/-- The bits of a delta stream. -/
def deltaEncode (base raw : List Byte) : List (Nat × Nat × Nat) → Nat
  | [] => 0
  | (off, c, w) :: t =>
    let x := signed 8 ((raw.getD (off + c) 0).toNat + 256 - (base.getD c 0).toNat)
    (wrap w x).toNat + 2 ^ w * deltaEncode base raw t

/-- The units of a sparse block (R94). -/
def sparseDecode (data : List Byte) : List Nat → Nat → List Byte
  | [], _ => []
  | i :: t, at' =>
    if leNat (data.take 4) / 2 ^ i % 2 = 1 then (data.drop at').take 8 ++ sparseDecode data t (at' + 8)
    else List.replicate 8 0 ++ sparseDecode data t at'

/-- The raw bytes of a block by its page kind (1 COLOUR, 2 SPARSEMASK), its sidecar byte, its stored bytes and the
value of a fast clear, or the check code of Table 19.5 that it fails first (R408). -/
def expandBlock (kind : Nat) (side : Byte) (data clear : List Byte) : Except Nat (List Byte) :=
  let mode := side.toNat / 16
  let len := side.toNat % 16
  if 5 ≤ mode then .error 1
  else if (kind = 2 ∧ (mode = 2 ∨ mode = 3)) ∨ (kind = 1 ∧ mode = 4) then .error 2
  else match mode with
  | 0 => if len ≠ 15 then .error 3 else .ok data
  | 1 => .ok clear
  | 2 => if len ≠ 0 then .error 3 else .ok ((List.replicate 64 (data.take 4)).flatten)
  | 3 =>
    let wd := deltaWidth data
    let fields := deltaFields wd
    if fields.any fun f => decide (8 < f.2.2) then .error 4
    else
      let s := (fields.map fun f => f.2.2).sum
      if len < deltaLen s then .error 3
      else
        let ps := deltaDecode (data.take 4) fields (leNat (data.drop 12))
        .ok (ps.foldl (fun out p => listSet out p.1 p.2) (List.replicate 256 0))
  | _ =>
    let n := ((List.range 32).filter fun i => decide (leNat (data.take 4) / 2 ^ i % 2 = 1)).length
    if ((data.drop 4).take 4).any fun b => decide (b ≠ 0) then .error 5
    else if len ≠ sparseLen n then .error 3
    else .ok (sparseDecode data (List.range 32) 8)

/-- The sidecar byte and stored bytes that a pixel back end gives a block (R307). -/
def packColour (raw : List Byte) : Byte × List Byte :=
  let base := raw.take 4
  let same := (List.range 256).all fun i => decide (raw.getD i 0 = base.getD (i % 4) 0)
  if same then (0x20, base ++ List.replicate 12 0)
  else
    let wd (q c : Nat) : Nat := (quadPixels q).foldl (fun m off =>
      max m (widthOf (signed 8 ((raw.getD (off + c) 0).toNat + 256 - (base.getD c 0).toNat)))) 0
    let fields := deltaFields wd
    let s := (fields.map fun f => f.2.2).sum
    let len := deltaLen s
    if 14 < len then (0x0F, raw)
    else
      let widths := (List.range 4).flatMap fun q =>
        leBytes 2 ((List.range 4).foldl (fun a c => a + wd q c * 2 ^ (4 * c)) 0)
      (BitVec.ofNat 8 (0x30 + len), base ++ widths ++ leBytes (16 * (len + 1) - 12) (deltaEncode base raw fields))

/-- The sidecar byte and stored bytes of a SPARSEMASK block (R94). -/
def packSparse (raw : List Byte) : Byte × List Byte :=
  let unit (i : Nat) : List Byte := (raw.drop (8 * i)).take 8
  let present := (List.range 32).filter fun i => (unit i).any fun b => decide (b ≠ 0)
  if present.length = 32 then (0x0F, raw)
  else
    let len := sparseLen present.length
    let body := leBytes 4 (present.foldl (fun m i => m + 2 ^ i) 0) ++ leBytes 4 0 ++ present.flatMap unit
    (BitVec.ofNat 8 (0x40 + len), body ++ List.replicate (16 * (len + 1) - body.length) 0)

/-- The 256 bytes that a record's CLEAR stands for, by element size in half bytes (R452). -/
def clearBytes (halfBytes : Nat) (clear : W32) : List Byte :=
  let bytes := leBytes 4 clear.toNat
  match halfBytes with
  | 1 => List.replicate 256 (BitVec.ofNat 8 (clear.toNat % 16 * 17))
  | 2 => List.replicate 256 (bytes.getD 0 0)
  | 4 => (List.replicate 128 (bytes.take 2)).flatten
  | _ => (List.replicate 64 bytes).flatten

end Sys2Proof.Machine
end

