-- ==== Sys2Proof/Config.lean ====
section
/-! DEFINITION. What the spec fixes for every module, and the free values: what the spec leaves open, as constants
with no body. -/

namespace Sys2Proof.Config

/-- Halls of the die (R14). -/
def halls : Nat := 128

/-- Cores of the die (R14). -/
def cores : Nat := 512

/-- Wave slots of a core (R15). -/
def slots : Nat := 64

/-- Words of a core's vector register file (R55). -/
def rfWords : Nat := 65536

/-- Cores in one accumulator file's hall (R14). -/
def coresPerHall : Nat := 4

/-- The reciprocal the hardware gives for an operand with no exact result (R116). FREE VALUE, log 7. -/
opaque frcp : W32 → W32

/-- The reciprocal square root the hardware gives (R116). FREE VALUE, log 7. -/
opaque frsq : W32 → W32

/-- The square root the hardware gives (R116). FREE VALUE, log 7. -/
opaque fsqrt : W32 → W32

/-- The base-2 exponential the hardware gives (R116). FREE VALUE, log 7. -/
opaque fexp2 : W32 → W32

/-- The base-2 logarithm the hardware gives (R116). FREE VALUE, log 7. -/
opaque flog2 : W32 → W32

/-- The sine the hardware gives (R116). FREE VALUE, log 7. -/
opaque fsin : W32 → W32

/-- The cosine the hardware gives (R116). FREE VALUE, log 7. -/
opaque fcos : W32 → W32

/-- Whether a box test reports the near miss of child `c` of the node at `a` (R315). FREE VALUE, log 8. -/
opaque boxNear : Nat → Nat → Bool

/-- Where between its bounds, in 256ths, the entry distance of child `c` of the node at `a` lies (R315).
FREE VALUE, log 8. -/
opaque boxEntry : Nat → Nat → BitVec 8

/-- Whether a Falcon-1024 signature over the bytes verifies against Turesque's key (R309, R355). FREE VALUE, log 9. -/
opaque falconOk : List Byte → List Byte → Bool

/-- Whether Fustias's own firmware image verifies from its read-only store (R355). FREE VALUE, log 9. -/
opaque romOk : List Byte → List Byte → Bool

/-- The signature that Fustias makes with the module's attestation key (R356). FREE VALUE, log 9. -/
opaque attestSign : List Byte → List Byte

/-- The place, among a hall's weight-cache lines, of the line that the window shows at a line of its range (R77, R291).
FREE VALUE, log 13. -/
opaque weightWay : Nat → Nat

/-- The hash of physical address bits [51:8] that chooses an L2 slice (R16, R302). FREE VALUE, log 105. -/
opaque sliceHash : Nat → Nat

/-- Which line of a full L2 slice leaves it for a line (R72). FREE VALUE, log 105. -/
opaque l2Victim : Nat → Nat

/-- The hash of physical address bits [45:7] that chooses a port of a route mask (R352). FREE VALUE, log 119. -/
opaque portHash : Nat → Nat

/-- The energy in grains of one unit of a kind of network traffic (R98, R340). FREE VALUE, log 106. -/
opaque trafficEnergy : Nat → Nat

/-- The cycles, past the first, that a step of an application core takes, by the core and its cycle count (R345). FREE VALUE,
log 101. -/
opaque apcStall : Nat → Nat → Nat

/-- Every other value that the spec leaves open, by a number that says which value it is: where a texture coordinate is
infinite, where λ is a NaN, a telemetry or log field, the word of a frame that could not be read. FREE VALUE, log 3. -/
opaque choice : Nat → Nat

end Sys2Proof.Config
end

