-- ==== Sys2Proof/Machine/Tbl.lean ====
section
/-! DEFINITION. Sparse tables: lists of key and value pairs with rising keys. A key that is not listed reads as the
table's default, which the reader names. Memories of bytes use the same lists and never list a zero byte. -/

namespace Sys2Proof.Machine

/-- A sparse table. -/
abbrev Tbl (β : Type) := List (Nat × β)

/-- The value at a key, `d` where the key is not listed. -/
def tblGet {β : Type} (d : β) : Tbl β → Nat → β
  | [], _ => d
  | (k', v) :: t, k => if k = k' then v else tblGet d t k

/-- The value at a key, if the key is listed. -/
def tblFind {β : Type} : Tbl β → Nat → Option β
  | [], _ => none
  | (k', v) :: t, k => if k = k' then some v else tblFind t k

/-- The table with a value written at a key, keys kept rising. -/
def tblSet {β : Type} : Tbl β → Nat → β → Tbl β
  | [], k, v => [(k, v)]
  | (k', v') :: t, k, v =>
    if k < k' then (k, v) :: (k', v') :: t
    else if k = k' then (k, v) :: t
    else (k', v') :: tblSet t k v

/-- The table without a key. -/
def tblErase {β : Type} : Tbl β → Nat → Tbl β
  | [], _ => []
  | (k', v') :: t, k => if k = k' then t else (k', v') :: tblErase t k

/-- The table with a listed value changed; nothing where the key is not listed. -/
def tblMod {β : Type} : Tbl β → Nat → (β → β) → Tbl β
  | [], _, _ => []
  | (k', v') :: t, k, f => if k = k' then (k', f v') :: t else (k', v') :: tblMod t k f

/-- The keys, rising. -/
def tblKeys {β : Type} (t : Tbl β) : List Nat := t.map (·.1)

/-- Every value changed. -/
def tblMap {β : Type} (f : Nat → β → β) (t : Tbl β) : Tbl β := t.map fun kv => (kv.1, f kv.1 kv.2)

/-- A memory of bytes: unlisted addresses read as 0 (log 4). -/
abbrev Memory := Tbl Byte

/-- The byte at an address. -/
def memGet (m : Memory) (a : Nat) : Byte := tblGet 0#8 m a

/-- The memory with a byte written; a zero byte is not listed. -/
def memSet (m : Memory) (a : Nat) (v : Byte) : Memory :=
  if v = 0#8 then tblErase m a else tblSet m a v

/-- The canonical form from an address bound up: addresses rising and no zero byte listed. -/
def Memory.wfFrom : Nat → Memory → Bool
  | _, [] => true
  | lo, (a, v) :: t => decide (lo ≤ a) && decide (v ≠ 0#8) && Memory.wfFrom (a + 1) t

/-- The canonical form of a memory. -/
def Memory.wf (m : Memory) : Bool := Memory.wfFrom 0 m

/-- The `n` bytes from an address, lowest first. -/
def memBytes (m : Memory) (a : Nat) : Nat → List Byte
  | 0 => []
  | n + 1 => memGet m a :: memBytes m (a + 1) n

/-- The memory with bytes written from an address up, lowest first. Bits of a structure in memory that R7 reserves are kept as
written for a program's own loads; the device ignores them (DESIGN CHOICE, log 137). -/
def memPut (m : Memory) (a : Nat) : List Byte → Memory
  | [] => m
  | b :: bs => memPut (memSet m a b) (a + 1) bs

end Sys2Proof.Machine
end

