-- ==== Sys2Proof/Syntax.lean ====
section
/-! DEFINITION. The syntax of the machine's steps: operand codes (Table 3.3), the word formats (Tables 7.2 and 7.3),
the clause header (Table 7.1), what the steps of other agents carry, and `Instr`, with one constructor for each row of
the opcode table. -/

namespace Sys2Proof

/-- What an 8-bit operand field names (Table 3.3). -/
inductive Operand where
  /-- Codes 0-127: vector register. -/
  | v (n : Nat)
  /-- Codes 128-191: scalar register. -/
  | s (n : Nat)
  /-- Codes 192-199: block register. -/
  | b (n : Nat)
  /-- Codes 200-216: the integer 0 to 16. -/
  | pos (n : Nat)
  /-- Codes 217-232: the integer -1 to -16. -/
  | neg (n : Nat)
  /-- Codes 233-239: an FP32 constant, by its place in the list of Table 3.3. -/
  | fp (n : Nat)
  /-- Code 240: lane index. -/
  | laneId
  /-- Code 241: wave index within the block. -/
  | waveId
  /-- Code 242: wave width. -/
  | waveW
  /-- Code 243: active mask, lanes 0-31. -/
  | amask0
  /-- Code 244: active mask, lanes 32-63. -/
  | amask1
  /-- Code 245: core index. -/
  | coreId
  /-- Code 246: hall index. -/
  | hallId
  /-- Code 247: context number. -/
  | ctxId
  /-- Codes 248-251: reserved. -/
  | reserved (n : Nat)
  /-- Codes 252-255: queue register. -/
  | q (n : Nat)
  deriving DecidableEq, Repr

/-- The guard field G (Table 7.2): a predicate, perhaps negated. -/
structure Guard where
  neg : Bool
  p : BitVec 3
  deriving DecidableEq, Repr

/-- The guard field G and the MOD field that every word but PAIR begins with (Table 7.2). -/
structure WordHead where
  g : Guard
  md : BitVec 4
  deriving DecidableEq, Repr

/-- Format A (Table 7.3). `neg` and `abs` hold bits a, b, c from the most significant down. -/
structure WordA where
  hd : WordHead
  d : Operand
  a : Operand
  b : Operand
  c : Operand
  sub : BitVec 8
  u : Bool
  neg : BitVec 3
  abs : BitVec 3
  low : Bool
  deriving DecidableEq, Repr

/-- Format I (Table 7.3). -/
structure WordI where
  hd : WordHead
  d : Operand
  a : Operand
  imm : W32
  deriving DecidableEq, Repr

/-- Format P (Table 7.3). -/
structure WordP where
  hd : WordHead
  pd : BitVec 3
  pe : BitVec 3
  cmb : BitVec 2
  a : Operand
  b : Operand
  pc : BitVec 3
  pcn : Bool
  res : BitVec 4
  sub : BitVec 8
  u : Bool
  low : BitVec 7
  deriving DecidableEq, Repr

/-- The fields ORD, SCO, U and CH that formats M, MA and B share (Table 7.3). -/
structure MemTail where
  ord : BitVec 2
  sco : BitVec 3
  u : Bool
  ch : BitVec 2
  deriving DecidableEq, Repr

/-- Format M (Table 7.3). -/
structure WordM where
  hd : WordHead
  d : Operand
  a : Operand
  b : Operand
  off : BitVec 12
  sz : BitVec 3
  sx : Bool
  tl : MemTail
  deriving DecidableEq, Repr

/-- Format MA (Table 7.3). -/
structure WordMA where
  hd : WordHead
  d : Operand
  a : Operand
  b : Operand
  c : Operand
  aop : BitVec 4
  sz : BitVec 3
  sg : Bool
  tl : MemTail
  deriving DecidableEq, Repr

/-- Format B (Table 7.3). `rec` of the spec is `rc` here. -/
structure WordB where
  hd : WordHead
  d : Operand
  a : Operand
  rc : BitVec 12
  cm : BitVec 4
  am : BitVec 2
  sub : BitVec 6
  tl : MemTail
  deriving DecidableEq, Repr

/-- Format E (Table 7.3). -/
structure WordE where
  hd : WordHead
  x : Operand
  y : Operand
  z : Operand
  w : Operand
  tok : BitVec 4
  te : Bool
  sub : BitVec 7
  sco : BitVec 3
  u : Bool
  deriving DecidableEq, Repr

/-- Format X (Table 7.3). -/
structure WordX where
  hd : WordHead
  mt : BitVec 4
  mt2 : BitVec 4
  a : Operand
  b : Operand
  c : Operand
  tok : BitVec 4
  cm : BitVec 2
  sub : BitVec 8
  src : BitVec 2
  deriving DecidableEq, Repr

/-- Format N (Table 7.3). -/
structure WordN where
  hd : WordHead
  h : Operand
  inp : Operand
  out : Operand
  ni : BitVec 6
  no : BitVec 6
  tok : BitVec 4
  low : BitVec 8
  deriving DecidableEq, Repr

/-- Format K (Table 7.3). -/
structure WordK where
  hd : WordHead
  a : Operand
  b : Operand
  off : W32
  deriving DecidableEq, Repr

/-- One half-operation of a PAIR word (R151). -/
structure HalfOp where
  hop : BitVec 6
  d : BitVec 7
  a : Operand
  b : Operand
  g : BitVec 3
  deriving DecidableEq, Repr

/-- A PAIR word: H1 in bits [63:32], H2 in bits [31:0] (R151). -/
structure WordPair where
  h1 : HalfOp
  h2 : HalfOp
  deriving DecidableEq, Repr

/-- A clause header (Table 7.1). -/
structure Header where
  cls : BitVec 4
  count : BitVec 4
  waitk : BitVec 16
  waitld : BitVec 4
  waitst : BitVec 4
  waitar : Bool
  yld : Bool
  uni : Bool
  res : BitVec 29
  deriving DecidableEq, Repr

/-- An access of an application core to an on-chip window (R77): the core, the module-local address, the size in
bytes, and the value written if it writes. -/
structure ApcAccess where
  apc : Nat
  addr : Nat
  size : Nat
  wdata : Option W64
  deriving DecidableEq, Repr

/-- What a hall's sensors give at a control-interval boundary (R338): the energy measured. -/
structure HallSample where
  hall : Nat
  emeas : W32
  deriving DecidableEq, Repr

/-- What a landing monitor finds (R341, R436): the two halls' 2 µs averages in mA with the ballast they include, how
long the ratio has stayed below 0.85 in microseconds, and the landing's distance from its set point in mV. -/
structure LandingReading where
  lower : Nat
  upper : Nat
  longUs : Nat
  offMv : Nat
  deriving DecidableEq, Repr

/-- What a coolant zone's sensors read (R342, R437): temperature in 1/16 °C, flow in gill, pressure in kPa, the dry
mark, whether the reading passes its check, and for how many microseconds the flow has stood low. -/
structure ZoneReading where
  temp : BitVec 16
  flow : BitVec 16
  press : BitVec 16
  dry : Bool
  valid : Bool
  lowUs : Nat
  deriving DecidableEq, Repr

/-- How the safe tier's writes go in a checkpoint (R444): well, with blocks remapped, or with a write that fails. -/
inductive TierWrites where
  | well
  | remapped
  | fails
  deriving DecidableEq, Repr

/-- What is lost when a remote request stays unanswered for 2 ms (R412). -/
inductive RemoteLoss where
  /-- A load or atomic of the wave in `slot` of `core`, outstanding as operation `op`. -/
  | load (core slot op module port : Nat)
  /-- A store of the wave, outstanding as operation `op`. -/
  | store (core slot op module port : Nat)
  /-- The running operation of a copy queue. -/
  | copy (hall queue module port : Nat)
  /-- An entry of a hall's reservation table that has been granted. -/
  | entry (hall op module port : Nat)
  /-- A regroup pass that fetches its weight set. -/
  | pass (hall op module port : Nat)
  /-- The ray query of a lane. -/
  | ray (core slot lane module port : Nat)
  deriving DecidableEq, Repr

/-- A request from another module, served at this module's L2 (R351, R140): a read, a write, an addition to a 64-bit value
(SIGNAL `.add`, R252), an atomic operation by its code and size in bytes with its operands (R230), or the CPYR update of an
element, by its form and the source element (R249). -/
inductive RemoteAccess where
  | read (addr len : Nat)
  | write (addr : Nat) (bytes : List Byte)
  | add (addr : Nat) (value : W64)
  | atom (op size addr : Nat) (x y : W64)
  | update (form addr : Nat) (source : W32)
  deriving DecidableEq, Repr

/-- What a scrubber or an access finds in storage (R409): the storage code of Table 19.6, or 0 for the control store of the unit of
kind `table` and number `hall` (R427); the module-local address of the unit (for storage 8, the entry's index, with `table`
0 Alcove Table, 1 range-lock table of `hall`, 2 parking table), whether the error can be corrected, and the syndrome. -/
structure Damage where
  store : Nat
  addr : Nat
  hall : Nat
  table : Nat
  correctable : Bool
  synd : W32
  deriving DecidableEq, Repr

/-- An image that boot verifies (R355): what it is (0 Fustias's own firmware, 1 APC firmware, 2 DFE firmware, 3 + k the stock
image of unit kind k), its bytes, its signature and its version. -/
structure SignedImage where
  role : Nat
  bytes : List Byte
  sig : List Byte
  version : W32
  deriving DecidableEq, Repr

/-- The steps of the machine, one constructor for each row of the opcode table. Words of waves carry their format's
fields; steps of other agents carry the number of the unit concerned and what comes from outside the die. -/
inductive Instr where
  /-- IADD (R168). -/
  | iadd (w : WordA)
  /-- ISUB (R168). -/
  | isub (w : WordA)
  /-- IMUL (R168). -/
  | imul (w : WordA)
  /-- IMULH (R168). -/
  | imulh (w : WordA)
  /-- IMAD (R168). -/
  | imad (w : WordA)
  /-- IDP4 (R169). -/
  | idp4 (w : WordA)
  /-- IMIN (R168). -/
  | imin (w : WordA)
  /-- IMAX (R168). -/
  | imax (w : WordA)
  /-- SHL (R171). -/
  | shl (w : WordA)
  /-- SHR (R171). -/
  | shr (w : WordA)
  /-- SAR (R171). -/
  | sar (w : WordA)
  /-- FSHF (R172). -/
  | fshf (w : WordA)
  /-- BFE (R173). -/
  | bfe (w : WordA)
  /-- BFI (R173). -/
  | bfi (w : WordA)
  /-- POPC (R174). -/
  | popc (w : WordA)
  /-- CLZ (R174). -/
  | clz (w : WordA)
  /-- CTZ (R174). -/
  | ctz (w : WordA)
  /-- BREV (R174). -/
  | brev (w : WordA)
  /-- BLUT (R175). -/
  | blut (w : WordA)
  /-- ICMP (R176). -/
  | icmp (w : WordP)
  /-- FCMP (R176). -/
  | fcmp (w : WordP)
  /-- SEL (R177). -/
  | sel (w : WordA)
  /-- MOV (R177). -/
  | mov (w : WordA)
  /-- MOVI (R177). -/
  | movi (w : WordI)
  /-- PLUT (R178). -/
  | plut (w : WordP)
  /-- IADDI (R170). -/
  | iaddi (w : WordI)
  /-- IMULI (R170). -/
  | imuli (w : WordI)
  /-- ANDI (R170). -/
  | andi (w : WordI)
  /-- ORI (R170). -/
  | ori (w : WordI)
  /-- XORI (R170). -/
  | xori (w : WordI)
  /-- FADDI (R170). -/
  | faddi (w : WordI)
  /-- FMULI (R170). -/
  | fmuli (w : WordI)
  /-- FADD (R179). -/
  | fadd (w : WordA)
  /-- FMUL (R179). -/
  | fmul (w : WordA)
  /-- FFMA (R179). -/
  | ffma (w : WordA)
  /-- FMIN (R179). -/
  | fmin (w : WordA)
  /-- FMAX (R179). -/
  | fmax (w : WordA)
  /-- FCLASS (R180). -/
  | fclass (w : WordA)
  /-- FRND (R181). -/
  | frnd (w : WordA)
  /-- FFRC (R181). -/
  | ffrc (w : WordA)
  /-- FLDEXP (R181). -/
  | fldexp (w : WordA)
  /-- FRCP (R182). -/
  | frcp (w : WordA)
  /-- FRSQ (R182). -/
  | frsq (w : WordA)
  /-- FSQRT (R182). -/
  | fsqrt (w : WordA)
  /-- FEXP2 (R182). -/
  | fexp2 (w : WordA)
  /-- FLOG2 (R182). -/
  | flog2 (w : WordA)
  /-- FSIN (R182). -/
  | fsin (w : WordA)
  /-- FCOS (R182). -/
  | fcos (w : WordA)
  /-- LONG_ALU_COMPLETE (R166). -/
  | longAluComplete (core : Nat) (slot : Nat) (op : Nat)
  /-- HADD2 (R183). -/
  | hadd2 (w : WordA)
  /-- HMUL2 (R183). -/
  | hmul2 (w : WordA)
  /-- HFMA2 (R183). -/
  | hfma2 (w : WordA)
  /-- HMIN2 (R183). -/
  | hmin2 (w : WordA)
  /-- HMAX2 (R183). -/
  | hmax2 (w : WordA)
  /-- HDOT2 (R184). -/
  | hdot2 (w : WordA)
  /-- QDOT4 (R184). -/
  | qdot4 (w : WordA)
  /-- CVT (R185). -/
  | cvt (w : WordA)
  /-- SHFL (R188). -/
  | shfl (w : WordA)
  /-- LPUSH (R189). -/
  | lpush (w : WordA)
  /-- BALLOT (R190). -/
  | ballot (w : WordA)
  /-- VOTE (R190). -/
  | vote (w : WordP)
  /-- WRED (R191). -/
  | wred (w : WordA)
  /-- WSCAN (R191). -/
  | wscan (w : WordA)
  /-- BCAST (R192). -/
  | bcast (w : WordA)
  /-- MATCH (R192). -/
  | matchLanes (w : WordA)
  /-- BSEL (R193). -/
  | bsel (w : WordA)
  /-- PAIR (R151). -/
  | pair (w : WordPair)
  /-- SADD (R195). -/
  | sadd (w : WordA)
  /-- SSUB (R195). -/
  | ssub (w : WordA)
  /-- SMUL (R195). -/
  | smul (w : WordA)
  /-- SMULH (R195). -/
  | smulh (w : WordA)
  /-- SMAD (R195). -/
  | smad (w : WordA)
  /-- SMIN (R195). -/
  | smin (w : WordA)
  /-- SMAX (R195). -/
  | smax (w : WordA)
  /-- SSHL (R195). -/
  | sshl (w : WordA)
  /-- SSHR (R195). -/
  | sshr (w : WordA)
  /-- SSAR (R195). -/
  | ssar (w : WordA)
  /-- SBLUT (R195). -/
  | sblut (w : WordA)
  /-- SMOV (R195). -/
  | smov (w : WordA)
  /-- SMOVI (R196). -/
  | smovi (w : WordI)
  /-- SMOVH (R196). -/
  | smovh (w : WordI)
  /-- SADDI (R196). -/
  | saddi (w : WordI)
  /-- SCMP (R197). -/
  | scmp (w : WordP)
  /-- SLEA (R198). -/
  | slea (w : WordA)
  /-- READLANE (R199). -/
  | readlane (w : WordA)
  /-- WRITELANE (R199). -/
  | writelane (w : WordA)
  /-- RDSR (R200). -/
  | rdsr (w : WordI)
  /-- WRSR (R200). -/
  | wrsr (w : WordI)
  /-- RDCNT (R201). -/
  | rdcnt (w : WordI)
  /-- LD (R221). -/
  | ld (w : WordM)
  /-- ST (R221). -/
  | st (w : WordM)
  /-- LDS (R223). -/
  | lds (w : WordM)
  /-- STS (R223). -/
  | sts (w : WordM)
  /-- SLD (R225). -/
  | sld (w : WordM)
  /-- LDC (R226). -/
  | ldc (w : WordM)
  /-- LDB (R227). -/
  | ldb (w : WordB)
  /-- STB (R227). -/
  | stb (w : WordB)
  /-- ATOM (R230). -/
  | atom (w : WordMA)
  /-- ATOMS (R230). -/
  | atoms (w : WordMA)
  /-- RED (R230). -/
  | red (w : WordMA)
  /-- LDRSV (R232). -/
  | ldrsv (w : WordM)
  /-- STCND (R233). -/
  | stcnd (w : WordMA)
  /-- FENCE (R234). -/
  | fence (w : WordM)
  /-- LOAD_COMPLETE (R131). -/
  | loadComplete (core : Nat) (slot : Nat) (op : Nat)
  /-- STORE_ACK (R143). -/
  | storeAck (core : Nat) (slot : Nat) (op : Nat)
  /-- ARINIT (R236). -/
  | arinit (w : WordE)
  /-- ARRIVE (R237). -/
  | arrive (w : WordE)
  /-- ARWAIT (R238). -/
  | arwait (w : WordE)
  /-- QGATH (R239). -/
  | qgath (w : WordE)
  /-- QSCAT (R240). -/
  | qscat (w : WordE)
  /-- QFLUSH (R241). -/
  | qflush (w : WordE)
  /-- QSTAT (R242). -/
  | qstat (w : WordE)
  /-- QUEUE_GATHER_FETCH (R97). -/
  | queueGatherFetch (core : Nat) (queue : Nat)
  /-- ALCMAKE (R255). -/
  | alcmake (w : WordE)
  /-- ALCATT (R256). -/
  | alcatt (w : WordE)
  /-- ALCATT_COMPLETE (R256). -/
  | alcattComplete (core : Nat) (slot : Nat) (op : Nat)
  /-- ALCSEAL (R257). -/
  | alcseal (w : WordE)
  /-- ALCREL (R258). -/
  | alcrel (w : WordE)
  /-- ALCEVICT (R259). -/
  | alcevict (w : WordE)
  /-- ALCQRY (R260). -/
  | alcqry (w : WordE)
  /-- ALCOVE_EVICT_DONE (R85). -/
  | alcoveEvictDone (entry : Nat)
  /-- ALCOVE_REFILL_DONE (R86). -/
  | alcoveRefillDone (entry : Nat)
  /-- LAUNCH (R261). -/
  | launch (w : WordE)
  /-- PREF (R262). -/
  | pref (w : WordM)
  /-- CWB (R263). -/
  | cwb (w : WordM)
  /-- CINV (R264). -/
  | cinv (w : WordM)
  /-- CPY (R248). -/
  | cpy (w : WordE)
  /-- CPYR (R249). -/
  | cpyr (w : WordE)
  /-- CPYF (R250). -/
  | cpyf (w : WordE)
  /-- CPYX (R251). -/
  | cpyx (w : WordE)
  /-- SIGNAL (R252). -/
  | signal (w : WordE)
  /-- COPY_OP_START (R246). -/
  | copyOpStart (hall : Nat) (queue : Nat)
  /-- COPY_UNIT_LAND (R247). -/
  | copyUnitLand (hall : Nat) (queue : Nat)
  /-- COPY_OP_COMPLETE (R246). -/
  | copyOpComplete (hall : Nat) (queue : Nat)
  /-- SIGNAL_PERFORM (R252). -/
  | signalPerform (hall : Nat) (queue : Nat)
  /-- FMTD (R272). -/
  | fmtd (w : WordA)
  /-- MMA (R273). -/
  | mma (w : WordX)
  /-- MMAS (R276). -/
  | mmas (w : WordX)
  /-- MMAD (R283). -/
  | mmad (w : WordX)
  /-- MZERO (R277). -/
  | mzero (w : WordX)
  /-- MLD (R277). -/
  | mld (w : WordX)
  /-- MST (R277). -/
  | mst (w : WordX)
  /-- MSCL (R277). -/
  | mscl (w : WordX)
  /-- MDLOAD (R275). -/
  | mdload (w : WordX)
  /-- MPRUNE (R278). -/
  | mprune (w : WordX)
  /-- MDECOMP (R279). -/
  | mdecomp (w : WordX)
  /-- MATRIX_GRANT (R266). -/
  | matrixGrant (hall : Nat)
  /-- MATRIX_ENTRY_COMPLETE (R268). -/
  | matrixEntryComplete (hall : Nat) (op : Nat)
  /-- NCALL (R286). -/
  | ncall (w : WordN)
  /-- BIN_FLUSH_AGE (R289). -/
  | binFlushAge (hall : Nat) (bin : Nat)
  /-- BIN_FLUSH_STALL (R289). -/
  | binFlushStall (hall : Nat)
  /-- REGROUP_ENTRY_POST (R265). -/
  | regroupEntryPost (hall : Nat)
  /-- REGROUP_PASS_COMPLETE (R290). -/
  | regroupPassComplete (hall : Nat) (op : Nat)
  /-- WPIN (R292). -/
  | wpin (w : WordE)
  /-- WPREF (R292). -/
  | wpref (w : WordE)
  /-- WUNPIN (R292). -/
  | wunpin (w : WordE)
  /-- WSTAT (R293). -/
  | wstat (w : WordE)
  /-- RTRACE (R319). -/
  | rtrace (w : WordE)
  /-- RTGET (R320). -/
  | rtget (w : WordA)
  /-- RTACCEPT (R321). -/
  | rtaccept (w : WordA)
  /-- RAY_QUERY_STOP (R317). -/
  | rayQueryStop (core : Nat) (slot : Nat) (lane : Nat)
  /-- TEX (R322). -/
  | tex (w : WordB)
  /-- TEXLD (R323). -/
  | texld (w : WordB)
  /-- TEXQ (R324). -/
  | texq (w : WordB)
  /-- INTERP (R325). -/
  | interp (w : WordA)
  /-- DDX (R326). -/
  | ddx (w : WordA)
  /-- DDY (R326). -/
  | ddy (w : WordA)
  /-- EXPC (R327). -/
  | expc (w : WordA)
  /-- EXPZ (R327). -/
  | expz (w : WordA)
  /-- DISCARD (R328). -/
  | discard (w : WordA)
  /-- EMITV (R329). -/
  | emitv (w : WordA)
  /-- EMITP (R330). -/
  | emitp (w : WordA)
  /-- RASTER_TRIANGLE (R298). -/
  | rasterTriangle (gallery : Nat)
  /-- FRAGMENT_PROCESS (R303). -/
  | fragmentProcess (grid : Nat) (index : Nat)
  /-- DRAW_FLUSH (R307). -/
  | drawFlush (grid : Nat)
  /-- UNIT_IMAGE_SWITCH (R308). -/
  | unitImageSwitch (kind : Nat) (unit : Nat)
  /-- BRA (R203). -/
  | bra (w : WordK)
  /-- BRV (R203). -/
  | brv (w : WordK)
  /-- JMP (R203). -/
  | jmp (w : WordK)
  /-- JMPI (R203). -/
  | jmpi (w : WordK)
  /-- CALL (R204). -/
  | call (w : WordK)
  /-- CALLI (R204). -/
  | calli (w : WordK)
  /-- RET (R205). -/
  | ret (w : WordK)
  /-- EXIT (R205). -/
  | exit (w : WordK)
  /-- YIELD (R206). -/
  | yield (w : WordK)
  /-- NOP (R206). -/
  | nop (w : WordK)
  /-- WAITK (R206). -/
  | waitk (w : WordK)
  /-- TRAP (R207). -/
  | trap (w : WordK)
  /-- ERET (R381). -/
  | eret (w : WordK)
  /-- BKPT (R207). -/
  | bkpt (w : WordK)
  /-- CLAUSE_HEADER (R143). -/
  | clauseHeader (h : Header)
  /-- FAIRNESS_TIMER (R45). -/
  | fairnessTimer (core : Nat) (slot : Nat)
  /-- RESERVATION_DEFER_EXPIRE (R45). -/
  | reservationDeferExpire (core : Nat) (slot : Nat)
  /-- PROGRESS_WATCHDOG (R394). -/
  | progressWatchdog (core : Nat) (slot : Nat)
  /-- PERFC (R336). -/
  | perfc (w : WordA)
  /-- PERFC_COMPLETE (R336). -/
  | perfcComplete (core : Nat) (slot : Nat) (op : Nat)
  /-- WEIGHT_FILL_COMPLETE (R292). -/
  | weightFillComplete (hall : Nat) (op : Nat)
  /-- QUERY_COMPLETE (R149). -/
  | queryComplete (core : Nat) (slot : Nat) (op : Nat)
  /-- CONTEXT_RECORD_DONE (R213). -/
  | contextRecordDone (core : Nat) (slot : Nat) (op : Nat)
  /-- PORT_TRAINED (R443). -/
  | portTrained (port : Nat) (lanes : Nat)
  /-- UNIT_RELOAD_END (R427). -/
  | unitReloadEnd (kind : Nat) (unit : Nat)
  /-- CSLOAD (R310). -/
  | csload (w : WordE)
  /-- CSLOAD_COMPLETE (R310). -/
  | csloadComplete (core : Nat) (slot : Nat) (op : Nat)
  /-- TLBINV (R209). -/
  | tlbinv (w : WordE)
  /-- TLBINV_COMPLETE (R209). -/
  | tlbinvComplete (core : Nat) (slot : Nat) (op : Nat)
  /-- HALT (R210). -/
  | halt (w : WordK)
  /-- CTXSAVE (R213). -/
  | ctxsave (w : WordE)
  /-- CTXREST (R213). -/
  | ctxrest (w : WordE)
  /-- PAGE_WALK_COMPLETE (R93). -/
  | pageWalkComplete (walk : Nat)
  /-- GRID_DISPATCH_BEGIN (R35). -/
  | gridDispatchBegin (queue : Nat)
  /-- BLOCK_PLACE (R39). -/
  | blockPlace (queue : Nat)
  /-- BLOCK_RETIRE (R48). -/
  | blockRetire (block : Nat)
  /-- GRID_COMPLETE (R49). -/
  | gridComplete (grid : Nat)
  /-- STREAM_WAIT_CHECK (R349). -/
  | streamWaitCheck (queue : Nat)
  /-- DFE_ACCESS_RETRY (R433). -/
  | dfeAccessRetry (queue : Nat)
  /-- STARVED_GRID_REPORT (R434). -/
  | starvedGridReport (grid : Nat)
  /-- LAUNCH_ENQUEUE (R348). -/
  | launchEnqueue (queue : Nat) (word : W64)
  /-- QUEUE_RESET (R348). -/
  | queueReset (queue : Nat)
  /-- PREEMPT_REQUEST (R50). -/
  | preemptRequest (ctx : Nat) (value : W64)
  /-- PREEMPT_HALT (R50). -/
  | preemptHalt (ctx : Nat)
  /-- PREEMPT_SAVE (R51). -/
  | preemptSave (ctx : Nat)
  /-- CONTEXT_RESUME (R52). -/
  | contextResume (ctx : Nat)
  /-- BLOCK_RESTORE (R53). -/
  | blockRestore (ctx : Nat) (index : Nat)
  /-- HALL_OWNER_WRITE (R346). -/
  | hallOwnerWrite (hall : Nat) (value : W64)
  /-- HALL_OWNER_CHANGE (R346). -/
  | hallOwnerChange (hall : Nat)
  /-- FRESUME (R402). -/
  | fresume (ctx : Nat) (va : VA)
  /-- WAVE_RESUME (R210). -/
  | waveResume (core : Nat) (slot : Nat)
  /-- COOLANT_GRANT_WRITE (R342). -/
  | coolantGrantWrite (zone : Nat) (value : W64)
  /-- IBUD_WRITE (R338). -/
  | ibudWrite (hall : Nat) (value : W32)
  /-- WINDOW_ACCESS (R77). -/
  | windowAccess (a : ApcAccess)
  /-- REGISTER_WRITE (R6). -/
  | registerWrite (addr : Nat) (value : W64)
  /-- CONTROL_INTERVAL_BOUNDARY (R338). -/
  | controlIntervalBoundary (samples : List HallSample) (outside : W32)
  /-- VOLTAGE_SLEW_END (R334). -/
  | voltageSlewEnd (flight : Nat)
  /-- CLOCK_HOP (R334). -/
  | clockHop (hall : Nat)
  /-- CLOCK_HOP_END (R334). -/
  | clockHopEnd (hall : Nat)
  /-- LANDING_SAMPLE (R341). -/
  | landingSample (flight : Nat) (r : LandingReading)
  /-- DROOP_DETECT (R435). -/
  | droopDetect (hall : Nat)
  /-- DROOP_CLEAR (R435). -/
  | droopClear (hall : Nat) (cycles : W32)
  /-- VALVE_STEP (R342). -/
  | valveStep (zone : Nat) (r : ZoneReading)
  /-- COOLANT_EVENT (R437). -/
  | coolantEvent (zone : Nat) (r : ZoneReading)
  /-- COOLANT_EVACUATION (R438). -/
  | coolantEvacuation (zone : Nat)
  /-- EVACUATION_END (R438). -/
  | evacuationEnd (zone : Nat) (r : ZoneReading)
  /-- OVERHEAT_STOP (R439). -/
  | overheatStop (zone : Nat)
  /-- AGEING_REPLAN (R343). -/
  | ageingReplan (hall : Nat) (margins : List Nat)
  /-- MATRIX_ENGINE_HANG (R420). -/
  | matrixEngineHang (hall : Nat)
  /-- MATRIX_ENGINE_RESTART (R420). -/
  | matrixEngineRestart (hall : Nat)
  /-- COPY_QUEUE_RESET (R430). -/
  | copyQueueReset (hall : Nat) (queue : Nat)
  /-- UNIT_RELOAD (R427). -/
  | unitReload (kind : Nat) (unit : Nat)
  /-- DECODER_WATCHDOG (R408). -/
  | decoderWatchdog (core : Nat) (slot : Nat) (va : VA)
  /-- REMOTE_TIMEOUT (R412). -/
  | remoteTimeout (r : RemoteLoss)
  /-- REMOTE_REQUEST (R351). -/
  | remoteRequest (r : RemoteAccess)
  /-- SCRUB (R409). -/
  | scrub (d : Damage)
  /-- FLIT_CRC_REPLAY (R442). -/
  | flitCrcReplay (port : Nat) (flits : Nat)
  /-- PORT_RETRAIN (R443). -/
  | portRetrain (port : Nat) (lanes : Nat)
  /-- PORT_REMOVE (R443). -/
  | portRemove (port : Nat)
  /-- MODULE_BOOT (R355). -/
  | moduleBoot (images : List SignedImage)
  /-- ATTESTATION_REQUEST (R356). -/
  | attestationRequest (nonce : List Byte)
  /-- MODULE_NUMBER_ASSIGN (R352). -/
  | moduleNumberAssign (number : Nat)
  /-- CAPTURE_READ (R354). -/
  | captureRead (addr : Nat) (len : Nat)
  /-- CHECKPOINT (R357). -/
  | checkpoint (seq : W64) (tier : TierWrites)
  /-- CHECKPOINT_RESTORE (R445). -/
  | checkpointRestore
  deriving DecidableEq, Repr

end Sys2Proof
end

