-- ==== Sys2Proof/Machine/State.lean ====
section
/-! DEFINITION. The state of the machine as plain data: everything the spec gives the module, in the parts INVENTORY.md
lists. Tables are sparse; what an unlisted key reads as is the `blank` value named beside the part. -/

namespace Sys2Proof.Machine

/-- The one stop of the model. -/
inductive Fault where
  /-- A word's meaning was asked for in a state in which no wave is selected (`Device.cur`). `step` selects a wave
  before it runs a word, so no run raises it. Raised by the shared prologue of the words. Safe. -/
  | noWave
  deriving DecidableEq, Repr

/-- What the model does not give a meaning. -/
inductive Refusal where
  /-- An instruction with no meaning in the model, by its mnemonic. Safe. -/
  | notModelled (mnemonic : String)
  deriving DecidableEq, Repr

/-- The outcome of a step of the machine. -/
abbrev Out (σ : Type) := Host.Outcome σ Fault Refusal

/-- One entry of a wave's path table (R43, R44): PC, call depth, lanes, the yielded mark and the fresh mark. -/
structure Path where
  pc : VA
  depth : BitVec 16
  mask : Mask
  yielded : Bool
  fresh : Bool
  deriving DecidableEq, Repr

/-- A register that an outstanding operation will write: a word of the core's register file, a scalar register, a
block register or a queue. -/
inductive RegLoc where
  | rf (word : Nat)
  | sreg (n : Nat)
  | breg (n : Nat)
  | queue (n : Nat)
  deriving DecidableEq, Repr

/-- What an outstanding operation of a wave is (R143, R149). -/
inductive OpKind where
  | alu | load | store | cwb | flush | query | perfc | alcatt | decomp | ncall | ray | tlbinv | csload | ctxSave | ctxRest | fill | evict
  deriving DecidableEq, Repr

/-- A request of a lane to another module (R140, R352): the module, the port, the lane and the address of its first byte. -/
structure RemotePart where
  module : Nat
  port : Nat
  lane : Nat
  va : Nat
  deriving DecidableEq, Repr

/-- An outstanding operation of a wave: its identifier, the words its lookahead window still admits (`none`: no bound,
R149), the registers it leaves pending, the results it will write, its token, the flags it brings, and operand values
read at issue, and the requests that it sent to other modules (R140, R352). -/
structure LongOp where
  id : Nat
  kind : OpKind
  win : Option Nat
  regs : List RegLoc
  writes : List (RegLoc × W64)
  tok : Option Nat
  flags : BitVec 7
  args : List W64
  ports : List RemotePart
  deriving DecidableEq, Repr

/-- A spill or fill in progress (R61): the lanes that failed the check, whether it is a fill, and the values of
sr.trlvl and sr.trcause to return to (R381). -/
structure SpillFill where
  lanes : Mask
  fill : Bool
  lvl : BitVec 2
  cause : BitVec 8
  deriving DecidableEq, Repr

/-- What a failed page walk told a wave (R397): the page, the cause, and INFO bits [5:0]. -/
structure WalkFault where
  page : VA
  cause : BitVec 8
  info : W64
  deriving DecidableEq, Repr

/-- An ARWAIT that holds the wave's later words (R238): the arrival operand and the s register for the generation. -/
structure ArWait where
  operand : W64
  dst : Option Nat
  deriving DecidableEq, Repr

/-- A ray hit as a ray record holds it (R216, R319): status, t, u, v, primitive index, GEOM, and the nine words of the
decoded vertices. -/
structure RayHit where
  status : W32
  t : W32
  u : W32
  v : W32
  prim : W32
  geom : W32
  verts : List W32
  deriving DecidableEq, Repr

/-- One item of a traversal stack (R317): a node, a leaf, or the triangles of a leaf that come after one of them, by t and
index. -/
inductive RayItem where
  | node (addr : Nat)
  | leaf (addr : Nat)
  | tris (addr : Nat) (after : Option (W32 × Nat))
  deriving DecidableEq, Repr

/-- A lane's ray record (R319): committed hit, candidate, the ray as read, the structure header, the query's flags, the
traversal state, whether a query is in flight, and where its answer goes. -/
structure RayRec where
  hit : RayHit
  cand : RayHit
  ray : List W32
  header : VA
  any : Bool
  cull : Bool
  opq : Bool
  stack : List RayItem
  visits : Nat
  begun : Bool
  flying : Bool
  op : Nat
  dst : List RegLoc
  parked : Option VA
  deriving DecidableEq, Repr

/-- One vertex of a wave's vertex buffer (R329). -/
structure Vertex where
  pos : List W32
  attrs : List W32
  deriving DecidableEq, Repr

/-- A triangle as it stands in a draw (R294, R297): the geometry grid, the gallery that emitted it, its place in primitive
order, the draw state block with its words once the raster unit has read them (R295), its vertices and its primitive
identifier. -/
structure Triangle where
  grid : Nat
  gallery : Nat
  order : List Nat
  dsb : VA
  state : List W64
  verts : List Vertex
  prim : W32
  deriving DecidableEq, Repr

/-- What a pixel wave's lane stands for (R299, R300): its pixel, its triangle among the wave's, its depth and
barycentrics, and the EXPC words it has executed. -/
structure PixLane where
  x : Nat
  y : Nat
  tri : Nat
  depth : W32
  b1 : W32
  b2 : W32
  exports : Nat
  deriving DecidableEq, Repr

/-- A pixel wave's inputs (R300). -/
structure PixWave where
  tris : List Triangle
  lanes : Tbl PixLane
  deriving DecidableEq, Repr

/-- The trap registers of a wave (Tables 3.4 and 18.2), with the spill or fill in progress and the lanes of the path that
the running handler took (R380). -/
structure WaveTrap where
  trcause : BitVec 8
  trlvl : BitVec 2
  trdepth : BitVec 16
  trvec : VA
  strvec : VA
  trfbase : VA
  spillh : VA
  bsbase : VA
  bslane : W32
  wdlim : BitVec 6
  sf : Option SpillFill
  taken : Mask
  deriving DecidableEq, Repr

/-- The counters of a wave (Table 8.3), WISSUE at the last control-interval boundary (R340), its fairness timer (R45) and its
progress watchdog (R394). -/
structure WaveCount where
  wcycle : W64
  wissue : W64
  base : W64
  spass : W64
  grain : W64
  fair : Nat
  wd : Nat
  deferred : Option Nat
  deriving DecidableEq, Repr

/-- A wave's position (R56): its path table, the running entry (a place past the table's end: no path runs), sr.clpos, the
clause header in force, marks that act at the next clause boundary (a yield, a lowered rank), whether the wave has issued a
word, and by handler level (sr.trlvl) a HALT that takes effect after the clause (R210). -/
structure WavePos where
  paths : List Path
  run : Nat
  clpos : BitVec 4
  hdr : Option W64
  yieldDue : Bool
  yrank : Bool
  begun : Bool
  haltDue : BitVec 4
  deriving DecidableEq, Repr

/-- A wave's graphics state (R301, R319, R327, R329, Table 11.4). -/
structure WaveGfx where
  dsb : VA
  helper : Mask
  verts : List Vertex
  pix : Option PixWave
  rays : Tbl RayRec
  triangles : Nat
  deriving DecidableEq, Repr

/-- A wave (R25, R33): what it belongs to, its position, its registers outside the vector register file, its
outstanding operations and what holds it; `fenced` tells of a FENCE whose stores are outstanding, and whether it is at
.dom (R234, R140). -/
structure Wave where
  block : Nat
  widx : Nat
  width : Nat
  ctx : Nat
  prio : Nat
  disp : Nat
  nstk : Nat
  rfbase : Nat
  pos : WavePos
  sregs : Tbl W64
  preds : Tbl Mask
  tokPend : BitVec 16
  tokOrph : BitVec 16
  lfsr : Tbl W32
  wb : Tbl W32
  old : Tbl W32
  fflags : BitVec 7
  fmode : BitVec 3
  trap : WaveTrap
  cnt : WaveCount
  gfx : WaveGfx
  resv : Tbl Nat
  ops : List LongOp
  nextOp : Nat
  fenced : Option Bool
  arw : Option ArWait
  halted : Bool
  parked : Option VA
  walkFaults : List WalkFault
  deriving DecidableEq, Repr

/-- A gathered entry of an access-processor queue: one value a lane, or the fault its gather met, with the lanes that met it
(R398). -/
inductive GatherEntry where
  | data (lanes : List W32)
  | bad (f : WalkFault) (mask : Mask)
  deriving DecidableEq, Repr

/-- An access-processor queue (R97, R239, R240, Table 8.9): the wave slot bound to it, its two streams, their
positions, the lane offsets read at binding and the entries gathered and not yet popped. -/
structure ApQueue where
  slot : Option Nat
  gbnd : Bool
  sbnd : Bool
  gsp : Bool
  ssp : Bool
  sovf : Bool
  gbase : W64
  gstride : W64
  gcount : Nat
  gnext : Nat
  goffs : List W32
  gmask : Mask
  entries : List GatherEntry
  sqbase : W64
  sqstride : W64
  scount : Nat
  snext : Nat
  soffs : List W32
  smask : Mask
  deriving DecidableEq, Repr

/-- A line of a core's L1 (R72, R226): its physical line number, the constant mark and its bytes. -/
structure L1Line where
  line : Nat
  const : Bool
  bytes : List Byte
  deriving DecidableEq, Repr

/-- A translation (R92, R93): context, page start, log2 of its size, physical start, and the leaf's attributes. -/
structure TlbEntry where
  ctx : Nat
  page : Nat
  bits : Nat
  pa : Nat
  kind : BitVec 2
  mt : BitVec 2
  priv : Bool
  x : Bool
  w : Bool
  rd : Bool
  dirty : Bool
  deriving DecidableEq, Repr

/-- A page walk (R93): context, the address that missed, whether an access writes or fetches, whether a page walker has
taken it, and the waves that wait for it. -/
structure Walk where
  ctx : Nat
  va : VA
  write : Bool
  fetch : Bool
  discard : Bool
  begun : Bool
  waiters : List (Nat × Nat)
  deriving DecidableEq, Repr

/-- A copy of a unit's 256 sidecar bytes in a hall's sidecar store (R94, R95): the context and the number of the 64 KiB
unit, where the bytes stand in memory, and the blocks whose byte has been invalidated since the copy was fetched. -/
structure SideUnit where
  ctx : Nat
  unit : Nat
  pa : Nat
  lost : List Nat
  deriving DecidableEq, Repr

/-- A core (Table 1.2): its waves by slot, L1 lines most recent first, TLB, access-processor queues, the DBG bits of its
wave-slot entries (Table 8.5), the slot that issued last, the hall cycles for which its issue slot is still taken
(R27, R41), the lines of its instruction cache, most recent first (Table 1.2), and the two waves that issue as a packed
pair (R29). -/
structure Core where
  waves : Tbl Wave
  l1 : List L1Line
  tlb : List TlbEntry
  queues : Tbl ApQueue
  dbg : Mask
  last : Nat
  busy : Nat
  icache : List Nat
  pair : Option (Nat × Nat)
  deriving DecidableEq, Repr

/-- One attachment of a block (R84, R215). -/
structure Attach where
  entry : Nat
  name : W64
  gen : BitVec 16
  affinity : Bool
  deriving DecidableEq, Repr

/-- A resident block (R30): its grid, place, the reference core of its placement (R39), scratchpad granules, tiles,
registers, request and attachments, the block registers that the word now issuing has written, and the register and wave slot
of each write of a block register in this hall cycle (R66). -/
structure Block where
  grid : Nat
  ctx : Nat
  core : Nat
  slot0 : Nat
  nwaves : Nat
  linear : W64
  dpos : Nat
  ref : Nat
  sgran : Nat
  ngran : Nat
  freed : List Nat
  acct : Nat
  mmap : VA
  bregs : Tbl W32
  bwritten : BitVec 8
  bnotes : List (Nat × Nat)
  preq : BitVec 3
  grains : W32
  current : W32
  attach : List Attach
  pixel : Bool
  ended : Bool
  deriving DecidableEq, Repr

/-- A launch parameter block as the DFE reads it (Table 2.1). -/
structure Lpb where
  va : VA
  entry : VA
  gx : Nat
  gy : Nat
  gz : Nat
  wavew : BitVec 2
  nwaves : Nat
  order : BitVec 3
  swz : Nat
  prio : Nat
  perf : BitVec 3
  acct : Nat
  stack : Nat
  frame0 : Nat
  scratch : Nat
  grains : W32
  current : W32
  naff : Nat
  recn : Nat
  recbase : W64
  wstbase : W64
  args : W64
  sigaddr : W64
  aff : List W64
  deriving DecidableEq, Repr

/-- A fragment on its way to a pixel back end (R303), with the grid of its pixel kernel and its draw state block. -/
structure Fragment where
  grid : Nat
  order : List Nat
  state : List W64
  target : Nat
  x : Nat
  y : Nat
  depth : W32
  colour : List W32
  deriving DecidableEq, Repr

/-- A pixel wave that waits for placement (R296): the grid of its kernel, its gallery, its lanes and helper lanes. -/
structure PixPending where
  grid : Nat
  gallery : Nat
  mask : Mask
  helper : Mask
  wave : PixWave
  deriving DecidableEq, Repr

/-- A draw in progress (R294): triangles not yet rasterised, pixel waves not yet placed, pixel blocks resident, fragments
not yet processed, the compressed blocks that its back ends changed, by virtual address (R307), whether a refusal
has been reported (R432), and whether the choice of a core for its first pixel wave has failed (R39). -/
structure Draw where
  tris : List Triangle
  pending : List PixPending
  pixelBlocks : Nat
  frags : List Fragment
  changed : List Nat
  reported : Bool
  tried : Bool
  deriving DecidableEq, Repr

/-- A grid that has begun dispatch (R35 to R49), or the grid of a draw's pixel kernel, with its geometry grid (R296).
`refCore` is the core of position `nextPos` − 1; an undone position stands with its own reference core (R39, R50); `tried` is
the position for which the choice of a core has failed and has not become due again. -/
structure Grid where
  queue : Nat
  ctx : Nat
  seq : W64
  lpb : Lpb
  nextPos : Nat
  undone : List (Nat × Nat)
  retired : Nat
  bad : Bool
  refCore : Nat
  cores : List Nat
  shadow : Tbl Byte
  waited : Nat
  refused : Bool
  tried : Option Nat
  draw : Draw
  parent : Option Nat
  deriving DecidableEq, Repr

/-- An entry of a launch queue (R348): grid or stream-ordered wait, its address and its context, and the fabric cycle and
rank of its append (a core's index, or 512 and the APC core's). -/
structure QEntry where
  wait : Bool
  va : VA
  ctx : Nat
  cyc : W64
  rank : Nat
  deriving DecidableEq, Repr

/-- What stands at the head of a launch queue: a grid in progress, or a wait with whether its last access faulted and the kinds of
access whose fault record has been written (R433). -/
inductive QHead where
  | grid (id : Nat)
  | wait (e : QEntry) (faulted : Bool) (told : List Nat)
  deriving DecidableEq, Repr

/-- A launch queue (Table 13.2, R37, R39). -/
structure LaunchQueue where
  en : Bool
  prio : BitVec 2
  rbase : VA
  entries : List QEntry
  tail : Nat
  head : Option QHead
  err : Bool
  ovf : Bool
  seq : W64
  ctx : BitVec 6
  lastCore : Nat
  deriving DecidableEq, Repr

/-- What a saved wave's record has no field for (log 18): orphaned tokens, a spill or fill in progress, the lanes of its
handler, a HALT due, the words it issued in the control interval and the hall and charge that await them (R340), an ARWAIT,
its raster unit's inputs (R300) and its triangle count. -/
structure WaveMore where
  orph : BitVec 16
  sf : Option SpillFill
  taken : Mask
  haltDue : BitVec 4
  hall : Nat
  words : Nat
  owed : Nat
  arw : Option ArWait
  pix : Option PixWave
  triangles : Nat
  deriving DecidableEq, Repr

/-- What a saved block's record has no field for, by the record's address (log 18): its granules freed, the poison marks
of its storage, the numbers of its copies, in whose order they return to their queues (R253), the lookahead windows of its
decompositions (R150), its waves'. -/
structure SavedMore where
  addr : Nat
  freed : List Nat
  poison : List (Nat × Nat)
  copies : List Nat
  wins : List (Option Nat)
  waves : List WaveMore
  deriving DecidableEq, Repr

/-- A context's registers (Tables 13.1, 18.1, 19.2) and its pre-emption in progress: the queue named by the request,
the saved records not yet restored (address and core), and what they have no field for. `req` holds placement back,
`halting` stops the waves, `saved` follows the save (R50). `evac` names the zones whose evacuation pre-empts it (R438).
`energy` counts grains charged to it, `traffic` its cache traffic by kind (R98), `paid` the traffic already charged. -/
structure Ctx where
  l0base : W64
  scbase : VA
  csa : VA
  req : Bool
  resume : Bool
  saved : Bool
  evq : BitVec 8
  evac : List Nat
  sysctx : Bool
  frbase : W64
  frhead : W32
  park : Bool
  halting : Bool
  records : List (Nat × Nat)
  more : List SavedMore
  energy : Nat
  traffic : Tbl Nat
  paid : Tbl Nat
  deriving DecidableEq, Repr

/-- An Alcove Table entry (Table 4.4), with the mark of the freeing form of ALCREL (R258), the core and first granule of
a refill in progress (R86), the page on which an eviction or refill is parked, the 128-byte units of it that have landed
(R402), the order of its last attachment (R85), and the number of its making, by which a waiting ALCATT knows it (R404). -/
structure Alcove where
  name : W64
  owner : BitVec 6
  hall : BitVec 7
  core : BitVec 2
  offset : BitVec 6
  size : BitVec 5
  state : BitVec 2
  life : BitVec 2
  sealed : Bool
  busy : Bool
  gen : BitVec 16
  lease : BitVec 16
  attach : BitVec 16
  backing : VA
  remain : BitVec 16
  queue : BitVec 8
  grid : Nat
  marked : Bool
  target : Option (Nat × Nat)
  parked : Option VA
  unit : Nat
  lastUse : Nat
  made : Nat
  deriving DecidableEq, Repr

/-- An entry of a hall's range-lock table (R132): the operation that holds it, its space (0 global by virtual line with
its context, 1 scratchpad, 2 physical), its lines, and whether it is void (R441). -/
structure RangeLock where
  op : Nat
  queue : Option Nat
  block : Nat
  dest : Bool
  space : Nat
  ctx : Nat
  lo : Nat
  hi : Nat
  voided : Bool
  deriving DecidableEq, Repr

/-- An operation of a copy-engine queue (R243 to R253): the number of its first issue, in whose order operations return to
their queue (R253), the issuing wave, the word, the operand values and the CLEAR read at issue, the next 128-byte unit, the
bytes landed and not yet raised, and what its raises carry. -/
structure CopyOp where
  id : Nat
  born : Nat
  core : Nat
  slot : Nat
  block : Nat
  ctx : Nat
  priv : Bool
  opc : BitVec 8
  word : WordE
  x : W64
  y : W64
  sh0 : W64
  sh1 : W64
  arv : Option W64
  clear : List Byte
  begun : Bool
  unit : Nat
  owed : Nat
  finished : Bool
  flags : BitVec 7
  estat : BitVec 8
  parked : Option VA
  moved : W64
  deriving DecidableEq, Repr

/-- An entry of a hall's reservation table (R265, R266): the issuing wave, the word and the operand values read at
issue, or the staging buffer of a regroup pass; the times of issue and of the end of its occupancy; once its work is
done, or has failed, what its completion still owes: flags, engine status and the status of a decomposition. `wop` is
the wave's operation whose register it leaves pending, `order` numbers the grants, `fetching` tells of a request of its tile
fetch that is outstanding at another module (R419). -/
structure MatEntry where
  id : Nat
  core : Nat
  slot : Nat
  block : Nat
  ctx : Nat
  priv : Bool
  wop : Option Nat
  prio : Nat
  opc : BitVec 8
  word : WordX
  opA : W64
  opB : W64
  desc0 : W64
  desc1 : W64
  arv : W64
  image : List W64
  tiles : List Nat
  staging : Option Nat
  age : Nat
  granted : Bool
  order : Nat
  occEnd : Nat
  done : Bool
  failed : Bool
  flags : BitVec 7
  estat : BitVec 8
  status : W64
  parked : Option VA
  fetching : Bool
  deriving DecidableEq, Repr

/-- A call row of the regroup unit (R287): whose it is, its handle, inputs and output registers, its age, and once its
pass has run its outputs and flags (R290). -/
structure CallRow where
  core : Nat
  slot : Nat
  block : Nat
  op : Nat
  lane : Nat
  handle : BitVec 16
  inputs : List W32
  dst : List RegLoc
  age : Nat
  outs : List W32
  flags : BitVec 7
  deriving DecidableEq, Repr

/-- An open bin of the regroup unit (R288), with the number under which the range of its weight set is locked (R135). -/
structure Bin where
  lock : Nat
  ctx : Nat
  set : VA
  rows : List CallRow
  deriving DecidableEq, Repr

/-- A staging buffer in use (R289): a flushed bin, the hall cycle of its flush, and whether its entry has been posted. -/
structure Staging where
  id : Nat
  lock : Nat
  ctx : Nat
  set : VA
  rows : List CallRow
  cyc : Nat
  posted : Bool
  deriving DecidableEq, Repr

/-- A line of a hall's weight cache (R291), most recent first in its list, with the sets that it was used for (R292). -/
structure WLine where
  sets : List VA
  ctx : Nat
  line : Nat
  bytes : List Byte
  deriving DecidableEq, Repr

/-- The pin state of a weight set in a hall (R292): its lines, count and PFAIL, and a fill in progress. -/
structure WSet where
  ctx : Nat
  set : VA
  pins : Nat
  pfail : Bool
  deriving DecidableEq, Repr

/-- A hall's power registers (Table 12.2), the value of GCAP in force, which a write changes at the next boundary, and the
budget the interval opened with (R338). -/
structure HallPower where
  gcapNow : BitVec 3
  ibud : W32
  ebud : W32
  erem : W32
  irem : W32
  stallm : BitVec 16
  busy : BitVec 16
  drop : Bool
  cls : BitVec 3
  gov : Bool
  gcap : BitVec 3
  overspend : W32
  emeas : W32
  bprev : W32
  deriving DecidableEq, Repr

/-- A hall's clock and service (R24, R334, R343, R435 to R440): its target class, a hop in progress, a droop, its
margin table entry (Table 12.4) with the planned one, whether it is in service, whether its zone has stopped its clock,
and whether its zone's evacuation holds it at the floor class (R438). `hop` is the class that a clock stop leads to; `due`
asks for a new target at the end of the hall cycle (R336); `rising` and `fell` tell that a slew of the flight's voltage is
a step of this hall's, or will be (R334). -/
structure HallClock where
  target : BitVec 3
  due : Bool
  rising : Bool
  fell : Bool
  hop : Option (BitVec 3)
  droop : Bool
  cap : BitVec 3
  margin : W32
  newCap : Option (BitVec 3)
  newMargin : W32
  unusable : Bool
  service : Bool
  stopped : Bool
  held : Bool
  deriving DecidableEq, Repr

/-- The counts of a hall in the present control interval (R339 to R341): words issued, hall cycles, cycles stalled, cycles
in which its cores issued, and the ballast drawn, in samples of mA times mV. -/
structure HallCount where
  words : Nat
  cycles : Nat
  stalled : Nat
  issued : Nat
  ballast : Nat
  deriving DecidableEq, Repr

/-- A hall (Table 1.2): owner and pending owner, with the CTX field that its owner register holds while VALID is 0 (R346),
power, clock, its cycle counter, the counts of the control interval, reservation table with the cycles in which it holds an
eligible entry and none runs (R419), regroup unit, weight cache, copy
queues, range locks, second-level TLB and sidecar store, most recently used first (R95). -/
structure Hall where
  owner : Option Nat
  lastOwner : BitVec 6
  nextOwner : Option (Option Nat)
  nextCtx : BitVec 6
  pw : HallPower
  ck : HallClock
  cycle : Nat
  count : HallCount
  mat : List MatEntry
  matHeld : Bool
  matHung : Bool
  matIdle : Nat
  bins : List Bin
  staging : List Staging
  wlines : List WLine
  wsets : List WSet
  cq : Tbl (List CopyOp)
  locks : Tbl RangeLock
  tlb : List TlbEntry
  sides : List SideUnit
  deriving DecidableEq, Repr

/-- A flight (R17, R334, R341, R436): voltage class, a slew in progress, floor and planned floor, ballast of the
lighter layer in mA and whether that is the upper layer, the throttled layer, the cap for the next interval, the stop. -/
structure Flight where
  vcls : BitVec 3
  slew : Option (BitVec 3)
  floor : BitVec 3
  ballast : Nat
  ballastUp : Bool
  throttle : Option Bool
  capNext : Option Bool
  capped : Option Bool
  stop : Bool
  deriving DecidableEq, Repr

/-- Where an event comes from (R21). -/
inductive Source where
  | wave (core slot : Nat)
  | copyQueue (hall queue : Nat)
  | matrix (hall : Nat)
  | regroup (hall : Nat)
  | ray (hall : Nat)
  | launch (queue : Nat)
  | sensor (zone : Nat)
  | monitor (n : Nat)
  | port (p : Nat)
  deriving DecidableEq, Repr

/-- What an event is (R21): each kind that the spec has observers see. -/
inductive EventKind where
  | trap (cause : BitVec 8)
  | record (cause : BitVec 8)
  | telemetry (kind code : Nat)
  | raise (operand : W64)
  | completion (value : W64)
  | halted
  | breakpoint (code : Nat)
  | preempted (ctx : Nat)
  | answer (core slot lane : Nat) (status : W32)
  deriving DecidableEq, Repr

/-- An event on its source, in production order in `Device.events` (R22). -/
structure Event where
  src : Source
  what : EventKind
  deriving DecidableEq, Repr

/-- An entry of a ring of 16-byte entries: telemetry (Table 20.2) or error log (Table 19.7). -/
structure Log16 where
  w0 : W64
  w1 : W64
  deriving DecidableEq, Repr

/-- A line that L2 holds (R16, R72, R98): the context that last wrote it, and for a dirty line the bytes that device
memory still holds. -/
structure L2Line where
  owner : Nat
  old : Option (List Byte)
  deriving DecidableEq, Repr

/-- An image recorded for a context and a unit kind by CSLOAD (R308): its number and its bytes, header included. The image
in force for a context is the one of the highest number. -/
structure UnitImage where
  id : Nat
  ctx : Nat
  kind : Nat
  bytes : List Byte
  deriving DecidableEq, Repr

/-- A microcoded unit (R308, R427): its kind and number, the image it runs (none: the stock image), a reload in
progress, and the hall cycles for which it has had work and made no step. -/
structure UnitRun where
  kind : Nat
  unit : Nat
  image : Option Nat
  reloading : Bool
  idle : Nat
  deriving DecidableEq, Repr

/-- Stores of the die (R20, R55, R73, R106, R274): device memory with the safe tier and peers by 52-bit address,
scratchpads by core × 2^18 + offset, register files by core × 65,536 + word, accumulator elements by
hall × 98,304 + tile × 8,192 + 128 i + j, metadata by hall × 65,536 + offset, L2's lines by line number, the raw contents of
compressed blocks that pixel back ends have yet to write, by block number (R307), and the poison marks (R409) by storage code
and unit. -/
structure Stores where
  mem : Memory
  spad : Memory
  rf : Tbl W32
  acc : Tbl A80
  md : Memory
  l2 : Tbl L2Line
  back : Tbl (List Byte)
  poison : List (Nat × Nat)
  deriving DecidableEq, Repr

/-- The control and status registers of an application core that it stores (R345; their layout is that of RISC-V, PRESUMED,
log 101): the bits that can be written; reads add what is fixed. -/
structure ApcCsrs where
  mstatus : W64
  medeleg : W64
  mideleg : W64
  mie : W64
  mip : W64
  mtvec : W64
  mcounteren : W64
  mcountinhibit : W64
  mscratch : W64
  mepc : W64
  mcause : W64
  mtval : W64
  menvcfg : W64
  stvec : W64
  scounteren : W64
  sscratch : W64
  sepc : W64
  scause : W64
  stval : W64
  senvcfg : W64
  satp : W64
  mcycle : W64
  minstret : W64
  deriving DecidableEq, Repr

/-- An application core (R16, R345; PRESUMED, log 101): pc, x and f registers, fcsr, privilege mode (0 user, 1 supervisor,
3 machine), control and status registers, and the 8-byte unit that its load-reserved holds. -/
structure ApcCore where
  pc : W64
  x : Tbl W64
  f : Tbl W64
  fcsr : BitVec 8
  priv : BitVec 2
  csrs : ApcCsrs
  resv : Option Nat
  deriving DecidableEq, Repr

/-- Everything on the die that waves, engines, the DFE and the APC reach, the APC's cores among it. -/
structure Device where
  st : Stores
  cores : Tbl Core
  halls : Tbl Hall
  flights : Tbl Flight
  queues : Tbl LaunchQueue
  grids : Tbl Grid
  blocks : Tbl Block
  ctxs : Tbl Ctx
  alcoves : Tbl Alcove
  parking : List (Nat × Nat)
  walks : Tbl Walk
  images : List UnitImage
  units : List UnitRun
  apcs : Tbl ApcCore
  routes : Tbl (BitVec 16)
  telemetry : Tbl Log16
  telCount : W32
  errlog : Tbl Log16
  errCount : W32
  nhmax : W32
  nhmeas : W32
  events : List Event
  irqs : List Nat
  fcycle : W64
  modno : BitVec 6
  served : Nat
  nextId : Nat
  cur : Option (Nat × Nat)
  deriving DecidableEq, Repr

/-- A Coolant Allocation Table entry (Table 12.3) with the zone's evacuation, closure and failed sensor (R437, R438). -/
structure Zone where
  owners : W64
  min : BitVec 4
  grant : BitVec 4
  valve : BitVec 4
  tgt : BitVec 16
  temp : BitVec 16
  flow : BitVec 16
  press : BitVec 16
  dry : Bool
  tbud : W32
  failed : Bool
  evacuating : Bool
  closed : Bool
  deriving DecidableEq, Repr

/-- An Ovfoquel port (R351, R438, R443): the lanes that it is trained on, the fabric cycle at which a retraining began,
whether it has been removed, the flits that it has replayed with the fabric cycles of their replays, whether a dry zone keeps
it on one lane. -/
structure Port where
  lanes : Nat
  training : Option W64
  removed : Bool
  replays : List (W64 × Nat)
  slow : Bool
  deriving DecidableEq, Repr

/-- What surrounds the die's logic: coolant zones, ports with the answers sent to other modules, boot with the images loaded
and the APC's release, firmware and microcode received for Fustias, what each access of an application core returned, and the
frames sent on the management port and those that have reached the APC (R342, R345, R351, R354 to R356). -/
structure Plant where
  zones : Tbl Zone
  ports : Tbl Port
  portOut : List (List Byte)
  bootStage : Nat
  loaded : List SignedImage
  apcUp : Bool
  updates : List SignedImage
  measure : List Byte
  versions : List W32
  apcOut : List (Nat × Option W64)
  mgmtOut : List (List Byte)
  mgmtIn : List (List Byte)
  deriving DecidableEq, Repr

/-- Who moves next: a core issues, another agent takes a step of the opcode table, time passes for one hall or for the
fabric clock (log 2), L2 evicts a line (R72), two waves of a core are packed (R29), an image arrives on the management
port (R354), bytes of another module's memory stand as given, poisoned there or not (R351, R412), a matrix entry's requests
to other modules are answered (R419), an application core executes an instruction (R345), or a frame for the APC
arrives on the management port (R354). -/
inductive Move where
  | core (c : Nat)
  | event (i : Instr)
  | hallTime (hall n : Nat)
  | fabricTime (n : Nat)
  | l2Evict (line : Nat)
  | pack (core a b : Nat)
  | mgmtUpdate (i : SignedImage)
  | peer (addr : Nat) (bytes : List Byte) (poisoned : Bool)
  | tileAnswer (hall op : Nat)
  | apc (core : Nat)
  | mgmtFrame (bytes : List Byte)
  deriving DecidableEq, Repr

/-- The state of the module, with the moves to come as an input (log 2). -/
structure State where
  dev : Device
  plant : Plant
  moves : List Move
  deriving DecidableEq, Repr

/-- A core that holds no wave. -/
def blankCore : Core :=
  { waves := [], l1 := [], tlb := [], queues := [], dbg := 0, last := 0, busy := 0, icache := [], pair := none }

/-- A queue bound to no wave. -/
def blankApQueue : ApQueue :=
  { slot := none, gbnd := false, sbnd := false, gsp := false, ssp := false, sovf := false, gbase := 0, gstride := 0,
    gcount := 0, gnext := 0, goffs := [], gmask := 0, entries := [], sqbase := 0, sqstride := 0, scount := 0,
    snext := 0, soffs := [], smask := 0 }

/-- The power registers after reset (Table 12.2). -/
def blankPower : HallPower :=
  { gcapNow := 7, ibud := 24000, ebud := 120000, erem := 0, irem := 24000, stallm := 0, busy := 0, drop := false, cls := 4,
    gov := true, gcap := 7, overspend := 0, emeas := 0, bprev := 0 }

/-- A hall's clock after reset: class 4, cap 7, no margin (Tables 12.2 and 12.4). -/
def blankClock : HallClock :=
  { target := 4, due := false, rising := false, fell := false, hop := none, droop := false, cap := 7, margin := 0, newCap := none,
    newMargin := 0, unusable := false, service := true, stopped := false, held := false }

/-- The counts of a control interval that begins. -/
def blankHallCount : HallCount := { words := 0, cycles := 0, stalled := 0, issued := 0, ballast := 0 }

/-- A hall after reset. -/
def blankHall : Hall :=
  { owner := none, lastOwner := 0, nextOwner := none, nextCtx := 0, pw := blankPower, ck := blankClock, cycle := 0,
    count := blankHallCount, mat := [], matHeld := false, matHung := false, matIdle := 0, bins := [], staging := [], wlines := [],
    wsets := [], cq := [], locks := [], tlb := [], sides := [] }

/-- A flight after reset: class 4, floor 0. -/
def blankFlight : Flight :=
  { vcls := 4, slew := none, floor := 0, ballast := 0, ballastUp := false, throttle := none, capNext := none, capped := none, stop := false }

/-- A launch queue after reset (Table 13.2). -/
def blankQueue : LaunchQueue :=
  { en := false, prio := 0, rbase := 0, entries := [], tail := 0, head := none, err := false, ovf := false, seq := 0,
    ctx := 0, lastCore := 0 }

/-- A context's registers after reset (Tables 13.1, 18.1 and 19.2). -/
def blankCtx : Ctx :=
  { l0base := 0, scbase := 0, csa := 0, req := false, resume := false, saved := false, evq := 0, evac := [], sysctx := false,
    frbase := 0, frhead := 0, park := false, halting := false, records := [], more := [], energy := 0, traffic := [], paid := [] }

/-- A free Alcove Table entry (Table 4.4). -/
def blankAlcove : Alcove :=
  { name := 0, owner := 0, hall := 0, core := 0, offset := 0, size := 0, state := 0, life := 0, sealed := false,
    busy := false, gen := 0, lease := 0, attach := 0, backing := 0, remain := 0, queue := 0, grid := 0,
    marked := false, target := none, parked := none, unit := 0, lastUse := 0, made := 0 }

/-- Coolant zone `z` after reset (Table 12.3). -/
def blankZone (z : Nat) : Zone :=
  { owners := BitVec.allOnes 64, min := 2, grant := if z < 32 then 11 else 5, valve := 0, tgt := 1280, temp := 0,
    flow := 0, press := 0, dry := false, tbud := 0, failed := false, evacuating := false, closed := false }

/-- A port after reset: four lanes, trained. -/
def blankPort : Port := { lanes := 4, training := none, removed := false, replays := [], slow := false }

/-- A hit that does not exist (R216): status 0 and zeros. -/
def blankHit : RayHit := { status := 0, t := 0, u := 0, v := 0, prim := 0, geom := 0, verts := [] }

/-- A ray record of a lane that has made no query. -/
def blankRay : RayRec :=
  { hit := blankHit, cand := blankHit, ray := [], header := 0, any := false, cull := false, opq := false, stack := [],
    visits := 0, begun := false, flying := false, op := 0, dst := [], parked := none }

/-- Empty stores: every byte, word and element zero (logs 4 and 5). -/
def blankStores : Stores :=
  { mem := [], spad := [], rf := [], acc := [], md := [], l2 := [], back := [], poison := [] }

/-- The trap registers of a wave that starts (Table 18.2). -/
def blankTrap : WaveTrap :=
  { trcause := 0, trlvl := 0, trdepth := 0, trvec := 0, strvec := 0, trfbase := 0, spillh := 0, bsbase := 0,
    bslane := 0, wdlim := 24, sf := none, taken := 0 }

/-- The counters of a wave that starts (R201). -/
def blankCount : WaveCount :=
  { wcycle := 0, wissue := 0, base := 0, spass := 0, grain := 0, fair := 0, wd := 0, deferred := none }

/-- The graphics state of a wave that starts (Table 11.4). -/
def blankGfx : WaveGfx := { dsb := 0, helper := 0, verts := [], pix := none, rays := [], triangles := 0 }

/-- An application core after reset: in machine mode at address 0 with every register 0 (PRESUMED, log 101). -/
def blankApc : ApcCore :=
  { pc := 0, x := [], f := [], fcsr := 0, priv := 3, resv := none
    csrs := { mstatus := 0, medeleg := 0, mideleg := 0, mie := 0, mip := 0, mtvec := 0, mcounteren := 0, mcountinhibit := 0,
              mscratch := 0, mepc := 0, mcause := 0, mtval := 0, menvcfg := 0, stvec := 0, scounteren := 0, sscratch := 0,
              sepc := 0, scause := 0, stval := 0, senvcfg := 0, satp := 0, mcycle := 0, minstret := 0 } }

/-- The die right after reset. -/
def blankDevice : Device :=
  { st := blankStores, cores := [], halls := [], flights := [], queues := [], grids := [], blocks := [], ctxs := [],
    alcoves := [], parking := [], walks := [], images := [], units := [], apcs := [], routes := [], telemetry := [], telCount := 0,
    errlog := [], errCount := 0, nhmax := 0, nhmeas := 0, events := [], irqs := [], fcycle := 0, modno := 0,
    served := 255, nextId := 1, cur := none }

/-- What surrounds the die right after reset: zones as Table 12.3, M zero (R355), nothing booted. -/
def blankPlant : Plant :=
  { zones := [], ports := [], portOut := [], bootStage := 0, loaded := [], apcUp := false, updates := [],
    measure := List.replicate 64 0, versions := [], apcOut := [], mgmtOut := [], mgmtIn := [] }

/-- The machine right after reset. -/
def State.reset : State := { dev := blankDevice, plant := blankPlant, moves := [] }

end Sys2Proof.Machine
end

