-- ==== Sys2Proof/Machine/Mem.lean ====
section
/-! DEFINITION. Parts of the device by their number, the stores of the die (R20, R72, R73), poison marks (R409), L1
(R72, R222, R226), reservations (R139) and the bytes a running grid may not fetch (R141). -/

namespace Sys2Proof.Machine

/-- Core `c`. -/
def coreOf (d : Device) (c : Nat) : Core := tblGet blankCore d.cores c

/-- The device with core `c` changed. -/
def modCore (d : Device) (c : Nat) (f : Core → Core) : Device := { d with cores := tblSet d.cores c (f (coreOf d c)) }

/-- Hall `h`. -/
def hallOf (d : Device) (h : Nat) : Hall := tblGet blankHall d.halls h

/-- Application core `c`. -/
def apcOf (d : Device) (c : Nat) : ApcCore := tblGet blankApc d.apcs c

/-- The device with application core `c` as given. -/
def setApc (d : Device) (c : Nat) (k : ApcCore) : Device := { d with apcs := tblSet d.apcs c k }

/-- The device with hall `h` changed. -/
def modHall (d : Device) (h : Nat) (f : Hall → Hall) : Device := { d with halls := tblSet d.halls h (f (hallOf d h)) }

/-- The wave in slot `s` of core `c`. -/
def waveOf (d : Device) (c s : Nat) : Option Wave := tblFind (coreOf d c).waves s

/-- The device with the wave in slot `s` of core `c` changed, if there is one. -/
def modWave (d : Device) (c s : Nat) (f : Wave → Wave) : Device :=
  modCore d c fun k => { k with waves := tblMod k.waves s f }

/-- Context `x`. -/
def ctxOf (d : Device) (x : Nat) : Ctx := tblGet blankCtx d.ctxs x

/-- The device with context `x` changed. -/
def modCtx (d : Device) (x : Nat) (f : Ctx → Ctx) : Device := { d with ctxs := tblSet d.ctxs x (f (ctxOf d x)) }

/-- Launch queue `q`. -/
def queueOf (d : Device) (q : Nat) : LaunchQueue := tblGet blankQueue d.queues q

/-- The device with launch queue `q` changed. -/
def modQueue (d : Device) (q : Nat) (f : LaunchQueue → LaunchQueue) : Device :=
  { d with queues := tblSet d.queues q (f (queueOf d q)) }

/-- The device with a listed block changed. -/
def modBlock (d : Device) (b : Nat) (f : Block → Block) : Device := { d with blocks := tblMod d.blocks b f }

/-- The device with a listed grid changed. -/
def modGrid (d : Device) (g : Nat) (f : Grid → Grid) : Device := { d with grids := tblMod d.grids g f }

/-- Access-processor queue `j` of core `c`. -/
def apqOf (d : Device) (c j : Nat) : ApQueue := tblGet blankApQueue (coreOf d c).queues j

/-- The device with access-processor queue `j` of core `c` changed. -/
def modApq (d : Device) (c j : Nat) (f : ApQueue → ApQueue) : Device :=
  modCore d c fun k => { k with queues := tblSet k.queues j (f (tblGet blankApQueue k.queues j)) }

/-- Alcove Table entry `i`. -/
def alcOf (d : Device) (i : Nat) : Alcove := tblGet blankAlcove d.alcoves i

/-- The device with Alcove Table entry `i` changed. -/
def modAlc (d : Device) (i : Nat) (f : Alcove → Alcove) : Device :=
  { d with alcoves := tblSet d.alcoves i (f (alcOf d i)) }

/-- The hall of a core (R14). -/
def hallOfCore (c : Nat) : Nat := c / 4

/-- A region of the module-local map (Table 1.4). -/
inductive Region where
  | mem | safe | rfile | spad | accmd | weights | ctrl | reserved
  deriving DecidableEq, Repr

/-- The region of a module-local address (Table 1.4). -/
def regionOf (a : Nat) : Region :=
  if a < 0x6000000000 then .mem
  else if a < 0x10000000000 then .reserved
  else if a < 0x18000000000 then .safe
  else if a < 0x200000000000 then .reserved
  else if a < 0x200008000000 then .rfile
  else if a < 0x200010000000 then .spad
  else if a < 0x200018000000 then .accmd
  else if a < 0x200020000000 then .weights
  else if a < 0x200030000000 then .ctrl
  else .reserved

/-- The module of a domain physical address (R20). -/
def moduleOf (a : Nat) : Nat := a / 2 ^ 46

/-- The module-local part of a domain physical address (R20). -/
def localOf (a : Nat) : Nat := a % 2 ^ 46

/-- Whether an address is of another module. -/
def isRemote (d : Device) (a : Nat) : Bool := decide (moduleOf a ≠ d.modno.toNat)

/-- The line numbers that `n` bytes from `a` touch, in units of `size` bytes. -/
def unitsOf (size a n : Nat) : List Nat :=
  if n = 0 then [] else (List.range ((a + n - 1) / size + 1 - a / size)).map fun i => a / size + i

/-- The module of an address and the port of its route mask that the line's hash chooses (R352). -/
def routePort (d : Device) (a : Nat) : Nat × Nat :=
  let ps := (List.range 16).filter fun p => (tblGet 0#16 d.routes (moduleOf a)).getLsbD p
  (moduleOf a, ps.getD (Config.portHash (a / 128 % 2 ^ 39) % ps.length) 0)

/-- The modules and ports to which an access of `n` bytes goes, line by line; none on this module. -/
def routePorts (d : Device) (a n : Nat) : List (Nat × Nat) :=
  if isRemote d a then (unitsOf 128 a n).map fun l => routePort d (128 * l) else []

/-- The requests that a lane's access of `n` bytes sends to another module, line by line: its virtual and its physical address. -/
def routeParts (d : Device) (lane va a n : Nat) : List RemotePart :=
  if isRemote d a then
    (unitsOf 128 a n).map fun l =>
      { module := (routePort d (128 * l)).1, port := (routePort d (128 * l)).2, lane := lane, va := va + (128 * l - a) }
  else []

/-- Whether a wave's access may name the physical address: device memory of this module, or of a module with a route
(R20, R77, R352). -/
def waveReach (d : Device) (a : Nat) : Bool :=
  decide (regionOf (localOf a) = .mem) &&
    (!isRemote d a || decide (tblGet 0#16 d.routes (moduleOf a) ≠ 0#16))

/-- Whether a mark lies on `n` bytes from `a`. Poison codes of this model: memory in units of 16 bytes (2, in L2 or in device
memory), scratchpad words (4), accumulator elements (6), metadata words (7, code 6 of Table 19.6 as well). -/
def poisonHit (p : List (Nat × Nat)) (code size a n : Nat) : Bool :=
  decide (0 < n) &&
    p.any fun u => decide (u.1 = code) && decide (a / size ≤ u.2) && decide (u.2 ≤ (a + n - 1) / size)

/-- The marks left after a write of `n` bytes from `a`: units it replaces whole lose theirs (R409). -/
def poisonClear (p : List (Nat × Nat)) (code size a n : Nat) : List (Nat × Nat) :=
  p.filter fun u => !(decide (u.1 = code) && decide (a ≤ u.2 * size) && decide ((u.2 + 1) * size ≤ a + n))

/-- The marks with every unit that `n` bytes from `a` touch. -/
def poisonMark (p : List (Nat × Nat)) (code size a n : Nat) : List (Nat × Nat) :=
  (List.range ((a + n - 1) / size + 1 - a / size)).foldl
    (fun q i => if q.contains (code, a / size + i) then q else (code, a / size + i) :: q) p

/-- Bytes of memory as L2 holds them. -/
def memRead (d : Device) (a n : Nat) : List Byte := memBytes d.st.mem a n

/-- The kinds of cache traffic that are charged to contexts (R98). -/
inductive Traffic where
  | l1Hit | l1Fill | l2Hit | l2Fill | writeback | sidecar | table | alcove
  deriving DecidableEq, Repr

/-- The place of a kind in a context's counters. -/
def Traffic.no : Traffic → Nat
  | .l1Hit => 0 | .l1Fill => 1 | .l2Hit => 2 | .l2Fill => 3 | .writeback => 4 | .sidecar => 5 | .table => 6 | .alcove => 7

/-- Traffic charged to a context (R98); writers that are no context of this module are charged nothing (log 60). -/
def charge (d : Device) (ctx : Nat) (k : Traffic) (n : Nat) : Device :=
  if ctx < 64 then
    modCtx d ctx fun c => { c with traffic := tblSet c.traffic k.no (tblGet 0 c.traffic k.no + n) }
  else d

/-- The L2 slice of a physical address, which is also the hall of its pixel back end (R14, R16, R302): a hash of bits
[51:8]. -/
def sliceOf (a : Nat) : Nat := Config.sliceHash (a / 256 % 2 ^ 44) % 128

/-- A line leaves L2: a dirty one is written back, charged to the context that last wrote it (R72, R98). -/
def evictLine (d : Device) (line : Nat) : Device :=
  match tblFind d.st.l2 line with
  | none => d
  | some l =>
    let d1 := { d with st := { d.st with l2 := tblErase d.st.l2 line } }
    if l.old.isSome then charge d1 l.owner .writeback 1 else d1

/-- Room made for a line in its slice of 16,384 lines (Table 1.2): a full slice evicts a line, whichever it takes
(log 105). -/
def l2Room (d : Device) (line : Nat) : Device :=
  if d.st.l2.length < 16384 then d
  else
    let mine := (tblKeys d.st.l2).filter fun k => decide (sliceOf (128 * k) = sliceOf (128 * line))
    if mine.length < 16384 then d else evictLine d (mine.getD (Config.l2Victim line % mine.length) 0)

/-- A line put into L2. -/
def l2Put (d : Device) (line : Nat) (l : L2Line) : Device := { d with st := { d.st with l2 := tblSet d.st.l2 line l } }

/-- A line read through L2 for a context: a hit, or a fill (R72, R98). -/
def l2Line (ctx : Nat) (d : Device) (line : Nat) : Device :=
  match tblFind d.st.l2 line with
  | some _ => charge d ctx .l2Hit 1
  | none => charge (l2Put (l2Room d line) line { owner := ctx, old := none }) ctx .l2Fill 1

/-- A read of `n` bytes of this module's memory through L2 for a context. -/
def l2Access (d : Device) (ctx a n : Nat) : Device :=
  if isRemote d a then d else (unitsOf 128 a n).foldl (l2Line ctx) d

/-- A line becomes dirty in L2 under an owner context; device memory keeps its bytes (R72, R98). -/
def l2Dirty (own : Nat) (d : Device) (line : Nat) : Device :=
  let now := memBytes d.st.mem (128 * line) 128
  match tblFind d.st.l2 line with
  | some l => charge (l2Put d line { owner := own, old := some (l.old.getD now) }) own .l2Hit 1
  | none => charge (l2Put (l2Room d line) line { owner := own, old := some now }) own .l2Fill 1

/-- The bytes that an uncached write leaves in device memory under a dirty line (R92, MT 2). -/
def l2Under (a : Nat) (bs : List Byte) (line : Nat) (l : L2Line) : L2Line :=
  { l with old := l.old.map fun old => (List.range 128).map fun i =>
      let x := 128 * line + i
      if a ≤ x ∧ x < a + bs.length then bs.getD (x - a) 0 else old.getD i 0 }

/-- A hall's copies of sidecar bytes after a write of `n` bytes at `a`: those it changes are invalidated (R95). -/
def loseSides (a n : Nat) (h : Hall) : Hall :=
  { h with sides := h.sides.map fun u =>
      if u.pa < a + n ∧ a < u.pa + 256 then
        { u with lost := u.lost ++ ((List.range 256).filter fun i => decide (a ≤ u.pa + i) && decide (u.pa + i < a + n)) }
      else u }

/-- A wave without the reservations that a write of `n` bytes at `a` clears (R139). -/
def dropResv (a n : Nat) (w : Wave) : Wave :=
  { w with resv := w.resv.filter fun r => !(decide (r.2 < a + n) && decide (a < r.2 + 8)) }

/-- An application core without the reservation that a write of `n` bytes at `a` clears (log 101). -/
def dropApcResv (a n : Nat) (k : ApcCore) : ApcCore :=
  { k with resv := k.resv.filter fun r => !(decide (r < a + n) && decide (a < r + 8)) }

/-- What every write of bytes to memory does, at L2 or uncached: copies of sidecar bytes are invalidated (R95), the poison
of units it replaces is cleared (R409), and so are the reservations of the `n` bytes at `r` that the write means (R139). -/
def memSettle (d : Device) (a : Nat) (bs : List Byte) (r n : Nat) : Device :=
  { d with
    st := { d.st with mem := memPut d.st.mem a bs, poison := poisonClear d.st.poison 2 16 a bs.length }
    halls := tblMap (fun _ h => loseSides a bs.length h) d.halls
    cores := tblMap (fun _ k => { k with waves := tblMap (fun _ w => dropResv r n w) k.waves }) d.cores
    apcs := tblMap (fun _ k => dropApcResv r n k) d.apcs }

/-- A write of bytes to memory by an agent of context `own`, performed at L2 (R72), that means the `n` bytes at `r`. -/
def memWriteFor (d : Device) (own a : Nat) (bs : List Byte) (r n : Nat) : Device :=
  memSettle (if isRemote d a then d else (unitsOf 128 a bs.length).foldl (l2Dirty own) d) a bs r n

/-- A write of bytes to memory by an agent of context `own`, performed at L2 (R72). -/
def memWrite (d : Device) (own a : Nat) (bs : List Byte) : Device := memWriteFor d own a bs a bs.length

/-- An uncached write (R92, MT 2): device memory itself takes the bytes. -/
def memWriteUncached (d : Device) (a : Nat) (bs : List Byte) : Device :=
  let lines := unitsOf 128 a bs.length
  memSettle { d with st := { d.st with
    l2 := tblMap (fun k l => if lines.contains k then l2Under a bs k l else l) d.st.l2 } } a bs a bs.length

/-- A write to memory through a translation of a memory type. -/
def memWriteMt (d : Device) (mt : BitVec 2) (own a : Nat) (bs : List Byte) : Device :=
  if mt = 2 ∧ !isRemote d a then memWriteUncached d a bs else memWrite d own a bs

/-- A read of `n` bytes through a translation of a memory type, as far as it moves lines of L2. -/
def l2AccessMt (d : Device) (mt : BitVec 2) (ctx a n : Nat) : Device := if mt = 2 then d else l2Access d ctx a n

/-- Whether any of the bytes of memory is poisoned. -/
def memPoisoned (d : Device) (a n : Nat) : Bool := poisonHit d.st.poison 2 16 a n

/-- Whether the line of an address is dirty in L2. -/
def lineDirty (d : Device) (a : Nat) : Bool := ((tblFind d.st.l2 (a / 128)).bind (·.old)).isSome

/-- The storage code of Table 19.6 under which poisoned bytes of memory are reported: L2's for a unit in a dirty line, else
device memory's (DEDUCED, log 132). -/
def poisonCode (d : Device) (a n : Nat) : Nat :=
  match (unitsOf 16 a n).find? fun u => memPoisoned d (16 * u) 16 with
  | some u => if lineDirty d (16 * u) then 2 else 1
  | none => 1

/-- Units of 16 bytes of memory marked, counted from a base (R409). -/
def markUnits (d : Device) (base : Nat) (us : List Nat) : Device :=
  { d with st := { d.st with poison := us.foldl (fun q u => poisonMark q 2 16 (base + 16 * u) 16) d.st.poison } }

/-- The key of a scratchpad byte. -/
def spadKey (core off : Nat) : Nat := core * 0x40000 + off

/-- Scratchpad bytes of a core. -/
def spadRead (d : Device) (core off n : Nat) : List Byte := memBytes d.st.spad (spadKey core off) n

/-- A write to a core's scratchpad. -/
def spadWrite (d : Device) (core off : Nat) (bs : List Byte) : Device :=
  { d with st := { d.st with
      spad := memPut d.st.spad (spadKey core off) bs
      poison := poisonClear d.st.poison 4 4 (spadKey core off) bs.length } }

/-- Whether any of the bytes of scratchpad is poisoned. -/
def spadPoisoned (d : Device) (core off n : Nat) : Bool := poisonHit d.st.poison 4 4 (spadKey core off) n

/-- A word of a core's register file. -/
def rfGet (d : Device) (core word : Nat) : W32 := tblGet 0#32 d.st.rf (core * 65536 + word)

/-- A register-file word written. -/
def rfSet (d : Device) (core word : Nat) (v : W32) : Device :=
  { d with st := { d.st with rf := tblSet d.st.rf (core * 65536 + word) v } }

/-- The key of element (i, j) of a tile of a hall (R20). -/
def accKey (hall tile i j : Nat) : Nat := hall * 98304 + tile * 8192 + 128 * i + j

/-- An accumulator element. -/
def accGet (d : Device) (hall tile i j : Nat) : A80 := tblGet 0#80 d.st.acc (accKey hall tile i j)

/-- An accumulator element written, with its poison mark. -/
def accSet (d : Device) (hall tile i j : Nat) (v : A80) (bad : Bool) : Device :=
  let k := accKey hall tile i j
  let p := poisonClear d.st.poison 6 1 k 1
  { d with st := { d.st with acc := tblSet d.st.acc k v, poison := if bad then (6, k) :: p else p } }

/-- Whether an accumulator element is poisoned. -/
def accPoisoned (d : Device) (hall tile i j : Nat) : Bool := poisonHit d.st.poison 6 1 (accKey hall tile i j) 1

/-- Metadata bytes of a hall. -/
def mdRead (d : Device) (hall off n : Nat) : List Byte := memBytes d.st.md (hall * 65536 + off) n

/-- A write to a hall's metadata memory. -/
def mdWrite (d : Device) (hall off : Nat) (bs : List Byte) : Device :=
  { d with st := { d.st with
      md := memPut d.st.md (hall * 65536 + off) bs
      poison := poisonClear d.st.poison 7 4 (hall * 65536 + off) bs.length } }

/-- Old bytes of what a running grid stores, which that grid still fetches (R141), by physical address. -/
def shadowPut (t : Tbl Byte) (a : Nat) (old : List Byte) : Tbl Byte :=
  (List.range old.length).foldl (fun t i => match tblFind t (a + i) with
    | some _ => t
    | none => tblSet t (a + i) (old.getD i 0)) t

/-- The first L1 line with a number. -/
def l1Find (ls : List L1Line) (line : Nat) : Option L1Line := ls.find? fun l => decide (l.line = line)

/-- The lines without a number. -/
def l1Drop (ls : List L1Line) (line : Nat) : List L1Line := ls.filter fun l => decide (l.line ≠ line)

/-- A line put first, or last for `.stream`, within the capacity of 1,024 lines (Table 1.2, R222). -/
def l1Put (ls : List L1Line) (l : L1Line) (stream : Bool) : List L1Line :=
  if stream then (l1Drop ls l.line).take 1023 ++ [l] else (l :: l1Drop ls l.line).take 1024

/-- A line read through a core's L1 for a context: a hit, or a fill from L2 (R72, R98, R222). A load of another kind does not
hit a constant line (R226). -/
def l1Line (d : Device) (core ctx line : Nat) (stream const : Bool) : Device :=
  let fill (c : Bool) : Device :=
    modCore (charge (l2Line ctx d line) ctx .l1Fill 1) core fun k =>
      { k with l1 := l1Put k.l1 { line := line, const := c, bytes := memRead d (128 * line) 128 } stream }
  match l1Find (coreOf d core).l1 line with
  | some l =>
    if l.const && !const then fill false
    else modCore (charge d ctx .l1Hit 1) core fun k => { k with l1 := l1Put k.l1 l false }
  | none => fill const

/-- Whether reads of a core through a translation of a memory type go through its L1 (R72, R92, R222). -/
def usesL1 (d : Device) (mt : BitVec 2) (a : Nat) (use : Bool) : Bool := use && decide (mt = 0) && !isRemote d a

/-- What a core's read in the line of an address moves, through a translation of a memory type: L1, else L2, or device memory
for MT 2, and no L1 copy is left behind (R92, R222, R123). -/
def lineTouch (core ctx : Nat) (mt : BitVec 2) (use stream const : Bool) (d : Device) (a : Nat) : Device :=
  if usesL1 d mt a use then l1Line d core ctx (a / 128) stream const
  else modCore (l2AccessMt d mt ctx a 1) core fun k => { k with l1 := l1Drop k.l1 (a / 128) }

/-- Bytes as a core's loads find them: its own copy of a line where it holds one, else L2 (R123). A constant line serves
constant loads alone (R226). -/
def corePeek (d : Device) (core : Nat) (const : Bool) (a n : Nat) : List Byte :=
  (List.range n).map fun i =>
    match l1Find (coreOf d core).l1 ((a + i) / 128) with
    | some l => if l.const && !const then memGet d.st.mem (a + i) else l.bytes.getD ((a + i) % 128) 0
    | none => memGet d.st.mem (a + i)

/-- A core's L1 without its copies of the lines that bytes touch, which a wave of it has read where they are kept (R123). -/
def l1Forget (core a n : Nat) (d : Device) : Device :=
  modCore d core fun k => { k with l1 := (unitsOf 128 a n).foldl l1Drop k.l1 }

/-- The bytes of an L1 line after a store of `bs` at `a` (R72). -/
def l1Patch (a : Nat) (bs : List Byte) (l : L1Line) : L1Line :=
  if l.const then l
  else { l with bytes := (List.range 128).map fun i =>
    let x := 128 * l.line + i
    if a ≤ x ∧ x < a + bs.length then bs.getD (x - a) 0 else l.bytes.getD i 0 }

/-- A core's L1 after its own store: the copy is updated, or dropped where the store bypasses L1 (R72, R222). -/
def l1Store (d : Device) (core a : Nat) (bs : List Byte) (use : Bool) : Device :=
  let lines := unitsOf 128 a bs.length
  let keep (ls : List L1Line) : List L1Line :=
    if use then ls.map (fun l => if lines.contains l.line then l1Patch a bs l else l)
    else ls.filter (fun l => !lines.contains l.line)
  modCore d core fun k => { k with l1 := keep k.l1 }

/-- A core's L1 after an acquire at .hall or wider: constant lines alone stay (R129, R226). -/
def l1Acquire (d : Device) (core : Nat) : Device :=
  modCore d core fun k => { k with l1 := k.l1.filter fun l => l.const }

/-- Device memory brought up to date with a dirty line, which stays in L2 clean (R98, R263). -/
def cleanLine (d : Device) (line : Nat) : Device :=
  match tblFind d.st.l2 line with
  | none => d
  | some l =>
    if l.old.isSome then charge (l2Put d line { l with old := none }) l.owner .writeback 1 else d

/-- A byte as device memory holds it, under any dirty line (R72, R354). -/
def rawByte (d : Device) (a : Nat) : Byte :=
  match (tblFind d.st.l2 (a / 128)).bind (·.old) with
  | some bs => bs.getD (a % 128) 0
  | none => memGet d.st.mem a

end Sys2Proof.Machine
end

