-- ==== Sys2Proof/Machine/Translate.lean ====
section
/-! DEFINITION. Translation (R92, R93, R399), permission (R397), range locks (R132, R400), sidecars and compressed pages
(R94 to R96, R407, R408, R452), for waves and for engines. -/

namespace Sys2Proof.Machine

/-- A memory cause that one lane or unit meets: its place in the order of R398, cause, INFO, ADDR and page. -/
structure MFault where
  rank : Nat
  cause : BitVec 8
  info : W64
  addr : W64
  page : Nat
  deriving DecidableEq, Repr

/-- A virtual address modulo 2^48. -/
def vaNat (x : Nat) : Nat := x % 2 ^ 48

/-- The first in the order of R398 of two causes that one lane meets, the first listed of one place. -/
def leastFault (a b : Option MFault) : Option MFault :=
  match a, b with
  | some x, some y => if y.rank < x.rank then some y else some x
  | some x, none => some x
  | none, y => y

/-- A fault of translation at an address, with INFO bits below [8]. -/
def xlateFault (cause : BitVec 8) (info va : Nat) : MFault :=
  { rank := if cause = 0x30 then 4 else if cause = 0x31 then 5 else 6
    cause := cause, info := BitVec.ofNat 64 info, addr := BitVec.ofNat 64 va, page := va / 65536 }

/-- What a walk gives: the translation with the address of its leaf entry and the entry's value, or the INFO bits of
cause 0x30, or the address for cause 0x32. -/
inductive WalkRes where
  | ok (te : TlbEntry) (leaf : Nat) (pte : W64)
  | absent (info : Nat)
  | badTable (pa : Nat)
  deriving DecidableEq, Repr

/-- Index position and width, and log2 of the page size, of a level (R92). -/
def levelShape (lvl : Nat) : Nat × Nat :=
  match lvl with
  | 0 => (39, 9)
  | 1 => (30, 9)
  | 2 => (21, 9)
  | _ => (16, 5)

/-- The level of a leaf of a page size (R92). -/
def levelOfBits (bits : Nat) : Nat := if bits = 30 then 1 else if bits = 21 then 2 else 3

/-- The walk of R92 from a table at a level, through the levels left. -/
def walkFrom (d : Device) (ctx va : Nat) : List Nat → Nat → WalkRes
  | [], _ => .absent 0
  | lvl :: more, table =>
    let sh := levelShape lvl
    let ea := table + 8 * (va / 2 ^ sh.1 % 2 ^ sh.2)
    if !waveReach d ea then .badTable ea
    else
      let pte := leW64 (memRead d ea 8)
      let leaf := decide (lvl = 3) || (decide (lvl ≠ 0) && pte.getLsbD 1)
      let kind := field pte 62 2
      let mt := field pte 60 2
      if !pte.getLsbD 0 then .absent lvl
      else if lvl = 0 ∧ pte.getLsbD 1 then .absent (32 + lvl)
      else if leaf && (decide (kind = 3) || decide (mt = 3) || (decide (kind = 2) && decide (lvl ≠ 3))) then
        .absent (32 + lvl)
      else
        let addr := field pte 8 44 * 256
        if leaf then
          .ok { ctx := ctx, page := va / 2 ^ sh.1 * 2 ^ sh.1, bits := sh.1, pa := addr / 2 ^ sh.1 * 2 ^ sh.1,
                kind := BitVec.ofNat 2 kind, mt := BitVec.ofNat 2 mt, priv := pte.getLsbD 5, x := pte.getLsbD 4,
                w := pte.getLsbD 3, rd := pte.getLsbD 2, dirty := pte.getLsbD 7 } ea pte
        else walkFrom d ctx va more addr

/-- The walk of an address in a context (R92): tables lie at this module's addresses. -/
def walkTables (d : Device) (ctx va : Nat) : WalkRes :=
  walkFrom d ctx va [0, 1, 2, 3] (field (ctxOf d ctx).l0base 12 40 * 4096)

/-- The addresses of the entries that a walk reads, from a table at a level (R92). -/
def walkReads (d : Device) (va : Nat) : List Nat → Nat → List Nat
  | [], _ => []
  | lvl :: more, table =>
    let sh := levelShape lvl
    let ea := table + 8 * (va / 2 ^ sh.1 % 2 ^ sh.2)
    if !waveReach d ea then []
    else
      let pte := leW64 (memRead d ea 8)
      if !pte.getLsbD 0 ∨ lvl = 3 ∨ pte.getLsbD 1 then [ea] else ea :: walkReads d va more (field pte 8 44 * 256)

/-- The table reads of a walk, made through L2 and charged to the context whose access needs them (R93, R98). -/
def tableReads (d : Device) (ctx va : Nat) : Device :=
  let as := walkReads d va [0, 1, 2, 3] (field (ctxOf d ctx).l0base 12 40 * 4096)
  charge (as.foldl (fun d a => l2Access d ctx a 8) d) ctx .table as.length

/-- The table reads of an access whose translation has failed with a cause (R93, R98). -/
def walkFailed (ctx : Nat) (f : MFault) (d : Device) : Device :=
  if f.cause = 0x30 ∨ f.cause = 0x31 ∨ f.cause = 0x32 then tableReads d ctx (vaNat f.addr.toNat) else d

/-- The walker sets A, and D for a write, in the leaf entry (Table 4.8). -/
def walkMark (d : Device) (ctx leaf : Nat) (pte : W64) (write : Bool) : Device :=
  let v := pte ||| 64#64 ||| (if write then 128#64 else 0)
  if v = pte then d else memWrite d ctx leaf (leBytes 1 v.toNat)

/-- A walk made at once, as engines and the DFE make it: the translation, or its fault with the access's own address. -/
def walkNow (d : Device) (ctx va : Nat) (write : Bool) : Except MFault (TlbEntry × Device) :=
  match walkTables d ctx va with
  | .ok te leaf pte =>
    let dirties := write && te.w
    .ok ({ te with dirty := te.dirty || dirties }, walkMark (tableReads d ctx va) ctx leaf pte dirties)
  | .absent info => .error (xlateFault 0x30 (info + 8 * nat1 write) va)
  | .badTable pa => .error (xlateFault 0x32 pa va)

/-- The translation that covers an address, if one is listed. -/
def tlbFind (l : List TlbEntry) (ctx va : Nat) : Option TlbEntry :=
  l.find? fun e => decide (e.ctx = ctx) && decide (e.page = va / 2 ^ e.bits * 2 ^ e.bits)

/-- The translation that a core's TLB or its hall's holds (R93). -/
def tlbLookup (d : Device) (core ctx va : Nat) : Option TlbEntry :=
  match tlbFind (coreOf d core).tlb ctx va with
  | some e => some e
  | none => tlbFind (hallOf d (hallOfCore core)).tlb ctx va

/-- A translation filled into a TLB of a capacity, in place of any entry of the same page. -/
def tlbFill (cap : Nat) (l : List TlbEntry) (e : TlbEntry) : List TlbEntry :=
  (e :: l.filter fun x => !(decide (x.ctx = e.ctx) && decide (x.page = e.page) && decide (x.bits = e.bits))).take cap

/-- A hall with its second-level TLB changed: copies of sidecars are held while their page's translation is (R95). -/
def setTlb (f : List TlbEntry → List TlbEntry) (h : Hall) : Hall :=
  { h with tlb := f h.tlb, sides := h.sides.filter fun u => (tlbFind (f h.tlb) u.ctx (65536 * u.unit)).isSome }

/-- How an access of a wave finds its translation: listed, to be walked, or failed in a walk made for the wave. -/
inductive Xlate where
  | hit (te : TlbEntry)
  | miss
  | failed (f : WalkFault)
  deriving DecidableEq, Repr

/-- The translation of an address for a wave that knows of some failed walks. A first write walks again (Table 4.8). -/
def xlate (d : Device) (core ctx : Nat) (known : List WalkFault) (va : Nat) (write : Bool) : Xlate :=
  let lost : Xlate :=
    match known.find? fun f => decide (f.page.toNat = va / 65536) && decide (f.cause ≠ 0x41) with
    | some f => .failed f
    | none => .miss
  match tlbLookup d core ctx va with
  | some te => if write && te.w && !te.dirty then lost else .hit te
  | none => lost

/-- A part of an access within one 64 KiB page: virtual address, length, translation, and the hall whose sidecar store
serves it. -/
structure Piece where
  va : Nat
  len : Nat
  te : TlbEntry
  hall : Option Nat
  deriving DecidableEq, Repr

/-- The physical address of a piece. -/
def Piece.pa (p : Piece) : Nat := p.te.pa + (p.va - p.te.page)

/-- The parts of `n` bytes from `va`, cut at 64 KiB pages, in so many parts at most. -/
def pageCutsFrom : Nat → Nat → Nat → List (Nat × Nat)
  | 0, _, _ => []
  | k + 1, va, n =>
    let n0 := min n (65536 - va % 65536)
    if n0 = n then [(va, n)] else (va, n0) :: pageCutsFrom k (vaNat (va + n0)) (n - n0)

/-- The parts of `n` bytes from `va`, cut at 64 KiB pages: start and length. -/
def pageCuts (va n : Nat) : List (Nat × Nat) := pageCutsFrom (n / 65536 + 2) va n

/-- What an access needs of its leaf (R397): read, write, execute; whether it names a line without its content (R263, R264),
whether it may reach the safe tier (Table 1.4), and the hall of the engine that makes it. -/
structure Need where
  rd : Bool
  w : Bool
  x : Bool
  bare : Bool := false
  safe : Bool := false
  hall : Option Nat := none
  deriving DecidableEq, Repr

/-- The INFO bits [4:3] of an access (Table 19.1). -/
def Need.info (n : Need) : Nat := 16 * nat1 n.x + 8 * nat1 n.w

/-- The permission fault of an access through a translation (Table 19.1). -/
def permFault (te : TlbEntry) (n : Need) (priv : Bool) (va : Nat) : Option MFault :=
  if te.priv && !priv then some (xlateFault 0x31 (64 + n.info + levelOfBits te.bits) va)
  else if (n.rd && !te.rd) || (n.w && !te.w) || (n.x && !te.x) then
    some (xlateFault 0x31 (n.info + levelOfBits te.bits) va)
  else none

/-- The first listed fault of two. -/
def orFault (a b : Option MFault) : Option MFault := match a with | some f => some f | none => b

/-- The virtual address of the sidecar byte of the block at a virtual address (R94). -/
def sidecarVa (d : Device) (ctx va : Nat) : Nat :=
  vaNat ((ctxOf d ctx).scbase.toNat + va / 65536 * 256 + va % 65536 / 256)

/-- The physical address of the sidecar byte of the block at a virtual address as a read of it finds it, or the fault of
the access that needs it (R94, R95). -/
def sidecarWalk (d : Device) (ctx va : Nat) : Except MFault Nat :=
  let sva := sidecarVa d ctx va
  match walkTables d ctx sva with
  | .ok te _ _ =>
    let pa := te.pa + (sva - te.page)
    if te.kind ≠ 0 then .error (xlateFault 0x30 (32 + levelOfBits te.bits) va)
    else if !waveReach d pa then .error (xlateFault 0x32 pa va)
    else .ok pa
  | .absent info => .error (xlateFault 0x30 info va)
  | .badTable pa => .error (xlateFault 0x32 pa va)

/-- The copy of the sidecars of the unit at a virtual address that a hall's store holds (R95). -/
def sideFind (d : Device) (hall : Option Nat) (ctx va : Nat) : Option SideUnit :=
  hall.bind fun h => (hallOf d h).sides.find? fun u => decide (u.ctx = ctx) && decide (u.unit = va / 65536)

/-- The physical address of the sidecar byte of the block at a virtual address (R94, R95): known from the hall's copy, or
found by a read of the byte. -/
def sidecarAt (d : Device) (hall : Option Nat) (ctx va : Nat) : Except MFault Nat :=
  match sideFind d hall ctx va with
  | some u =>
    if u.lost.contains (va % 65536 / 256) then sidecarWalk d ctx va else .ok (u.pa + va % 65536 / 256)
  | none => sidecarWalk d ctx va

/-- A hall's sidecar store with a unit's copy most recently used, within its 4,096 units (R95). -/
def sidePut (u : SideUnit) (h : Hall) : Hall :=
  { h with sides := (u :: h.sides.filter fun x => !(decide (x.ctx = u.ctx) && decide (x.unit = u.unit))).take 4096 }

/-- A fetch of the sidecar byte at a physical address for the block at a virtual address: the walk's table reads and the read
itself, charged to the context whose access needs them (R95, R98). -/
def sideFetch (d : Device) (ctx va pa : Nat) : Device :=
  l2Access (charge (tableReads d ctx (sidecarVa d ctx va)) ctx .sidecar 1) ctx pa 1

/-- An access to the block at a virtual address as its hall's sidecar store sees it (R95, R98): the unit's copy is fetched
where it is not held and its page's translation is, an invalidated byte is fetched again, and fetches are charged. -/
def sideUse (d : Device) (hall : Option Nat) (ctx va : Nat) : Device :=
  let b := va % 65536 / 256
  match hall, sidecarWalk d ctx va with
  | some h, .ok pa =>
    match sideFind d hall ctx va with
    | some u =>
      modHall (if u.lost.contains b then sideFetch d ctx va pa else d) h
        (sidePut { u with lost := u.lost.filter fun x => decide (x ≠ b) })
    | none =>
      let d1 := sideFetch d ctx va pa
      if (tlbFind (hallOf d h).tlb ctx va).isSome ∧ 256 * (pa / 256) + b = pa then
        modHall d1 h (sidePut { ctx := ctx, unit := va / 65536, pa := pa - b, lost := [] })
      else d1
  | some h, .error _ =>
    match sideFind d hall ctx va with
    | some u => modHall d h (sidePut u)
    | none => d
  | none, .ok pa => sideFetch d ctx va pa
  | none, .error _ => d

/-- How a reader meets a compressed block: without a record, through a record that is not compression aware, or through
an aware record with the 256 bytes of its CLEAR (R407, R452). -/
inductive Reader where
  | plain
  | unaware
  | aware (clear : List Byte)
  deriving DecidableEq, Repr

/-- The value of a fast-cleared block for a reader (R452). -/
def Reader.clear : Reader → List Byte
  | .aware c => c
  | _ => List.replicate 256 0

/-- The bytes of a compressed block that its decoder fetches (R94, R96, R452): none in mode 1, all of a raw block, else the
compressed length. -/
def blockLen (side : Byte) : Nat :=
  if side.toNat / 16 = 1 then 0 else if side.toNat / 16 = 0 then 256 else 16 * (side.toNat % 16 + 1)

/-- The 16-byte units of a block's 256 bytes that are poisoned (R409): a raw block's own, and of an expanded one all where a
byte that it is expanded from is poisoned (DEDUCED, log 132). -/
def blockPoison (d : Device) (base : Nat) (side : Byte) : List Nat :=
  if side.toNat / 16 = 0 then (List.range 16).filter fun u => memPoisoned d (base + 16 * u) 16
  else if memPoisoned d base (blockLen side) then List.range 16
  else []

/-- The raw bytes of the block that holds `va` on a compressed page, with the place of its sidecar byte and the units of it
that are poisoned. -/
def blockRead (d : Device) (hall : Option Nat) (ctx : Nat) (te : TlbEntry) (r : Reader) (va : Nat) :
    Except MFault (Nat × List Byte × List Nat) :=
  match sidecarAt d hall ctx va with
  | .error f => .error f
  | .ok sp =>
    let side := memGet d.st.mem sp
    let base := te.pa + (va / 256 * 256 - te.page)
    let addr := BitVec.ofNat 64 va
    if te.kind = 1 ∧ r = .unaware ∧ side.toNat / 16 ≠ 0 then
      .error { rank := 7, cause := 0x40, info := BitVec.ofNat 64 side.toNat, addr := addr, page := va / 65536 }
    else
      match expandBlock te.kind.toNat side (memRead d base 256) r.clear with
      | .ok bs => .ok (sp, bs, blockPoison d base side)
      | .error code =>
        .error { rank := 8, cause := 0x41, info := BitVec.ofNat 64 (256 * code + side.toNat), addr := addr,
                 page := va / 65536 }

/-- The blocks of 256 bytes that a piece touches: virtual address, offset within the block, length. -/
def blockCuts (va n : Nat) : List (Nat × Nat × Nat) :=
  (unitsOf 256 va n).map fun b =>
    let lo := max va (256 * b)
    let hi := min (va + n) (256 * b + 256)
    (lo, lo - 256 * b, hi - lo)

/-- The cause 0x44 of an access at a virtual address to poisoned bytes at `n` from a physical one (Table 19.1). -/
def poisonFault (d : Device) (va pa n : Nat) : MFault :=
  { rank := 9, cause := 0x44, info := BitVec.ofNat 64 (poisonCode d pa n + 256 * nat1 (isRemote d pa)),
    addr := BitVec.ofNat 64 va, page := va / 65536 }

/-- Whether a unit of 16 bytes, among those of a block, lies under `n` bytes from an offset. -/
def unitNamed (off n u : Nat) : Bool := decide (off < 16 * u + 16) && decide (16 * u < off + n)

/-- The first fault that reading a piece's content meets (R398, steps 5 to 7); poison counts for lanes alone. `info` holds the
bits [4:3] of the access for a sidecar that is not present (Table 19.1). -/
def pieceFault (d : Device) (ctx : Nat) (r : Reader) (info : Nat) (poison : Bool) (p : Piece) : Option MFault :=
  if p.te.kind = 0 then
    if poison && memPoisoned d p.pa p.len then some (poisonFault d p.va p.pa p.len) else none
  else (blockCuts p.va p.len).foldl (fun o c => leastFault o
    (match blockRead d p.hall ctx p.te r c.1 with
      | .error f => some (if f.cause = 0x30 then { f with info := f.info ||| BitVec.ofNat 64 info } else f)
      | .ok b =>
        if poison && b.2.2.any (unitNamed c.2.1 c.2.2) then some (poisonFault d p.va (p.pa / 256 * 256) 256) else none)) none

/-- The bytes of a piece as L2 holds them, expanded on a compressed page (R96); zeros where no fault-free value is. -/
def pieceRead (d : Device) (ctx : Nat) (r : Reader) (p : Piece) : List Byte :=
  if p.te.kind = 0 then memRead d p.pa p.len
  else (blockCuts p.va p.len).flatMap fun c =>
    match blockRead d p.hall ctx p.te r c.1 with
    | .ok b => (b.2.1.drop c.2.1).take c.2.2
    | .error _ => List.replicate c.2.2 0

/-- The block at an address of a compressed page fetched for a context: its sidecar byte, and its data at their compressed
length (R95, R96, R98, R452). -/
def blockTouch (ctx : Nat) (p : Piece) (d : Device) (va : Nat) : Device :=
  match sidecarAt d p.hall ctx va with
  | .error _ => d
  | .ok sp =>
    l2AccessMt (sideUse d p.hall ctx va) p.te.mt ctx (p.te.pa + (va / 256 * 256 - p.te.page)) (blockLen (memGet d.st.mem sp))

/-- A piece's content moved through L2 and the sidecar store by an access for a context (R72, R95, R98). -/
def pieceTouch (d : Device) (ctx : Nat) (p : Piece) : Device :=
  if p.te.kind = 0 then l2AccessMt d p.te.mt ctx p.pa p.len
  else ((blockCuts p.va p.len).map (·.1)).foldl (blockTouch ctx p) d

/-- The lines of 128 bytes, and on compressed pages the blocks of 256, that pieces name, each once (R96). -/
def pieceUnits (ps : List Piece) : List Piece :=
  listNub (fun a b => decide (a = b)) (ps.flatMap fun p =>
    let n := if p.te.kind = 0 then 128 else 256
    (unitsOf n p.va p.len).map fun k => { p with va := n * k, len := n })

/-- Bytes with some replaced from an offset. -/
def patchBytes (old : List Byte) (off : Nat) (new : List Byte) : List Byte :=
  old.take off ++ new ++ old.drop (off + new.length)

/-- A block on a compressed page written back by an L2 slice (R95): raw on a COLOUR page, mode 4 where it fits on a
SPARSEMASK page. The write means the bytes it names, whatever form the block then takes (R139). What a pixel back end of the
slice still holds of the block goes with it (R305, R307). Units of the block that it does not replace whole stay poisoned, in a
packed block all (R409; DEDUCED, log 132). -/
def blockWrite (d : Device) (own ctx : Nat) (p : Piece) (r : Reader) (va off : Nat) (bs : List Byte) : Device :=
  match blockRead d p.hall ctx p.te r va with
  | .error _ => d
  | .ok (sp, old, bad) =>
    let base := p.te.pa + (va / 256 * 256 - p.te.page)
    let kept := bad.filter fun u => !(decide (off ≤ 16 * u) && decide (16 * u + 16 ≤ off + bs.length))
    let new := patchBytes ((tblFind d.st.back (base / 256)).getD old) off bs
    let packed := if p.te.kind = 1 then ((0x0F : Byte), new) else packSparse new
    let d1 := { d with st := { d.st with back := tblErase d.st.back (base / 256) } }
    let d2 := memWrite (memWriteFor d1 own base packed.2 (base + off) bs.length) own sp [packed.1]
    markUnits d2 base (if packed.1.toNat / 16 = 0 ∨ kept = [] then kept else List.range (packed.1.toNat % 16 + 1))

/-- The writes of consecutive cuts of a compressed page. -/
def cutsWrite (own ctx : Nat) (p : Piece) (r : Reader) : List (Nat × Nat × Nat) → List Byte → Device → Device
  | [], _, d => d
  | c :: cs, bs, d =>
    cutsWrite own ctx p r cs (bs.drop c.2.2) (blockWrite d own ctx p r c.1 c.2.1 (bs.take c.2.2))

/-- A write of a piece's bytes (R72, R92, R95). -/
def pieceWrite (d : Device) (own ctx : Nat) (r : Reader) (p : Piece) (bs : List Byte) : Device :=
  if p.te.kind = 0 then memWriteMt d p.te.mt own p.pa bs
  else cutsWrite own ctx p r (blockCuts p.va p.len) bs d

/-- A write of consecutive pieces. -/
def piecesWrite (own ctx : Nat) (r : Reader) : List Piece → List Byte → Device → Device
  | [], _, d => d
  | p :: ps, bs, d => piecesWrite own ctx r ps (bs.drop p.len) (pieceWrite d own ctx r p (bs.take p.len))

/-- The bytes of consecutive pieces as L2 holds them. -/
def piecesRead (d : Device) (ctx : Nat) (r : Reader) (ps : List Piece) : List Byte := ps.flatMap (pieceRead d ctx r)

/-- The first range-lock entry of a hall that an access breaks (Table 6.2): entry and lock. `store` is a store-type
access; spaces as in `RangeLock`; `exempt` tells the operations that R400 exempts. -/
def lockHit (d : Device) (hall : Nat) (exempt : RangeLock → Bool) (space ctx lo hi : Nat) (store : Bool) :
    Option (Nat × RangeLock) :=
  (hallOf d hall).locks.find? fun e =>
    let l := e.2
    !l.voided && !exempt l && decide (l.space = space) && (decide (space ≠ 0) || decide (l.ctx = ctx)) &&
      decide (l.lo ≤ hi) && decide (lo ≤ l.hi) && (l.dest || store)

/-- The cause 0x34 of a breach (Table 19.1). -/
def lockFault (e : Nat × RangeLock) (store engine : Bool) (addr : Nat) : MFault :=
  { rank := 2, cause := 0x34
    info := BitVec.ofNat 64 (e.1 % 64 + 256 * nat1 e.2.dest + 512 * nat1 store + 1024 * nat1 engine)
    addr := BitVec.ofNat 64 addr, page := addr / 65536 }

/-- How one lane's access to global memory stands: its pieces, the pages to walk, or the cause it meets. -/
inductive Lane where
  | ok (ps : List Piece)
  | miss (vas : List Nat)
  | bad (f : MFault)
  deriving DecidableEq, Repr

/-- The translation of the parts of an access: pieces, pages to walk and faults, in order. -/
def lanePieces (d : Device) (core ctx : Nat) (known : List WalkFault) (n : Need) (priv : Bool) :
    List (Nat × Nat) → List Piece × List Nat × Option MFault
  | [] => ([], [], none)
  | (va, len) :: t =>
    let r := lanePieces d core ctx known n priv t
    match xlate d core ctx known va n.w with
    | .miss => (r.1, va :: r.2.1, r.2.2)
    | .failed f =>
      (r.1, r.2.1, leastFault (some (xlateFault f.cause (f.info.toNat + if f.cause = 0x32 then 0 else n.info) va)) r.2.2)
    | .hit te =>
      let p : Piece := { va := va, len := len, te := te, hall := some (hallOfCore core) }
      let reach : Option MFault := if waveReach d p.pa then none else some (xlateFault 0x32 p.pa va)
      (p :: r.1, r.2.1, leastFault (orFault (permFault te n priv va) reach) r.2.2)

/-- The report of a decoder whose watchdog expired on a block of an access (R408, code 6): a wave knows it by an address in
the block. -/
def decoderFault (known : List WalkFault) (va len : Nat) : Option MFault :=
  match known.find? fun f => decide (f.cause = 0x41) && (unitsOf 256 va len).contains (f.page.toNat / 256) with
  | some f => some { xlateFault 0x41 f.info.toNat va with rank := 8 }
  | none => none

/-- A breach of a range lock held on the physical lines of pieces (Table 6.2): an engine word named them by a physical
address. -/
def physBreach (d : Device) (core : Nat) (store : Bool) (ps : List Piece) : Option MFault :=
  ps.findSome? fun p =>
    (lockHit d (hallOfCore core) (fun _ => false) 2 0 (p.pa / 128) ((p.pa + p.len - 1) / 128) store).map fun e =>
      lockFault e store false p.va

/-- One lane's access of `len` bytes at `va` in the order of R398: range locks, translation, then content. `content`
holds for accesses that read (loads, atomics) and for any access to a compressed page. -/
def laneAccess (d : Device) (core ctx : Nat) (known : List WalkFault) (n : Need) (priv : Bool) (r : Reader)
    (va len : Nat) : Lane :=
  match lockHit d (hallOfCore core) (fun _ => false) 0 ctx (va / 128) ((va + len - 1) / 128) n.w with
  | some e => .bad (lockFault e n.w false va)
  | none =>
    let t := lanePieces d core ctx known n priv (pageCuts va len)
    if t.2.1 ≠ [] then .miss t.2.1
    else
      match orFault (physBreach d core n.w t.1) t.2.2 with
      | some f => .bad f
      | none =>
        match t.1.foldl (fun o p =>
            if !n.bare && (n.rd || decide (p.te.kind ≠ 0)) then
                leastFault o (leastFault (pieceFault d ctx r n.info n.rd p)
                  (if p.te.kind ≠ 0 then decoderFault known p.va p.len else none))
              else o) none with
        | some f => .bad f
        | none => .ok t.1

/-- A word's trap: cause, MASK, INFO and ADDR. -/
structure Trap where
  cause : BitVec 8
  mask : Mask
  info : W64
  addr : W64
  deriving DecidableEq, Repr

/-- The trap of a word whose lanes meet memory causes (R398): the first cause in order that any lane meets, its lanes
in MASK, INFO and ADDR of the lowest, and for a page fault the count of distinct pages. `all` is MASK for an access
made once for every active lane. -/
def trapOfFaults (all : Option Mask) (fs : List (Nat × MFault)) : Option Trap :=
  match leastBy (fun x y => decide (x.2.rank < y.2.rank) ||
      (decide (x.2.rank = y.2.rank) && decide (x.1 < y.1))) fs with
  | none => none
  | some (_, f) =>
    let same := fs.filter fun x => decide (x.2.cause = f.cause)
    let pages := (listNub (fun a b => decide (a = b)) (same.map fun x => x.2.page)).length
    let count := if f.cause = 0x30 ∨ f.cause = 0x31 then BitVec.ofNat 64 (256 * min pages 255) else 0
    some { cause := f.cause, mask := all.getD (maskOf (same.map fun x => x.1)), info := f.info ||| count,
           addr := f.addr }

/-- A page walk asked for by a wave; walks of one page merge, and each takes one of the die's 64 walkers (R93). -/
def requestWalk (d : Device) (core slot ctx va : Nat) (write fetch : Bool) : Device :=
  match d.walks.find? fun e =>
      decide (e.2.ctx = ctx) && decide (e.2.va.toNat / 65536 = va / 65536) && !e.2.discard with
  | some (k, w) =>
    { d with walks := tblSet d.walks k { w with
        write := w.write || write, fetch := w.fetch || fetch,
        waiters := if w.waiters.contains (core, slot) then w.waiters else w.waiters ++ [(core, slot)] } }
  | none =>
    { d with
      walks := tblSet d.walks d.nextId { ctx := ctx, va := BitVec.ofNat 48 va, write := write, fetch := fetch,
                                         discard := false, begun := decide (d.walks.length < 64),
                                         waiters := [(core, slot)] }
      nextId := d.nextId + 1 }

/-- A walk gone, and its walker taken by the walk that has waited longest (R93). -/
def dropWalk (d : Device) (k : Nat) : Device :=
  let rest := tblErase d.walks k
  { d with walks := match rest.find? fun e => !e.2.begun with
      | some (i, w) => tblSet rest i { w with begun := true }
      | none => rest }

/-- Whether an access of an engine or of the DFE reaches a physical address (R20, Table 1.4): as a wave does, or in the safe tier where its
agent may. -/
def partReach (d : Device) (n : Need) (pa : Nat) : Bool :=
  waveReach d pa || (n.safe && !isRemote d pa && decide (regionOf (localOf pa) = .safe))

/-- An access of an engine or of the DFE to virtual memory in parts: each part walked at once, checked and, where its
content is read, decoded; what it names moves through L2 and the sidecar store. -/
def engineParts (ctx : Nat) (n : Need) (priv perms : Bool) (r : Reader) :
    List (Nat × Nat) → Device → Except MFault (List Piece × Device)
  | [], d => .ok ([], d)
  | (va, len) :: t, d =>
    match walkNow d ctx va n.w with
    | .error f => .error f
    | .ok (te, d1) =>
      let p : Piece := { va := va, len := len, te := te, hall := n.hall }
      let f0 := if perms then permFault te n priv va else none
      let f1 : Option MFault := if partReach d1 n p.pa then none else some (xlateFault 0x32 p.pa va)
      let f2 := if decide (te.kind ≠ 0) then pieceFault d1 ctx r n.info false p else none
      match orFault (orFault f0 f1) f2 with
      | some f => .error f
      | none =>
        match engineParts ctx n priv perms r t (pieceTouch d1 ctx p) with
        | .error f => .error f
        | .ok (ps, d2) => .ok (p :: ps, d2)

/-- Who makes an engine's access: its hall, if it is a hall's, whether it has privilege, and whether it may reach the safe
tier (Table 1.4). -/
structure Agent where
  hall : Option Nat
  priv : Bool
  safe : Bool

/-- The DFE, the APC's services and the units of no hall. -/
def dieAgent : Agent := { hall := none, priv := false, safe := false }

/-- The copy engine of a hall; with the privilege capability it reaches the safe tier (Table 1.4). -/
def copyAgent (hall : Nat) (priv : Bool) : Agent := { hall := some hall, priv := priv, safe := priv }

/-- Another engine of a hall. -/
def hallAgent (hall : Nat) (priv : Bool) : Agent := { hall := some hall, priv := priv, safe := false }

/-- Bytes that an engine or the DFE reads at a virtual address. Poison travels with them and is asked for apart. -/
def engineRead (d : Device) (ctx : Nat) (priv : Bool) (r : Reader) (va len : Nat) (g : Agent := dieAgent) :
    Except MFault (List Byte × Device) :=
  match engineParts ctx { rd := true, w := false, x := false, safe := g.safe, hall := g.hall } priv true r
      (pageCuts (vaNat va) len) d with
  | .error f => .error f
  | .ok (ps, d1) => .ok (piecesRead d1 ctx r ps, d1)

/-- Bytes that an engine or the DFE writes at a virtual address. -/
def engineWrite (d : Device) (own ctx : Nat) (priv : Bool) (r : Reader) (va : Nat) (bs : List Byte)
    (g : Agent := dieAgent) : Except MFault Device :=
  match engineParts ctx { rd := false, w := true, x := false, safe := g.safe, hall := g.hall } priv true r
      (pageCuts (vaNat va) bs.length) d with
  | .error f => .error f
  | .ok (ps, d1) => .ok (piecesWrite own ctx r ps bs d1)

/-- Whether any of the bytes at a virtual address is poisoned, as far as it translates. -/
def enginePoisoned (d : Device) (ctx va len : Nat) (g : Agent := dieAgent) : Bool :=
  match engineParts ctx { rd := false, w := false, x := false, safe := g.safe, hall := g.hall } true false .plain
      (pageCuts (vaNat va) len) d with
  | .error _ => false
  | .ok (ps, d1) => ps.any fun p => (pieceFault d1 ctx .plain 0 true p).isSome

end Sys2Proof.Machine
end

