-- ==== Sys2Proof/Machine/Ops.lean ====
section
/-! DEFINITION. Named operations that every family shares: the selected wave as a view, its registers, its position and
path table (R43 to R45, R56), its outstanding operations and tokens (R68, R149), scratchpad ranges (R224), arrival words
(R79), events and records (R21, R384, R413, R417), taking a trap and returning from it (R376 to R384, R402). -/

namespace Sys2Proof.Machine

/-- The selected wave with what it belongs to: its core, slot, block, grid, running path and clause header. -/
structure View where
  d : Device
  core : Nat
  slot : Nat
  w : Wave
  blk : Block
  grid : Grid
  p : Path
  hdr : W64

/-- The view of the wave in a slot of a core, if it stands there and has a running path. -/
def viewAt (d : Device) (core slot : Nat) : Option View :=
  match waveOf d core slot with
  | none => none
  | some w =>
    match tblFind d.blocks w.block, w.pos.paths[w.pos.run]? with
    | some b, some p =>
      match tblFind d.grids b.grid with
      | some g => some { d := d, core := core, slot := slot, w := w, blk := b, grid := g, p := p,
                         hdr := w.pos.hdr.getD 0 }
      | none => none
    | _, _ => none

/-- The view of the wave that `step` selected. -/
def view (d : Device) : Option View :=
  match d.cur with
  | some (c, s) => viewAt d c s
  | none => none

/-- The hall of the view's core. -/
def View.hall (v : View) : Nat := hallOfCore v.core

/-- The width of the view's wave. -/
def View.width (v : View) : Nat := v.w.width

/-- The active lanes: those of the running path's that failed the check while a spill or fill runs (R61), else the running
path's. -/
def activeMask (w : Wave) (p : Path) : Mask := match w.trap.sf with | some s => s.lanes &&& p.mask | none => p.mask

/-- The active lanes of the view's wave. -/
def View.active (v : View) : Mask := activeMask v.w v.p

/-- Whether the wave is in privileged mode (R377). -/
def privilegedWave (d : Device) (w : Wave) : Bool := decide (w.trap.trlvl = 2) || (ctxOf d w.ctx).sysctx

/-- Whether the view's wave is in privileged mode. -/
def View.priv (v : View) : Bool := privilegedWave v.d v.w

/-! ## Registers -/

/-- The window base of a lane (R57). -/
def wbOf (w : Wave) (l : Nat) : Nat := (tblGet 0#32 w.wb l).toNat

/-- The oldest resident slot of a lane (R57). -/
def oldOf (w : Wave) (l : Nat) : Nat := (tblGet 0#32 w.old l).toNat

/-- The backing block of a lane in a spill or fill (R61). A fill where OLD is 0, for which the spec names no block, fills
block 0 (DESIGN CHOICE, log 134). -/
def spillBlock (w : Wave) (fill : Bool) (l : Nat) : Nat := oldOf w l / 64 - nat1 fill

/-- The register-file word of absolute stack slot `a` of lane `l` (R57, R212). -/
def stackWord (w : Wave) (l a : Nat) : Nat := w.rfbase + (8 + a % w.nstk) * w.width + l

/-- The register-file word that vector register `n` of lane `l` names (R57, R61, R212); none where the register reads
zero and takes no write, as v72 to v127 do for every lane while a spill or fill handler runs. That v8 to v71 of a lane
outside the handler's mask then keep their ordinary places is the model's choice (DESIGN CHOICE, log 107). -/
def vword (w : Wave) (l n : Nat) : Option Nat :=
  if n < 8 then some (w.rfbase + n * w.width + l)
  else
    match w.trap.sf with
    | some s =>
      if 72 ≤ n then none
      else if s.lanes.getLsbD l then some (stackWord w l (64 * spillBlock w s.fill l + (n - 8)))
      else some (stackWord w l (wbOf w l + (n - 8)))
    | none => some (stackWord w l (wbOf w l + (n - 8)))

/-- Vector register `n` of lane `l`. -/
def vget (d : Device) (core : Nat) (w : Wave) (l n : Nat) : W32 :=
  match vword w l n with | some k => rfGet d core k | none => 0

/-- Vector register `n` of lane `l` written. -/
def vset (d : Device) (core : Nat) (w : Wave) (l n : Nat) (x : W32) : Device :=
  match vword w l n with | some k => rfSet d core k x | none => d

/-- Scalar register `n` (R64). -/
def sget (w : Wave) (n : Nat) : W64 := tblGet 0#64 w.sregs n

/-- Scalar register `n` written. -/
def sput (n : Nat) (x : W64) (w : Wave) : Wave := { w with sregs := tblSet w.sregs n x }

/-- Block register `n` (R66). -/
def bget (b : Block) (n : Nat) : W32 := tblGet 0#32 b.bregs n

/-- Block register `n` written by a wave of a slot, and noted as written by the word that issues and in this hall cycle: a
write of the same cycle from a higher slot stands (R66). -/
def bput (slot n : Nat) (x : W32) (b : Block) : Block :=
  if b.bnotes.any fun e => decide (e.1 = n) && decide (slot < e.2) then b
  else { b with bregs := tblSet b.bregs n x, bwritten := b.bwritten ||| BitVec.ofNat 8 (2 ^ n)
                bnotes := b.bnotes ++ [(n, slot)] }

/-- The lanes in which predicate `n` reads true (R65). -/
def predMask (w : Wave) (n : Nat) : Mask := if n = 7 then BitVec.allOnes 64 else tblGet 0#64 w.preds n

/-- Predicate `n` of lane `l`. -/
def predOf (w : Wave) (n l : Nat) : Bool := (predMask w n).getLsbD l

/-- Predicate `n` takes the values of `x` in the lanes `m`; writes to p7 are ignored (R65). -/
def predPut (n : Nat) (m x : Mask) (w : Wave) : Wave :=
  if n = 7 then w else { w with preds := tblSet w.preds n ((predMask w n &&& ~~~m) ||| (x &&& m)) }

/-- A guard in a lane (R146). -/
def guardOf (w : Wave) (g : Guard) (l : Nat) : Bool := predOf w g.p.toNat l != g.neg

/-- The lanes of a mask in which a guard is true (R146). -/
def guardMask (w : Wave) (g : Guard) (m : Mask) : Mask :=
  m &&& (predMask w g.p.toNat ^^^ (if g.neg then BitVec.allOnes 64 else 0))

/-- Flags collected in sr.fflags (R118). -/
def addFlags (f : BitVec 7) (w : Wave) : Wave := { w with fflags := w.fflags ||| f }

/-- Whether a hall's clock runs (R18, R334, R436 to R440): with it run the hall's cores and engines (Table 1.3). -/
def clockRuns (d : Device) (h : Nat) : Bool :=
  let k := (hallOf d h).ck
  k.hop.isNone && k.service && !k.stopped && !(tblGet blankFlight d.flights (h / 2)).stop

/-- Whether a hall's engines run: with its clock, which on a hall that is stopped for good stands still only once the work of
its terminated blocks that runs on is finished (R383, R439, R440; DEDUCED, log 114). -/
def engineRuns (d : Device) (h : Nat) : Bool :=
  clockRuns d h || ((!(hallOf d h).ck.service || (hallOf d h).ck.stopped) &&
    d.blocks.any fun e => decide (hallOfCore e.2.core = h) && e.2.ended)

/-- A step of a unit in a hall's clock domain: none while the clock is stopped (R18). -/
def onHall (h : Nat) (f : Device → Device) (d : Device) : Device := if engineRuns d h then f d else d

/-- Whether a block's engine operations are being stopped (Table 2.4): its context is halting, or a CTXSAVE of the block is
outstanding (R253). -/
def stopping (d : Device) (ctx bid : Nat) : Bool :=
  (ctxOf d ctx).halting || d.cores.any fun c => c.2.waves.any fun w =>
    w.2.ops.any fun o => decide (o.kind = .ctxSave) && decide ((o.args.getD 1 0).toNat = bid)

/-- Whether a wave or an operation of a context waits for other records of its hall to be restored (R52). -/
def awaitsRecords (d : Device) (core ctx : Nat) : Bool :=
  (ctxOf d ctx).records.any fun r => decide (hallOfCore r.2 = hallOfCore core)

/-- The view's wave changed in a device. -/
def View.put (v : View) (d : Device) (f : Wave → Wave) : Device := modWave d v.core v.slot f

/-- A register that an operation leaves pending, written (R131). -/
def locPut (core slot blk : Nat) (d : Device) (r : RegLoc × W64) : Device :=
  match r.1 with
  | .rf k => rfSet d core k (r.2.setWidth 32)
  | .sreg n => modWave d core slot (sput n r.2)
  | .breg n => modBlock d blk (bput slot n (r.2.setWidth 32))
  | .queue _ => d

/-! ## Paths and position -/

/-- The fall-through address of a clause (R141). -/
def fallThrough (pc : VA) (hdr : W64) : VA := pc + BitVec.ofNat 48 (8 * (field hdr 56 4 + 2))

/-- One entry joined to the entries before it: equal PC and call depth merge (R44). An entry merged from a fresh one is fresh
until it issues a word (DESIGN CHOICE, log 133). -/
def mergeInto (ps : List Path) (p : Path) : List Path :=
  match ps with
  | [] => [p]
  | q :: t =>
    if q.pc = p.pc ∧ q.depth = p.depth then
      { q with mask := q.mask ||| p.mask, yielded := q.yielded && p.yielded, fresh := q.fresh || p.fresh } :: t
    else q :: mergeInto t p

/-- Step 1 of R44. -/
def mergePaths (ps : List Path) : List Path := ps.foldl mergeInto []

/-- Whether entry `a` precedes entry `b` in the choice of R44: deeper; then an entry that runs before a fresh one, so that
the bodies of an indirect call run in the order of their lowest lanes (log 108); then of lower PC, or for fresh entries the
lower lane. -/
def pathBefore (a b : Nat × Path) : Bool :=
  decide (b.2.depth.toNat < a.2.depth.toNat) ||
    (decide (a.2.depth = b.2.depth) &&
      (if a.2.fresh && b.2.fresh then decide ((lowLane 64 a.2.mask).getD 64 < (lowLane 64 b.2.mask).getD 64)
       else (!a.2.fresh && b.2.fresh) || (decide (a.2.fresh = b.2.fresh) && decide (a.2.pc.toNat < b.2.pc.toNat))))

/-- The entries of a table with their places. -/
def indexed (ps : List Path) : List (Nat × Path) := (List.range ps.length).zip ps

/-- The union of the masks of entries. -/
def pathsMask (ps : List Path) : Mask := ps.foldl (fun m p => m ||| p.mask) 0

/-- Step 2 of R44 on merged entries: the entries, unmarked where all were yielded, and the chosen place. -/
def choosePath (ps : List Path) : List Path × Nat :=
  let ps := if ps.all fun p => p.yielded then ps.map fun p => { p with yielded := false } else ps
  (ps, ((leastBy pathBefore ((indexed ps).filter fun e => !e.2.yielded)).map (·.1)).getD 0)

/-- R44 and R45 at a clause boundary outside any handler, for a wave whose running path had the lanes `was`: a due yield is
marked, entries merge, and the running path is chosen. The fairness timer starts again where the choice leaves the running
lanes, and the reservations of lanes switched out by a yield are cleared (R139). A yield due for lanes that have all left
is made by no path. -/
def rechoose (was : Mask) (w : Wave) : Wave :=
  let due := w.pos.yieldDue && (w.pos.paths[w.pos.run]?).isSome
  let marked := if due then listMod w.pos.paths w.pos.run fun p => { p with yielded := true } else w.pos.paths
  let r := choosePath (mergePaths marked)
  let mask := ((r.1[r.2]?).map (·.mask)).getD 0
  let left := was &&& pathsMask w.pos.paths &&& ~~~mask
  let anew := due || decide (left ≠ 0) || (w.pos.paths[w.pos.run]?).isNone
  { w with
    pos := { w.pos with paths := r.1, run := r.2, yieldDue := false }
    resv := if due then w.resv.filter fun e => !left.getLsbD e.1 else w.resv
    cnt := { w.cnt with
      fair := if anew then 0 else w.cnt.fair
      deferred := if anew then none else w.cnt.deferred } }

/-- The places of the paths that a handler's own lanes have divided into (R380). -/
def handlerPaths (w : Wave) : List (Nat × Path) :=
  (indexed w.pos.paths).filter fun e => decide (e.2.mask &&& ~~~w.trap.taken = 0)

/-- A wave at a clause boundary (R44, R45, R380) whose running path had the lanes `was`. While a handler runs no other path
is chosen; where the path that ran it has no lane left, a path its lanes divided into goes on, and without one the handler
has ended with its lanes (DESIGN CHOICE, log 109). -/
def pathBoundary (was : Mask) (w : Wave) : Wave :=
  if w.trap.trlvl = 0 then rechoose was w
  else if (w.pos.paths[w.pos.run]?).isSome then w
  else
    match leastBy pathBefore (handlerPaths w) with
    | some e => { w with pos := { w.pos with run := e.1 } }
    | none => rechoose was { w with trap := { w.trap with trlvl := 0, sf := none } }

/-- The lanes of a target list grouped by target, in ascending order of each target's lowest lane. -/
def groupLanes : List (Nat × VA) → List (VA × Mask)
  | [] => []
  | (l, t) :: rest =>
    let gs := groupLanes rest
    match gs.find? fun g => decide (g.1 = t) with
    | some g => (t, g.2 ||| laneBit l) :: gs.filter fun x => decide (x.1 ≠ t)
    | none => (t, laneBit l) :: gs

/-- The running path replaced by entries, in their place, empty ones left out (R43); without one no path runs. -/
def replaceRun (new : List Path) (w : Wave) : Wave :=
  let keep := new.filter fun p => decide (p.mask ≠ 0)
  let before := w.pos.paths.take w.pos.run
  { w with pos := { w.pos with
      paths := before ++ keep ++ w.pos.paths.drop (w.pos.run + 1)
      run := if keep = [] then w.pos.paths.length else w.pos.run } }

/-- The running path at an address. -/
def setPc (pc : VA) (w : Wave) : Wave :=
  { w with pos := { w.pos with paths := listMod w.pos.paths w.pos.run fun p => { p with pc := pc } } }

/-- The wave at a clause boundary: no clause in force. -/
def leaveClause (w : Wave) : Wave := { w with pos := { w.pos with clpos := 0, hdr := none } }

/-! ## Events and records -/

/-- An event on a source (R21, R22). -/
def emit (d : Device) (src : Source) (what : EventKind) : Device :=
  { d with events := d.events ++ [{ src := src, what := what }] }

/-- An interrupt source raised to the APC. -/
def raiseIrq (d : Device) (n : Nat) : Device := { d with irqs := d.irqs ++ [n] }

/-- The domain address of a module-local address (R20). -/
def domainAddr (d : Device) (a : Nat) : Nat := d.modno.toNat * 2 ^ 46 + a

/-- What a fault record names besides its cause (Table 18.5). -/
structure Where where
  hdr : VA
  word : BitVec 4
  core : Nat
  slot : Nat
  linear : W64

/-- Where a block stands, for a record that concerns no wave (R416). -/
def blockWhere (b : Block) : Where := { hdr := 0, word := 0, core := b.core, slot := 0, linear := b.linear }

/-- Where a view's wave stands. -/
def View.here (v : View) : Where :=
  { hdr := v.p.pc, word := v.w.pos.clpos, core := v.core, slot := v.slot, linear := v.blk.linear }

/-- The 32 bytes of a fault record (Table 18.5). -/
def recordBytes (cause : BitVec 8) (term : Bool) (mask : Mask) (info : W64) (ctx : Nat) (p : Where) : List Byte :=
  leBytes 8 (cause.toNat * 2 ^ 56 + p.word.toNat * 2 ^ 52 + nat1 term * 2 ^ 48 + p.hdr.toNat) ++
    leBytes 8 mask.toNat ++ leBytes 8 info.toNat ++
    leBytes 8 (ctx % 64 * 2 ^ 58 + p.core / 4 % 128 * 2 ^ 51 + p.core % 4 * 2 ^ 49 + p.slot % 64 * 2 ^ 43 +
      p.linear.toNat % 2 ^ 32)

/-- A fault record written to the ring of a context on a source (R384). -/
def faultRecord (d : Device) (src : Source) (ctx : Nat) (cause : BitVec 8) (term : Bool) (mask : Mask) (info : W64)
    (p : Where) : Device :=
  let c := ctxOf d ctx
  let base := field c.frbase 12 40 * 4096
  let d1 := memWrite d ctx (domainAddr d (base + 32 * (c.frhead.toNat % 128))) (recordBytes cause term mask info ctx p)
  let d2 := modCtx d1 ctx fun c => { c with frhead := c.frhead + 1 }
  emit (raiseIrq d2 (32 + ctx)) src (.record cause)

/-- A telemetry entry (Table 20.2). -/
def telemetryPut (d : Device) (src : Source) (kind code source data : Nat) : Device :=
  let e : Log16 := { w0 := BitVec.ofNat 64 (kind * 2 ^ 56 + code % 256 * 2 ^ 48 + source % 65536 * 2 ^ 32 + data % 2 ^ 32),
                     w1 := d.fcycle }
  emit (raiseIrq { d with telemetry := tblSet d.telemetry (d.telCount.toNat % 1024) e, telCount := d.telCount + 1 } 30)
    src (.telemetry kind code)

/-- An error log entry (Table 19.7). -/
def errorLogPut (d : Device) (kind store addr ctx hall : Nat) (synd : W32) : Device :=
  let e : Log16 := { w0 := BitVec.ofNat 64 (kind % 16 * 2 ^ 60 + store % 16 * 2 ^ 56 + addr % 2 ^ 52),
                     w1 := BitVec.ofNat 64 (ctx % 64 * 2 ^ 58 + hall % 128 * 2 ^ 51 + synd.toNat) }
  raiseIrq { d with errlog := tblSet d.errlog (d.errCount.toNat % 256) e, errCount := d.errCount + 1 } 31

/-! ## Outstanding operations and tokens -/

/-- A token made pending (R68). -/
def tokStart (k : BitVec 4) (w : Wave) : Wave :=
  { w with tokPend := w.tokPend ||| BitVec.ofNat 16 (2 ^ k.toNat), tokOrph := w.tokOrph &&& ~~~BitVec.ofNat 16 (2 ^ k.toNat) }

/-- A token made idle (R68). -/
def tokIdle (k : Nat) (w : Wave) : Wave :=
  { w with tokPend := w.tokPend &&& ~~~BitVec.ofNat 16 (2 ^ k), tokOrph := w.tokOrph &&& ~~~BitVec.ofNat 16 (2 ^ k) }

/-- A token orphaned (R393). -/
def tokOrphan (k : Nat) (w : Wave) : Wave :=
  if w.tokPend.getLsbD k then { w with tokOrph := w.tokOrph ||| BitVec.ofNat 16 (2 ^ k) } else w

/-- The window of an operation: none for LA 15 or for a word that is not long-latency (R149). -/
def windowOf (la : Option (BitVec 4)) : Option Nat :=
  match la with
  | some n => if n = 15 then none else some n.toNat
  | none => none

/-- A new outstanding operation of a wave, with the requests that it sent to other modules. -/
def pushOpTo (ports : List RemotePart) (kind : OpKind) (win : Option Nat) (writes : List (RegLoc × W64)) (tok : Option Nat)
    (flags : BitVec 7) (args : List W64) (w : Wave) : Wave :=
  { w with
    ops := w.ops ++ [{ id := w.nextOp, kind := kind, win := win, regs := writes.map (·.1), writes := writes, tok := tok,
                       flags := flags, args := args, ports := ports }]
    nextOp := w.nextOp + 1 }

/-- A new outstanding operation of a wave on this module. -/
def pushOp (kind : OpKind) (win : Option Nat) (writes : List (RegLoc × W64)) (tok : Option Nat) (flags : BitVec 7)
    (args : List W64) (w : Wave) : Wave := pushOpTo [] kind win writes tok flags args w

/-- Where an operation was issued, kept with it: clause, word and active lanes (R412). -/
def View.place (v : View) : List W64 := [v.p.pc.setWidth 64, v.w.pos.clpos.setWidth 64, v.active]

/-- Whether a microcoded unit is being reloaded (R427). -/
def unitStopped (d : Device) (kind unit : Nat) : Bool :=
  d.units.any fun u => decide (u.kind = kind) && decide (u.unit = unit) && u.reloading

/-- A microcoded unit has made a step: its watchdog counts from zero (R427). -/
def unitStepped (kind unit : Nat) (d : Device) : Device :=
  { d with units := d.units.map fun u => if u.kind = kind ∧ u.unit = unit then { u with idle := 0 } else u }

/-- The image in force for a kind of unit and a context (R308): the one last loaded, none for the stock image. -/
def imageOf (d : Device) (kind ctx : Nat) : Option Nat :=
  (d.images.find? fun i => decide (i.kind = kind) && decide (i.ctx = ctx)).map (·.id)

/-- The image that a unit runs (R308). -/
def unitImage (d : Device) (kind unit : Nat) : Option Nat :=
  (d.units.find? fun u => decide (u.kind = kind) && decide (u.unit = unit)).bind (·.image)

/-- Whether a unit may begin work of a context (R308, R427): it runs that context's image and is not being reloaded. -/
def unitReady (d : Device) (kind unit ctx : Nat) : Bool :=
  !unitStopped d kind unit && decide (unitImage d kind unit = imageOf d kind ctx)

/-- Load-type instructions outstanding (R143). -/
def loadsOut (w : Wave) : Nat := (w.ops.filter fun o => decide (o.kind = .load)).length

/-- Store-type instructions outstanding (R143). -/
def storesOut (w : Wave) : Nat := (w.ops.filter fun o => decide (o.kind = .store)).length

/-- Store-type instructions and write-backs outstanding that an ordering waits for (R140, R263): at .dom all, else those of
this module. -/
def storesFor (dom : Bool) (w : Wave) : Nat :=
  (w.ops.filter fun o => (decide (o.kind = .store) || decide (o.kind = .cwb)) && (dom || decide (o.ports = []))).length

/-- An operation of a kind by its identifier. -/
def findOp (w : Wave) (kind : OpKind) (id : Nat) : Option LongOp :=
  w.ops.find? fun o => decide (o.id = id) && decide (o.kind = kind)

/-- The wave without an operation. -/
def dropOp (id : Nat) (w : Wave) : Wave := { w with ops := w.ops.filter fun o => decide (o.id ≠ id) }

/-- An operation completes: its results and flags are written, its registers released, its token idle (R149). -/
def completeOp (d : Device) (core slot : Nat) (w : Wave) (o : LongOp) : Device :=
  let d1 := o.writes.foldl (locPut core slot w.block) d
  modWave d1 core slot fun w =>
    let w1 := addFlags o.flags (dropOp o.id w)
    match o.tok with | some k => tokIdle k w1 | none => w1

/-- The completion of an operation of a kind, where the wave has one outstanding by that identifier. -/
def completeKind (d : Device) (core slot : Nat) (kind : OpKind) (id : Nat) : Device :=
  match waveOf d core slot with
  | none => d
  | some w =>
    match findOp w kind id with
    | none => d
    | some o => completeOp d core slot w o

/-- Windows of the operations issued before an identifier admit one word fewer (R149). -/
def countWindows (before : Nat) (ops : List LongOp) : List LongOp :=
  ops.map fun o => if o.id < before then { o with win := o.win.map (· - 1) } else o

/-- The wave after it has issued one word (R149, R201, R394). -/
def countWord (before : Nat) (w : Wave) : Wave :=
  { w with
    ops := countWindows before w.ops
    fenced := none
    walkFaults := []
    pos := { w.pos with begun := true }
    cnt := { w.cnt with wissue := w.cnt.wissue + 1, wd := 0 } }

/-- A word counted for a core's hall in the control interval (R340). -/
def hallWord (d : Device) (core : Nat) : Device := modHall d (hallOfCore core) fun h =>
  { h with count := { h.count with words := h.count.words + 1 } }

/-! ## Range locks -/

/-- A hall without the range-lock entries of an operation. -/
def unlockOp (op : Nat) (h : Hall) : Hall := { h with locks := h.locks.filter fun e => decide (e.2.op ≠ op) }

/-- The lowest free place of a range-lock table (64 entries, R132). -/
def freeLock (h : Hall) : Option Nat := leastFrom (fun i => (tblFind h.locks i).isNone) 64 0

/-- Range-lock entries added in the lowest free places. -/
def lockAll : List RangeLock → Hall → Hall
  | [], h => h
  | l :: t, h =>
    match freeLock h with
    | some i => lockAll t { h with locks := tblSet h.locks i l }
    | none => h

/-- Whether a hall has room for `n` range-lock entries (R132). -/
def lockRoom (h : Hall) (n : Nat) : Bool := decide (h.locks.length + n ≤ 64)

/-! ## Scratchpad ranges -/

/-- The block's scratchpad base, sr.sbase (R73). -/
def sbaseOf (b : Block) : Nat := 4096 * b.sgran

/-- Whether a block's own allocation holds a granule of its core. -/
def ownsGranule (b : Block) (g : Nat) : Bool :=
  decide (b.sgran ≤ g) && decide (g < b.sgran + b.ngran) && !b.freed.contains g

/-- Whether a resident alcove lies over granule `g` of core `c` (Table 4.4). -/
def alcoveAt (a : Alcove) (c g : Nat) : Bool :=
  decide (a.state = 1) && decide (4 * a.hall.toNat + a.core.toNat = c) && decide (a.offset.toNat ≤ g) &&
    decide (g ≤ a.offset.toNat + a.size.toNat)

/-- Whether a block is attached to Alcove Table entry `i`. -/
def attachedTo (b : Block) (i : Nat) : Bool := b.attach.any fun a => decide (a.entry = i)

/-- Whether a block may reach granule `g` of its own core (R73). -/
def localGranule (d : Device) (b : Block) (g : Nat) : Bool :=
  ownsGranule b g || d.alcoves.any fun e => attachedTo b e.1 && alcoveAt e.2 b.core g

/-- Whether a block may reach granule `g` of core `c` of its hall by the remote form (R224): no attachment is asked of it, as
none could be held on another core (R84; DEDUCED, log 135). -/
def remoteGranule (d : Device) (b : Block) (c g : Nat) : Bool :=
  (d.blocks.any fun e => decide (e.2.core = c) && decide (e.2.ctx = b.ctx) && ownsGranule e.2 g) ||
    d.alcoves.any fun e => decide (e.2.owner.toNat = b.ctx) && alcoveAt e.2 c g

/-- Whether `n` bytes of core `c` from an offset lie within what a block may reach there (R224). -/
def spadReach (d : Device) (b : Block) (remote : Bool) (c off n : Nat) : Bool :=
  decide (off + n ≤ 0x40000) &&
    (unitsOf 4096 off n).all fun g => if remote then remoteGranule d b c g else localGranule d b g

/-- The cause 0x33 of a scratchpad access (Table 19.1). -/
def spadFault (c off : Nat) : MFault :=
  { rank := 1, cause := 0x33, info := BitVec.ofNat 64 (off % 2 ^ 18 + c % 4 * 2 ^ 18), addr := BitVec.ofNat 64 off, page := 0 }

/-- The first cause that a lane's scratchpad access meets (R398). -/
def spadCheck (d : Device) (b : Block) (remote : Bool) (c off n : Nat) (store rd : Bool) : Option MFault :=
  if !spadReach d b remote c off n then some (spadFault c off)
  else
    let k := spadKey c off
    match lockHit d (hallOfCore b.core) (fun _ => false) 1 0 (k / 128) ((k + n - 1) / 128) store with
    | some e => some (lockFault e store false off)
    | none =>
      if rd && spadPoisoned d c off n then
        some { rank := 9, cause := 0x44, info := 4, addr := BitVec.ofNat 64 off, page := 0 }
      else none

/-! ## Arrival words -/

/-- Where an arrival word stands (R78): a core's scratchpad, or memory as a context translates it. -/
inductive ArLoc where
  | spad (core off : Nat)
  | mem (ctx : Nat) (p : Piece)
  deriving DecidableEq, Repr

/-- The address bits [47:4] of an arrival operand (R143). -/
def arvAddr (op : W64) : Nat := field op 4 44 * 16

/-- Whether an arrival operand names a scratchpad offset (R143). -/
def arvSpad (op : W64) : Bool := op.getLsbD 3

/-- The 16 bytes of an arrival word. -/
def arBytes (d : Device) : ArLoc → List Byte
  | .spad c o => spadRead d c o 16
  | .mem ctx p => pieceRead d ctx .plain p

/-- The generation of an arrival word (Table 4.3). -/
def arGen (d : Device) (a : ArLoc) : W32 := BitVec.ofNat 32 (leNat ((arBytes d a).drop 8 |>.take 4))

/-- The core's L1 without its copies of an arrival word that a wave of it has read where it is kept (R123, R238). -/
def arSeen (core : Nat) (a : ArLoc) (d : Device) : Device :=
  match a with
  | .spad _ _ => d
  | .mem _ p => l1Forget core p.pa p.len d

/-- An arrival word written, by an agent of context `own`. -/
def arWrite (d : Device) (own : Nat) (a : ArLoc) (bs : List Byte) : Device :=
  match a with
  | .spad c o => spadWrite d c o bs
  | .mem ctx p => pieceWrite d own ctx .plain p bs

/-- The arrival word after raise(w, n, nflags, estat) (R79). -/
def raiseBytes (bs : List Byte) (n : Nat) (nflags : BitVec 7) (estat : BitVec 8) : List Byte :=
  let w0 := leNat (bs.take 4)
  let target := w0 % 2 ^ 31
  let t := if target = 0 then 2 ^ 31 else target
  let add := if w0 / 2 ^ 31 % 2 = 1 then 1 else n
  let c := leNat ((bs.drop 4).take 4) + add
  let gen := leNat ((bs.drop 8).take 4) + c / t
  let w3 := leNat ((bs.drop 12).take 4)
  bs.take 4 ++ leBytes 4 (c % t) ++ leBytes 4 gen ++
    leBytes 4 ((BitVec.ofNat 32 w3 ||| BitVec.ofNat 32 nflags.toNat ||| BitVec.ofNat 32 (estat.toNat * 256)).toNat)

/-- A raise of an arrival word: one update at the word's scratchpad or slice (R79), seen as an event (R21). -/
def raiseAt (d : Device) (src : Source) (own : Nat) (operand : W64) (a : ArLoc) (n : Nat) (nflags : BitVec 7)
    (estat : BitVec 8) : Device :=
  emit (arWrite d own a (raiseBytes (arBytes d a) n nflags estat)) src (.raise operand)

/-- The place of an arrival word for an engine that acts for a block (R406): resolved with a walk made at once. -/
def arLocEngine (d : Device) (b : Block) (core ctx : Nat) (priv : Bool) (op : W64) (write : Bool) :
    Except MFault (ArLoc × Device) :=
  if arvSpad op then
    let off := arvAddr op
    if spadReach d b false core off 16 then .ok (.spad core off, d) else .error (spadFault core off)
  else
    match engineParts ctx { rd := true, w := write, x := false } priv true .plain (pageCuts (arvAddr op) 16) d with
    | .error f => .error f
    | .ok ([p], d1) => .ok (.mem ctx p, d1)
    | .ok (_, _) => .error (xlateFault 0x32 (arvAddr op) (arvAddr op))

/-! ## Alcove attachments, the end of a wave, termination -/

/-- An alcove that ends: its entry is free, and no block is attached to it (R83). -/
def alcEnd (d : Device) (i : Nat) : Device :=
  { d with
    alcoves := tblErase d.alcoves i
    blocks := tblMap (fun _ b => { b with attach := b.attach.filter fun a => decide (a.entry ≠ i) }) d.blocks }

/-- One attachment of an alcove ends; a marked alcove ends with its last (R258). -/
def alcDetach (d : Device) (i : Nat) : Device :=
  let a := alcOf d i
  if a.state = 0 then d
  else if a.marked ∧ a.attach ≤ 1 then alcEnd d i
  else modAlc d i fun a => { a with attach := a.attach - 1 }

/-- Every attachment of a block ends (R84). -/
def releaseAttachments (d : Device) (bid : Nat) : Device :=
  match tblFind d.blocks bid with
  | none => d
  | some b => modBlock (b.attach.foldl (fun d a => alcDetach d a.entry) d) bid fun b => { b with attach := [] }

/-- A queue whose last entry met a fault as it was before that entry was gathered: the gather is made again. -/
def dropBad (q : ApQueue) : ApQueue :=
  match q.entries.getLast? with
  | some (.bad _ _) => { q with entries := q.entries.dropLast, gnext := q.gnext - 1 }
  | _ => q

/-- The queues of an access processor without a slot's bindings (R97). -/
def unbindSlot (slot : Nat) (k : Core) : Core :=
  { k with queues := k.queues.filter fun e => decide (e.2.slot ≠ some slot) }

/-- Whether a staging buffer or a running pass of a hall still holds a wave's call rows (R421). -/
def rowsHeld (h : Hall) (core slot op : Nat) : Bool :=
  h.staging.any fun s => s.rows.any fun r => decide (r.core = core ∧ r.slot = slot ∧ r.op = op)

/-- Whether an operation of a wave in `slot` of `core` runs on when its block is terminated (R383, steps 2 and 3): loads,
stores and register results that were issued, ray queries, rows of a flushed pass, granted decompositions. -/
def runsOn (h : Hall) (core slot : Nat) (o : LongOp) : Bool :=
  match o.kind with
  | .load => true
  | .store => true
  | .cwb => true
  | .alu => true
  | .query => true
  | .ray => true
  | .csload => true
  | .tlbinv => true
  | .ncall => rowsHeld h core slot o.id
  | .decomp => h.mat.any fun e => e.granted && decide (e.core = core) && decide (e.slot = slot) && decide (e.wop = some o.id)
  | _ => false

/-- Steps 1 and 2 of R383 for one wave: no path is left, and of its operations those that run on remain. -/
def stopWave (h : Hall) (core slot : Nat) (w : Wave) : Wave :=
  { w with
    pos := { w.pos with paths := [], run := 0, clpos := 0, hdr := none, haltDue := 0 }
    ops := w.ops.filter (runsOn h core slot)
    halted := false, parked := none, walkFaults := [], fenced := none, arw := none, resv := [] }

/-- A hall's open bins with the rows for which `keep` holds: a bin left with none is free again, its range unlocked (R421). -/
def keepRows (keep : CallRow → Bool) (h : Hall) : Hall :=
  let bins := h.bins.map fun b => { b with rows := b.rows.filter keep }
  let gone := (bins.filter fun b => decide (b.rows = [])).map (·.lock)
  { h with
    bins := bins.filter fun b => decide (b.rows ≠ [])
    locks := h.locks.filter fun e => !gone.contains e.2.op }

/-- Step 3 of R383 in the block's hall: entries not granted, copies and rows in open bins are discarded with their
range locks (R421). -/
def discardBlock (bid : Nat) (h : Hall) : Hall :=
  let gone := (h.mat.filter fun e => decide (e.block = bid) && !e.granted && e.staging.isNone).map (·.id) ++
    (h.cq.flatMap fun q => (q.2.filter fun o => decide (o.block = bid)).map (·.id))
  keepRows (fun r => decide (r.block ≠ bid)) { h with
    mat := h.mat.filter fun e => !gone.contains e.id
    cq := h.cq.map fun q => (q.1, q.2.filter fun o => decide (o.block ≠ bid))
    locks := h.locks.filter fun e => !gone.contains e.2.op }

/-- Terminating a block (R383), with its record written for the place that caused it. Retirement follows as R48's own
step. -/
def terminate (d : Device) (bid : Nat) (src : Source) (cause : BitVec 8) (mask : Mask) (info : W64) (p : Where) : Device :=
  match tblFind d.blocks bid with
  | none => d
  | some b =>
    if b.ended then d
    else
      let h := hallOfCore b.core
      let d1 := modHall d h (discardBlock bid)
      let d2 := modCore d1 b.core fun k =>
        let mine := (k.waves.filter fun e => decide (e.2.block = bid)).map (·.1)
        { k with
          waves := tblMap (fun s w => if w.block = bid then stopWave (hallOf d1 h) b.core s w else w) k.waves
          queues := k.queues.filter fun e => !(match e.2.slot with | some s => mine.contains s | none => false) }
      let d3 := releaseAttachments d2 bid
      let d4 := faultRecord d3 src b.ctx cause true mask info p
      modGrid (modBlock d4 bid fun b => { b with ended := true }) b.grid fun g => { g with bad := true }

/-- The source of a view's wave (R21). -/
def View.src (v : View) : Source := .wave v.core v.slot

/-- Termination by a view's wave. -/
def View.terminate (v : View) (d : Device) (cause : BitVec 8) (mask : Mask) (info : W64) : Device :=
  Machine.terminate d v.w.block v.src cause mask info v.here

/-! ## Taking a trap and returning from it -/

/-- Causes that terminate the block whatever the vectors hold (Tables 18.4, 19.1, 20.1). -/
def terminates (cause : BitVec 8) : Bool := cause = 0x26 || cause = 0x45 || cause = 0x50 || cause = 0x55 || cause = 0x5A

/-- A TRAP cause (R376). -/
def isTrapWord (cause : BitVec 8) : Bool := cause.getLsbD 7

/-- The reservations of the lanes of a mask cleared (R403). -/
def clearResv (m : Mask) (w : Wave) : Wave := { w with resv := w.resv.filter fun e => !m.getLsbD e.1 }

/-- The 64 bytes of a trap frame (Table 18.3). -/
def frameBytes (t : Trap) (word : BitVec 4) (hdr : VA) (iword : W64) (depth : BitVec 16) : List Byte :=
  leBytes 8 (t.cause.toNat * 2 ^ 56 + word.toNat * 2 ^ 52 + hdr.toNat) ++ leBytes 8 t.mask.toNat ++
    leBytes 8 t.info.toNat ++ leBytes 8 t.addr.toNat ++ leBytes 8 iword.toNat ++ leBytes 8 depth.toNat ++
    leBytes 8 0 ++ leBytes 8 0

/-- The first `n` bytes of a piece noted before its grid's store to them: a running grid still fetches them (R141). -/
def notePiece (v : View) (r : Reader) (d : Device) (p : Piece) (n : Nat) : Device :=
  let old := (pieceRead d v.w.ctx r p).take n
  modGrid d v.blk.grid fun g => { g with shadow := shadowPut g.shadow p.pa old }

/-- A store of one piece by a wave: the bytes its grid may still fetch (R141), the write at L2 (R72, R92, R95), the core's
own L1 (R72, R222). -/
def storePiece (v : View) (r : Reader) (ch : BitVec 2) (d : Device) (p : Piece) (bs : List Byte) : Device :=
  let d1 := notePiece v r d p bs.length
  if p.te.kind = 0 then
    l1Store (memWriteMt d1 p.te.mt v.w.ctx p.pa bs) v.core p.pa bs (decide (ch ≠ 2) && decide (p.te.mt = 0))
  else pieceWrite (pieceTouch d1 v.w.ctx p) v.w.ctx v.w.ctx r p bs

/-- A store of consecutive pieces by a wave. -/
def storePieces (v : View) (r : Reader) (ch : BitVec 2) : List Piece → List Byte → Device → Device
  | [], _, d => d
  | p :: ps, bs, d => storePieces v r ch ps (bs.drop p.len) (storePiece v r ch d p (bs.take p.len))

/-- A write of the trap frame's bytes: plain stores of the wave (R379), checked like any (R400) and translated at once. -/
def frameWrite (v : View) (priv : Bool) (off : Nat) (bs : List Byte) : Option Device :=
  let va := vaNat (v.w.trap.trfbase.toNat + off)
  match lockHit v.d v.hall (fun _ => false) 0 v.w.ctx (va / 128) ((va + bs.length - 1) / 128) true with
  | some _ => none
  | none =>
    match engineParts v.w.ctx { rd := false, w := true, x := false, hall := some v.hall } priv true .plain
        (pageCuts va bs.length) v.d with
    | .error _ => none
    | .ok (ps, d1) => some (storePieces v .plain 0 ps bs d1)

/-- The level that a trap goes to (R376, R382): 1 for level 0, 2 for level 1, none for termination. -/
def trapLevel (w : Wave) (cause : BitVec 8) : Option (BitVec 2) :=
  if terminates cause then none
  else if w.trap.trlvl = 0 then
    if isTrapWord cause ∧ w.trap.trvec ≠ 0 then some 1
    else if w.trap.strvec = 0 then none else some 2
  else if w.trap.trlvl = 1 ∧ isTrapWord cause ∧ w.trap.strvec ≠ 0 then some 2
  else none

/-- The cause and INFO with which a trap that finds no handler terminates its block (R376, R382). -/
def deadCause (w : Wave) (t : Trap) : BitVec 8 × W64 :=
  if terminates t.cause ∨ w.trap.trlvl = 0 ∨ (w.trap.trlvl = 1 ∧ isTrapWord t.cause) then (t.cause, t.info)
  else (0x26, t.cause.setWidth 64)

/-- The wave in a handler (R380, steps 3 and 4). -/
def enterHandler (t : Trap) (lvl : BitVec 2) (active : Mask) (depth : BitVec 16) (w : Wave) : Wave :=
  let w1 := clearResv active (leaveClause (setPc (if lvl = 1 then w.trap.trvec else w.trap.strvec) w))
  let orph := if t.cause = 0x20 then t.info.setWidth 16 else 0
  { w1 with
    tokPend := w1.tokPend &&& ~~~orph, tokOrph := w1.tokOrph &&& ~~~orph
    walkFaults := []
    cnt := { w1.cnt with wd := 0 }
    trap := { w1.trap with
      trcause := t.cause, trlvl := lvl, trdepth := depth
      taken := ((w.pos.paths[w.pos.run]?).map (·.mask)).getD 0 } }

/-- Taking a trap (R376, R379, R380, R382, R383): the frame names position `hdr`, `word`; the path goes on at the
vector, or the block is terminated. -/
def takeTrap (v : View) (t : Trap) (iword : W64) (hdr : VA) (word : BitVec 4) : Device :=
  match trapLevel v.w t.cause with
  | none =>
    let c := deadCause v.w t
    v.terminate v.d c.1 t.mask c.2
  | some lvl =>
    match frameWrite v (decide (lvl = 2) || v.priv) 0 (frameBytes t word hdr iword v.p.depth) with
    | none => v.terminate v.d 0x26 t.mask (t.cause.setWidth 64)
    | some d1 => emit (v.put d1 (enterHandler t lvl v.p.mask v.p.depth)) v.src (.trap t.cause)

/-- Parking a wave at a faulting word (R402). -/
def parkWave (v : View) (t : Trap) : Device :=
  let page := t.addr.toNat / 65536
  let d1 := v.put v.d fun w =>
    { clearResv v.p.mask w with halted := true, parked := some (t.addr.setWidth 48), walkFaults := [] }
  if d1.parking.contains (v.w.ctx, page) then d1
  else if d1.parking.length < 256 then
    faultRecord { d1 with parking := d1.parking ++ [(v.w.ctx, page)] } v.src v.w.ctx t.cause false t.mask t.info v.here
  else faultRecord d1 v.src v.w.ctx t.cause false t.mask (t.info ||| 128#64) v.here

/-- Whether a trap is parked (R402). -/
def parks (v : View) (t : Trap) : Bool := (t.cause = 0x30 || t.cause = 0x31) && (ctxOf v.d v.w.ctx).park

/-- The die after a translation has refused an access of a wave: the TLBs that served it hold none of its context's
translations any more, so that the replay walks again (R399; log 21). -/
def dropRefused (v : View) : Device :=
  let keep (l : List TlbEntry) : List TlbEntry := l.filter fun e => decide (e.ctx ≠ v.w.ctx)
  modHall (modCore v.d v.core fun k => { k with tlb := keep k.tlb }) v.hall (setTlb keep)

/-- A fault or trap at a position: parked where the context parks it, else taken. -/
def takeFault (v : View) (t : Trap) (iword : W64) (hdr : VA) (word : BitVec 4) : Device :=
  let v1 := if t.cause = 0x31 then { v with d := dropRefused v } else v
  if parks v1 t then parkWave v1 t else takeTrap v1 t iword hdr word

/-- Entry to the spill or fill handler for some lanes (R61, R379, R382). -/
def takeSpill (v : View) (lanes : Mask) (fill : Bool) : Device :=
  let cause : BitVec 8 := if fill then 2 else 1
  if v.w.trap.trlvl = 3 then v.terminate v.d 0x26 lanes (cause.setWidth 64)
  else
    match frameWrite v v.priv 0x30 (leBytes 8 (v.w.pos.clpos.toNat * 2 ^ 52 + v.p.pc.toNat)) with
    | none => v.terminate v.d 0x26 lanes (cause.setWidth 64)
    | some d1 =>
      emit (v.put d1 fun w =>
        let w1 := clearResv v.p.mask (leaveClause (setPc w.trap.spillh w))
        { w1 with
          cnt := { w1.cnt with wd := 0 }
          trap := { w1.trap with
            sf := some { lanes := lanes, fill := fill, lvl := w1.trap.trlvl, cause := w1.trap.trcause }
            trlvl := 3, trcause := cause
            taken := if w1.trap.trlvl = 0 then v.p.mask else w1.trap.taken } }) v.src (.trap cause)

/-- The wave resumed at a position inside or at the start of a clause (R56, R381). -/
def resumeAt (pc : VA) (word : BitVec 4) (w : Wave) : Wave :=
  let w1 := setPc pc w
  { w1 with pos := { w1.pos with clpos := word, hdr := none } }

/-- The change of OLD that ERET makes for the lanes of a spill or fill (R61). -/
def moveOld (s : SpillFill) (w : Wave) : Wave :=
  { w with old := (lanesOf w.width s.lanes).foldl (fun t l =>
      let o := tblGet 0#32 t l
      tblSet t l (if s.fill then o - 64 else o + 64)) w.old }

/-- The return from a spill or fill handler (R61, R381): OLD moves, the trap registers return to what they were, and
the interrupted word is resumed at the position of SFHDR and SFWORD. -/
def eretSpill (s : SpillFill) (sfword : W64) (w : Wave) : Wave :=
  let w1 := resumeAt (sfword.setWidth 48) (sfword.extractLsb' 52 4) (moveOld s w)
  { w1 with trap := { w1.trap with sf := none, trlvl := s.lvl, trcause := s.cause } }

/-- The return from a level-0 or level-1 handler (R381): the position of the frame's first word, sr.trlvl 0. -/
def eretFrame (first : W64) (w : Wave) : Wave :=
  let w1 := resumeAt (first.setWidth 48) (first.extractLsb' 52 4) w
  { w1 with trap := { w1.trap with trlvl := 0 } }

/-! ## The end of a word -/

/-- A wave whose path table is empty: its queues are unbound (R43, R97). -/
def waveEnd (d : Device) (core slot : Nat) : Device := modCore d core (unbindSlot slot)

/-- A HALT that was due at a handler level takes effect (R210). -/
def haltNow (lvl : Nat) (w : Wave) : Wave :=
  if w.pos.haltDue.getLsbD lvl then
    { w with halted := true, pos := { w.pos with haltDue := w.pos.haltDue &&& ~~~BitVec.ofNat 4 (2 ^ lvl) } }
  else w

/-- A HALT due at the end of the clause, at the wave's present handler level (R210). -/
def dueHalt (w : Wave) : Wave :=
  { w with pos := { w.pos with haltDue := w.pos.haltDue ||| BitVec.ofNat 4 (2 ^ w.trap.trlvl.toNat) } }

/-- The end of a clause (R44, R144, R210) of a path that had the lanes `was`: the header's YIELD, a due HALT, and, unless
the word chose the running path itself, the choice of R44. -/
def clauseDone (was : Mask) (yields choose : Bool) (w : Wave) : Wave :=
  let w1 := leaveClause w
  let w2 := haltNow w.trap.trlvl.toNat { w1 with pos := { w1.pos with yrank := w1.pos.yrank || yields } }
  if choose then pathBoundary was w2 else w2

/-- The running path issued its first word: the fresh mark clears (R44). -/
def unfresh (w : Wave) : Wave :=
  { w with pos := { w.pos with paths := listMod w.pos.paths w.pos.run fun p => { p with fresh := false } } }

/-- How a word leaves its wave's position: on to the next word, or placed by the word itself, with or without the
choice of R44 still to make. -/
inductive Pos where
  | onward
  | placed (choose : Bool)
  deriving DecidableEq, Repr

/-- The wave after a word of a path that had the lanes `was`: the next word of the clause, or the fall-through address at its
end (R141). -/
def posAfter (was : Mask) (hdr : W64) (pos : Pos) (w : Wave) : Wave :=
  match pos with
  | .placed choose => clauseDone was (hdr.getLsbD 30) choose w
  | .onward =>
    let w1 := unfresh w
    if w1.pos.clpos.toNat < field hdr 56 4 then { w1 with pos := { w1.pos with clpos := w1.pos.clpos + 1 } }
    else
      let pc := ((w1.pos.paths[w1.pos.run]?).map fun p => fallThrough p.pc hdr).getD 0
      clauseDone was (hdr.getLsbD 30) true (setPc pc w1)

/-- A word has issued: it is counted, and its wave moves on. -/
def finish (v : View) (d : Device) (pos : Pos) : Device :=
  let d1 := v.put (hallWord d v.core) fun w => posAfter v.p.mask v.hdr pos (countWord v.w.nextOp w)
  match waveOf d1 v.core v.slot with
  | none => d1
  | some w1 =>
    if w1.pos.paths = [] then waveEnd d1 v.core v.slot
    else if w1.halted && !v.w.halted then emit d1 v.src .halted
    else d1

end Sys2Proof.Machine
end

