-- ==== Sys2Proof/Machine/Engine.lean ====
section
/-! DEFINITION. What engines share: physical windows (R20, R77, Table 4.2), engine addresses (R244), reads and writes by
an engine (R411), parking of an engine's work (R402), and its raises (R247, R406). -/

namespace Sys2Proof.Machine

/-- Whether an engine's physical address can be reached (Table 1.4, R352). -/
def engReach (d : Device) (pa : Nat) : Bool :=
  if isRemote d pa then waveReach d pa
  else
    match regionOf (localOf pa) with
    | .reserved => false
    | .ctrl => false
    | _ => true

/-- The place of a byte of the accumulator and metadata window (R20): hall, then offset. -/
def accOffset (a : Nat) : Nat × Nat := ((a - 0x200010000000) / 0x100000, (a - 0x200010000000) % 0x100000)

/-- The tile, row, column and byte that an offset of an accumulator file names (R20). -/
def accPlace (o : Nat) : Nat × Nat × Nat × Nat :=
  let e := o % 0x14000 / 10
  (o / 0x14000, e / 128, e % 128, o % 0x14000 % 10)

/-- A byte at a domain physical address (Table 4.2). A weight-cache window line that names no resident line reads zero, and a
write to it is lost (DESIGN CHOICE, log 13). -/
def physByte (d : Device) (pa : Nat) : Byte :=
  let a := localOf pa
  if isRemote d pa then memGet d.st.mem pa
  else
    match regionOf a with
    | .mem => memGet d.st.mem pa
    | .safe => memGet d.st.mem pa
    | .rfile =>
      let o := a - 0x200000000000
      BitVec.ofNat 8 ((rfGet d (o / 0x40000) (o % 0x40000 / 4)).toNat / 256 ^ (o % 4))
    | .spad => memGet d.st.spad (a - 0x200008000000)
    | .accmd =>
      let h := accOffset a
      if h.2 < 0xF0000 then
        let p := accPlace h.2
        BitVec.ofNat 8 ((accGet d h.1 p.1 p.2.1 p.2.2.1).toNat / 256 ^ p.2.2.2)
      else memGet d.st.md (h.1 * 65536 + (h.2 - 0xF0000))
    | .weights =>
      let o := a - 0x200018000000
      match (hallOf d (o / 0x100000)).wlines[Config.weightWay (o % 0x100000 / 128)]? with
      | some l => l.bytes.getD (o % 128) 0
      | none => 0
    | _ => 0

/-- A number with the byte at a place replaced. -/
def withByte (x i : Nat) (b : Byte) : Nat := x % 256 ^ i + b.toNat * 256 ^ i + x / 256 ^ (i + 1) * 256 ^ (i + 1)

/-- Whether a byte of the metadata window holds state: those of the twelve slots' images do (R274). -/
def mdHeld (o : Nat) : Bool := decide (o < 0xF000) && decide (o % 0x1400 < 0xC00)

/-- A byte written at an on-chip window (Table 4.2). -/
def windowPut (d : Device) (a : Nat) (b : Byte) : Device :=
  match regionOf a with
  | .rfile =>
    let o := a - 0x200000000000
    let w := o % 0x40000 / 4
    rfSet d (o / 0x40000) w (BitVec.ofNat 32 (withByte (rfGet d (o / 0x40000) w).toNat (o % 4) b))
  | .spad => spadWrite d ((a - 0x200008000000) / 0x40000) ((a - 0x200008000000) % 0x40000) [b]
  | .accmd =>
    let h := accOffset a
    if h.2 < 0xF0000 then
      let p := accPlace h.2
      accSet d h.1 p.1 p.2.1 p.2.2.1
        (BitVec.ofNat 80 (withByte (accGet d h.1 p.1 p.2.1 p.2.2.1).toNat p.2.2.2 b))
        (accPoisoned d h.1 p.1 p.2.1 p.2.2.1)
    else if mdHeld (h.2 - 0xF0000) then mdWrite d h.1 (h.2 - 0xF0000) [b]
    else d
  | .weights =>
    let o := a - 0x200018000000
    modHall d (o / 0x100000) fun h =>
      { h with wlines := listMod h.wlines (Config.weightWay (o % 0x100000 / 128)) fun l =>
          { l with bytes := listSet l.bytes (o % 128) b } }
  | _ => d

/-- Bytes written at window addresses, one after another. -/
def windowWrite (d : Device) (a : Nat) : List Byte → Device
  | [] => d
  | b :: bs => windowWrite (windowPut d a b) (a + 1) bs

/-- The address in the window of accumulator elements or metadata (R20) of a marked unit, and its size: elements of 10 bytes
and metadata words of 4. -/
def windowUnit (u : Nat × Nat) : Option (Nat × Nat) :=
  if u.1 = 6 then
    some (0x200010000000 + u.2 / 98304 * 0x100000 + u.2 % 98304 / 8192 * 0x14000 + u.2 % 8192 * 10, 10)
  else if u.1 = 7 then some (0x200010000000 + 4 * u.2 / 65536 * 0x100000 + 0xF0000 + 4 * u.2 % 65536, 4)
  else none

/-- The poison marks of the window's units that a write of `n` bytes at a module-local address replaces whole cleared
(R409). -/
def windowClear (a n : Nat) (d : Device) : Device :=
  let kept (u : Nat × Nat) : Bool :=
    match windowUnit u with
    | some (k, size) => !(decide (a ≤ k) && decide (k + size ≤ a + n))
    | none => true
  { d with st := { d.st with poison := d.st.poison.filter kept } }

/-- Bytes written at a domain physical address by an agent of a context. -/
def physWrite (d : Device) (own pa : Nat) (bs : List Byte) : Device :=
  if isRemote d pa then memWrite d own pa bs
  else
    match regionOf (localOf pa) with
    | .mem => memWrite d own pa bs
    | .safe => memWrite d own pa bs
    | .spad =>
      let o := localOf pa - 0x200008000000
      spadWrite d (o / 0x40000) (o % 0x40000) bs
    | _ => windowClear (localOf pa) bs.length (windowWrite d (localOf pa) bs)

/-- The storage code and unit of Table 19.6 in which a physical address is marked, with the address there. -/
def poisonPlace (d : Device) (pa : Nat) : Nat × Nat × Nat :=
  let a := localOf pa
  if isRemote d pa then (2, 16, pa)
  else
    match regionOf a with
    | .spad => (4, 4, a - 0x200008000000)
    | .accmd =>
      let h := accOffset a
      if h.2 < 0xF0000 then let p := accPlace h.2; (6, 1, accKey h.1 p.1 p.2.1 p.2.2.1)
      else (7, 4, h.1 * 65536 + (h.2 - 0xF0000))
    | _ => (2, 16, pa)

/-- Where an engine reads or writes: an engine address (R244), with a scratchpad's core. -/
inductive EAddr where
  | virt (va : Nat)
  | spad (core off : Nat)
  | phys (pa : Nat)
  deriving DecidableEq, Repr

/-- An engine address of a hall (R244); none where bits that must be zero are set. -/
def engAddr (hall : Nat) (x : W64) : Option EAddr :=
  if x.getLsbD 63 then
    if x.getLsbD 60 then
      if field x 61 2 = 0 ∧ field x 52 8 = 0 then some (.phys (field x 0 52)) else none
    else if field x 18 42 = 0 then some (.spad (4 * hall + field x 61 2) (field x 0 18)) else none
  else if field x 48 15 = 0 then some (.virt (field x 0 48)) else none

/-- The address some bytes further on. -/
def EAddr.plus (a : EAddr) (n : Nat) : EAddr :=
  match a with
  | .virt va => .virt (va + n)
  | .spad c o => .spad c (o + n)
  | .phys pa => .phys (pa + n)

/-- The offset of an address within its space. -/
def EAddr.base : EAddr → Nat
  | .virt va => va
  | .spad _ o => o
  | .phys pa => pa

/-- An address as range locks name it: space, and byte number there (R132). A physical address in a scratchpad of this module
names the scratchpad. -/
def EAddr.lock (d : Device) : EAddr → Nat × Nat
  | .virt va => (0, va)
  | .spad c o => (1, spadKey c o)
  | .phys pa =>
    if !isRemote d pa ∧ regionOf (localOf pa) = .spad then (1, localOf pa - 0x200008000000) else (2, pa)

/-- The module and port to which an access at an engine address goes; none on this module (R352). -/
def engPorts (d : Device) (ctx : Nat) (a : EAddr) : List (Nat × Nat) :=
  match a with
  | .virt va => match walkTables d ctx (vaNat va) with | .ok te _ _ => routePorts d (te.pa + (vaNat va - te.page)) 1 | _ => []
  | .spad _ _ => []
  | .phys pa => routePorts d pa 1

/-- The engine addresses of the lines from one to its `last` byte. -/
def engLines (a : EAddr) (last : Nat) : List EAddr :=
  (List.range (last / 128 + 2)).map fun i => a.plus (min last (128 * i))

/-- Whether any line from an engine address to its `last` byte is another module's. -/
def engRemote (d : Device) (ctx : Nat) (a : EAddr) (last : Nat) : Bool :=
  (engLines a last).any fun e => decide (engPorts d ctx e ≠ [])

/-- Whether the lines from an engine address to its `last` byte go to a module through a port. -/
def engUses (d : Device) (ctx : Nat) (a : EAddr) (last : Nat) (mp : Nat × Nat) : Bool :=
  (engLines a last).any fun e => (engPorts d ctx e).contains mp

/-- One byte that an engine reads, with its poison. -/
def engByte (d : Device) (ctx : Nat) (g : Agent) (a : EAddr) : Except MFault (Byte × Bool × Device) :=
  match a with
  | .virt va =>
    match engineRead d ctx g.priv .plain va 1 g with
    | .error f => .error f
    | .ok (bs, d1) => .ok (bs.headD 0, enginePoisoned d1 ctx va 1 g, d1)
  | .spad c o => .ok (memGet d.st.spad (spadKey c o), spadPoisoned d c o 1, d)
  | .phys pa =>
    if engReach d pa then
      let p := poisonPlace d pa
      .ok (physByte d pa, poisonHit d.st.poison p.1 p.2.1 p.2.2 1, d)
    else .error (xlateFault 0x32 pa pa)

/-- Bytes that an engine reads at physical addresses one after another, with whether any is poisoned. -/
def physBytes (ctx : Nat) (g : Agent) (pa : Nat) : Nat → Device → Except MFault (List Byte × Bool × Device)
  | 0, d => .ok ([], false, d)
  | n + 1, d =>
    match engByte d ctx g (.phys pa) with
    | .error f => .error f
    | .ok (b, p, d1) =>
      match physBytes ctx g (pa + 1) n d1 with
      | .error f => .error f
      | .ok (bs, q, d2) => .ok (b :: bs, p || q, d2)

/-- Consecutive bytes that an engine reads, with whether any is poisoned: in virtual memory one access. -/
def engBytes (ctx : Nat) (g : Agent) (a : EAddr) (n : Nat) (d : Device) : Except MFault (List Byte × Bool × Device) :=
  match a with
  | .virt va =>
    if n = 0 then .ok ([], false, d)
    else
      match engineRead d ctx g.priv .plain va n g with
      | .error f => .error f
      | .ok (bs, d1) => .ok (bs, enginePoisoned d1 ctx va n g, d1)
  | .spad c o => .ok (spadRead d c o n, spadPoisoned d c o n, d)
  | .phys pa => physBytes ctx g pa n d

/-- Bytes that an engine writes at consecutive addresses. -/
def engPut (d : Device) (own ctx : Nat) (g : Agent) (a : EAddr) (bs : List Byte) : Except MFault Device :=
  match a with
  | .virt va => engineWrite d own ctx g.priv .plain va bs g
  | .spad c o => .ok (spadWrite d c o bs)
  | .phys pa => if engReach d pa then .ok (physWrite d own pa bs) else .error (xlateFault 0x32 pa pa)

/-- The unit that holds a byte marked as poisoned (R411). -/
def engPoison (d : Device) (ctx : Nat) (a : EAddr) : Device :=
  let mark (code size x : Nat) : Device :=
    { d with st := { d.st with poison := poisonMark d.st.poison code size x 1 } }
  match a with
  | .virt va =>
    match walkTables d ctx (vaNat va) with
    | .ok te _ _ => mark 2 16 (te.pa + (vaNat va - te.page))
    | _ => d
  | .spad c o => mark 4 4 (spadKey c o)
  | .phys pa => let p := poisonPlace d pa; mark p.1 p.2.1 p.2.2

/-- Consecutive bytes of a list of places and bytes joined: start and bytes of each run. -/
def runsOf : List (Nat × Byte) → List (Nat × List Byte)
  | [] => []
  | (a, b) :: t =>
    match runsOf t with
    | (a', bs) :: r => if a' = a + 1 then (a, b :: bs) :: r else (a, [b]) :: (a', bs) :: r
    | [] => [(a, [b])]

/-- INFO of a memory cause that an engine meets: one page (Table 19.1). -/
def engInfo (f : MFault) : W64 := if f.cause = 0x30 ∨ f.cause = 0x31 then f.info ||| 256#64 else f.info

/-- Whether an engine's fault is parked (R402). -/
def engParks (d : Device) (ctx : Nat) (f : MFault) : Bool :=
  (f.cause = 0x30 || f.cause = 0x31) && (ctxOf d ctx).park

/-- An engine's work parked on a page (R402): its entry is made, with its record. -/
def parkEngine (d : Device) (src : Source) (ctx : Nat) (f : MFault) (p : Where) : Device :=
  if d.parking.contains (ctx, f.page) then d
  else if d.parking.length < 256 then
    faultRecord { d with parking := d.parking ++ [(ctx, f.page)] } src ctx f.cause false 0 (engInfo f) p
  else faultRecord d src ctx f.cause false 0 (engInfo f ||| 128#64) p

/-- The ESTAT bits, from bit 8 of Word 3, of a memory cause (Table 19.5a). -/
def estatOf (cause : BitVec 8) : BitVec 8 :=
  if cause = 0x30 ∨ cause = 0x31 then 1
  else if cause = 0x32 ∨ cause = 0x33 then 2
  else if cause = 0x41 then 8
  else 0

/-- ESTAT bits: poisoned bytes, a remote request without answer, an engine or queue reset, an image refused, a unit
reloaded (Tables 19.5a and R415). -/
def esPois : BitVec 8 := 4
/-- NOANS. -/
def esNoans : BitVec 8 := 16
/-- UNIT. -/
def esUnit : BitVec 8 := 32
/-- DEC. -/
def esDec : BitVec 8 := 64
/-- HANG. -/
def esHang : BitVec 8 := 128

/-- What an engine's raise comes to (R406): performed, parked on a page, or lost, with its record written. -/
inductive Raised where
  | done (d : Device)
  | parked (va : VA) (d : Device)
  | lost (d : Device)

/-- A raise of an arrival word by an engine for a block (R79, R247, R406): `n` bytes in bytes mode, 1 in events mode. -/
def engRaise (d : Device) (src : Source) (b : Block) (core : Nat) (priv : Bool) (op : W64) (n : Nat) (flags : BitVec 7)
    (estat : BitVec 8) : Raised :=
  match arLocEngine d b core b.ctx priv op true with
  | .ok (loc, d1) => .done (raiseAt d1 src b.ctx op loc n flags estat)
  | .error f =>
    let d1 := walkFailed b.ctx f d
    if engParks d1 b.ctx f then .parked (f.addr.setWidth 48) (parkEngine d1 src b.ctx f (blockWhere b))
    else .lost (faultRecord d1 src b.ctx f.cause false 0 (engInfo f) (blockWhere b))

/-- Whether an arrival word that an engine raises is in events mode, as far as it can be read. -/
def arEvents (d : Device) (b : Block) (core : Nat) (priv : Bool) (op : W64) : Bool :=
  match arLocEngine d b core b.ctx priv op false with
  | .ok (loc, _) => ((arBytes d loc).getD 3 0).getLsbD 7
  | .error _ => false

/-- A token of a block's wave orphaned (R393). -/
def orphanOf (d : Device) (core slot block : Nat) (tok : Option (BitVec 4)) : Device :=
  match tok with
  | some k => modWave d core slot fun w => if w.block = block then tokOrphan k.toNat w else w
  | none => d

/-- A token of a block's wave made idle, with the flags that its operation brings (R118): what the operation wrote to memory
is visible to the wave without a fence, so its core keeps no older copy (R134). -/
def idleOf (d : Device) (core slot block : Nat) (tok : Option (BitVec 4)) (flags : BitVec 7) : Device :=
  match tok with
  | some k =>
    modWave (l1Acquire d core) core slot fun w => if w.block = block then addFlags flags (tokIdle k.toNat w) else w
  | none => d

end Sys2Proof.Machine
end

