-- ==== Sys2Proof/Machine/Num.lean ====
section
/-! DEFINITION. Number formats, exact values and rounding (R100 to R117): decode, round, saturate, encode, and the
arithmetic that every numeric instruction shares. Exact values are rationals; only rounding narrows them (R10). -/

namespace Sys2Proof.Machine

/-- A value of a floating-point format, exact: NaN (signalling or quiet), infinity, or a number with its sign. -/
inductive FVal where
  | nan (sig : Bool)
  | inf (neg : Bool)
  | num (neg : Bool) (x : Rat)
  deriving DecidableEq, Repr

/-- How a format codes its largest exponent (R101, R103, R104): infinities and NaNs, one NaN code, or numbers only. -/
inductive Top where
  | ieee | oneNan | numbers
  deriving DecidableEq, Repr

/-- A floating-point format (Table 5.1, R104, R105, R106). -/
structure Fmt where
  ebits : Nat
  fbits : Nat
  bias : Nat
  top : Top
  deriving DecidableEq, Repr

/-- FP32 (Table 5.1). -/
def fp32 : Fmt := { ebits := 8, fbits := 23, bias := 127, top := .ieee }
/-- FP16 (Table 5.1). -/
def fp16 : Fmt := { ebits := 5, fbits := 10, bias := 15, top := .ieee }
/-- BF16 (Table 5.1). -/
def bf16 : Fmt := { ebits := 8, fbits := 7, bias := 127, top := .ieee }
/-- FP8 E4M3 (R103). -/
def e4m3 : Fmt := { ebits := 4, fbits := 3, bias := 7, top := .oneNan }
/-- FP8 E5M2 (R103). -/
def e5m2 : Fmt := { ebits := 5, fbits := 2, bias := 15, top := .ieee }
/-- The MXFP4 element E2M1 (R104). -/
def e2m1 : Fmt := { ebits := 2, fbits := 1, bias := 1, top := .numbers }
/-- The magnitude of a TS4 element, E1M1 (Table 5.2). -/
def ts4 : Fmt := { ebits := 1, fbits := 1, bias := 1, top := .numbers }
/-- The magnitude of a TS8 element (Table 5.2). -/
def ts8 : Fmt := { ebits := 3, fbits := 3, bias := 3, top := .numbers }
/-- The accumulator format A80 (R106). -/
def a80 : Fmt := { ebits := 12, fbits := 67, bias := 2047, top := .ieee }

/-- Width of a format in bits. -/
def fmtWidth (f : Fmt) : Nat := 1 + f.ebits + f.fbits

/-- 2^k for an integer k. -/
def pow2 (k : Int) : Rat := if 0 ≤ k then ((2 ^ k.toNat : Nat) : Rat) else mkRat 1 (2 ^ (-k).toNat)

/-- The largest exponent code of a finite number. -/
def topExp (f : Fmt) : Nat := match f.top with | .ieee => 2 ^ f.ebits - 2 | _ => 2 ^ f.ebits - 1

/-- The largest finite magnitude M (R107). -/
def maxFinite (f : Fmt) : Rat :=
  let fr : Nat := match f.top with | .oneNan => 2 ^ f.fbits - 2 | _ => 2 ^ f.fbits - 1
  ((2 ^ f.fbits + fr : Nat) : Rat) * pow2 ((topExp f : Int) - f.bias - f.fbits)

/-- The smallest normal magnitude. -/
def minNormal (f : Fmt) : Rat := pow2 (1 - (f.bias : Int))

/-- The value of a code (R101, R103, R104, R106). -/
def decodeF (f : Fmt) (bits : Nat) : FVal :=
  let fr := bits % 2 ^ f.fbits
  let e := bits / 2 ^ f.fbits % 2 ^ f.ebits
  let neg := decide (bits / 2 ^ (f.fbits + f.ebits) % 2 = 1)
  let sgn (x : Rat) : Rat := if neg then -x else x
  let val : FVal :=
    if e = 0 then .num neg (sgn ((fr : Rat) * pow2 (1 - (f.bias : Int) - f.fbits)))
    else .num neg (sgn (((2 ^ f.fbits + fr : Nat) : Rat) * pow2 ((e : Int) - f.bias - f.fbits)))
  match f.top with
  | .ieee =>
    if e = 2 ^ f.ebits - 1 then
      if fr = 0 then .inf neg else .nan (decide (fr / 2 ^ (f.fbits - 1) % 2 = 0))
    else val
  | .oneNan => if e = 2 ^ f.ebits - 1 ∧ fr = 2 ^ f.fbits - 1 then .nan false else val
  | .numbers => val

/-- The canonical NaN (Table 5.1, R106); zero where the format has none. -/
def canonNan (f : Fmt) : Nat :=
  match f.top with
  | .ieee => (2 ^ f.ebits - 1) * 2 ^ f.fbits + 2 ^ (f.fbits - 1)
  | .oneNan => 2 ^ (f.fbits + f.ebits) - 1
  | .numbers => 0

/-- floor(log2 (n / d)) for positive n, d. -/
def floorLog2 (n d : Nat) : Int :=
  let k : Int := (Nat.log2 n : Int) - (Nat.log2 d : Int)
  if (0 ≤ k ∧ d * 2 ^ k.toNat ≤ n) ∨ (k < 0 ∧ d ≤ n * 2 ^ (-k).toNat) then k else k - 1

/-- floor(log2 |x|) for a nonzero rational. -/
def ratLog2 (x : Rat) : Int := floorLog2 x.num.natAbs x.den

/-- |x|. -/
def ratAbs (x : Rat) : Rat := if x < 0 then -x else x

/-- The code of a value that the format holds exactly (R101). -/
def encodeF (f : Fmt) : FVal → Nat
  | .nan _ => canonNan f
  | .inf neg => nat1 neg * 2 ^ (f.ebits + f.fbits) + (2 ^ f.ebits - 1) * 2 ^ f.fbits
  | .num neg x =>
    let s := nat1 neg * 2 ^ (f.ebits + f.fbits)
    if x = 0 then s
    else
      let e := max (ratLog2 x) (1 - (f.bias : Int))
      let q := (ratAbs x * pow2 ((f.fbits : Int) - e)).floor.toNat
      if q < 2 ^ f.fbits then s + q
      else s + ((e + f.bias).toNat) * 2 ^ f.fbits + (q - 2 ^ f.fbits)

/-- A rounding mode (R107). -/
inductive Rm where
  | rne | rtz | rup | rdn
  deriving DecidableEq, Repr

/-- Numeric flags, bit for bit as sr.fflags (Table 3.4). -/
abbrev Flags := BitVec 7

/-- Flag invalid. -/
def flInvalid : Flags := 1
/-- Flag divide by zero. -/
def flDivZero : Flags := 2
/-- Flag overflow. -/
def flOverflow : Flags := 4
/-- Flag underflow. -/
def flUnderflow : Flags := 8
/-- Flag inexact. -/
def flInexact : Flags := 16
/-- Flag saturated. -/
def flSaturated : Flags := 32
/-- Flag residual dropped. -/
def flResidual : Flags := 64

/-- A flag where a condition holds. -/
def flagIf (c : Bool) (f : Flags) : Flags := if c then f else 0

/-- Whether a magnitude between lo = q × quantum and the next value goes up, given the discarded part as a fraction of
the quantum in (0, 1), the parity of q, the sign and the mode (R107). -/
def roundsUp (m : Rm) (neg : Bool) (q : Int) (frac : Rat) : Bool :=
  match m with
  | .rne => decide ((1 : Rat) / 2 < frac) || (decide (frac = (1 : Rat) / 2) && decide (q % 2 = 1))
  | .rtz => false
  | .rup => !neg
  | .rdn => neg

/-- A rational rounded to an integer in a mode (R107, R111). -/
def roundInt (m : Rm) (x : Rat) : Int :=
  let a := ratAbs x
  let q := a.floor
  let fr := a - (q : Rat)
  let neg := decide (x < 0)
  let r := if fr ≠ 0 && roundsUp m neg q fr then q + 1 else q
  if neg then -r else r

/-- The quantum of a format at a nonzero magnitude: the spacing of its values there, exponent unbounded above. -/
def quantum (f : Fmt) (a : Rat) : Rat := pow2 (max (ratLog2 a) (1 - (f.bias : Int)) - f.fbits)

/-- What overflow gives in a mode (R107), before a format without infinities replaces it. -/
def overflowTo (f : Fmt) (m : Rm) (neg : Bool) : FVal :=
  let big : FVal := .num neg (if neg then -maxFinite f else maxFinite f)
  match m with
  | .rne => .inf neg
  | .rtz => big
  | .rup => if neg then big else .inf false
  | .rdn => if neg then .inf true else big

/-- The value a magnitude chosen under R107 stands for, with the flags of the choice: overflow, underflow, inexact. -/
def settle (f : Fmt) (m : Rm) (neg : Bool) (mag : Rat) (exact : Bool) : FVal × Flags :=
  if maxFinite f < mag then
    match overflowTo f m neg, f.top with
    | .inf _, .oneNan => (.nan false, flOverflow ||| flInexact)
    | v, _ => (v, flOverflow ||| flInexact)
  else
    (.num neg (if neg then -mag else mag),
      if exact then 0 else flInexact ||| flagIf (decide (mag ≠ 0) && decide (mag < minNormal f)) flUnderflow)

/-- round_to(fmt, x, mode) of an exact finite value with its sign (R107). -/
def roundTo (f : Fmt) (m : Rm) (neg : Bool) (x : Rat) : FVal × Flags :=
  if x = 0 then (.num neg 0, 0)
  else
    let a := ratAbs x
    let u := quantum f a
    let s := a / u
    let q := s.floor
    let fr := s - (q : Rat)
    let up := decide (fr ≠ 0) && roundsUp m neg q fr
    settle f m neg (((if up then q + 1 else q : Int) : Rat) * u) (decide (fr = 0))

/-- The flag of a signalling NaN operand (R102). -/
def sigFlag : FVal → Flags
  | .nan true => flInvalid
  | _ => 0

/-- A value's sign. -/
def fNeg : FVal → Bool
  | .nan _ => false
  | .inf n => n
  | .num n _ => n

/-- Whether a value is a NaN. -/
def isNan : FVal → Bool
  | .nan _ => true
  | _ => false

/-- ±M, the largest finite value of a format. -/
def bigF (f : Fmt) (neg : Bool) : FVal := .num neg (if neg then -maxFinite f else maxFinite f)

/-- A conversion of a value to a format in a mode, with or without `.sat`; formats without infinities and NaNs always
saturate (R107, R109): a result above M, whatever the mode would make of it, becomes ±M with saturated and inexact. -/
def convF (f : Fmt) (m : Rm) (sat : Bool) (v : FVal) : FVal × Flags :=
  let sat := sat || decide (f.top = .numbers)
  match v with
  | .nan sig => if f.top = .numbers then (.num false 0, flInvalid) else (.nan false, flagIf sig flInvalid)
  | .inf neg =>
    if sat then (bigF f neg, flSaturated ||| flInexact)
    else if f.top = .oneNan then (.nan false, flInvalid)
    else (.inf neg, 0)
  | .num neg x =>
    let r := roundTo f m neg x
    if sat ∧ r.2 &&& flOverflow ≠ 0 then (bigF f neg, flSaturated ||| flInexact) else r

/-- The stochastic rounding of R115 with the 16 bits `t`. -/
def convSr (f : Fmt) (sat : Bool) (t : Nat) (v : FVal) : FVal × Flags :=
  match v with
  | .num neg x =>
    if x = 0 then (.num neg 0, 0)
    else
      let a := ratAbs x
      if maxFinite f < a then convF f .rne sat v
      else
        let u := quantum f a
        let s := a / u
        let q := s.floor
        let fr := s - (q : Rat)
        let c := (fr * 65536).floor
        settle f .rne neg (((if decide (fr ≠ 0) && decide ((t : Int) < c) then q + 1 else q : Int) : Rat) * u)
          (decide (fr = 0))
  | _ => convF f .rne sat v

/-- The exact product of two values and the flag of 0 × ∞ (R102); the flags of signalling operands are the caller's. -/
def mulF (a b : FVal) : FVal × Flags :=
  match a, b with
  | .nan _, _ => (.nan false, 0)
  | _, .nan _ => (.nan false, 0)
  | .inf n, .inf k => (.inf (n != k), 0)
  | .inf n, .num k y => if y = 0 then (.nan false, flInvalid) else (.inf (n != k), 0)
  | .num n x, .inf k => if x = 0 then (.nan false, flInvalid) else (.inf (n != k), 0)
  | .num n x, .num k y => (.num (n != k) (x * y), 0)

/-- Whether a value is −0. -/
def isNegZero : FVal → Bool
  | .num true x => decide (x = 0)
  | _ => false

/-- The rational of a number, zero otherwise. -/
def fRat : FVal → Rat
  | .num _ x => x
  | _ => 0

/-- The exact sum of values with its sign of zero (R107, R117): any NaN gives NaN, infinities of both signs give NaN
and invalid, an exact zero is −0 when every term is −0, else +0, or −0 in mode RDN. -/
def sumF (m : Rm) (ts : List FVal) : FVal × Flags :=
  let pos := ts.any fun v => decide (v = .inf false)
  let neg := ts.any fun v => decide (v = .inf true)
  if ts.any isNan then (.nan false, flagIf (pos && neg) 0)
  else if pos && neg then (.nan false, flInvalid)
  else if pos then (.inf false, 0)
  else if neg then (.inf true, 0)
  else
    let x := ts.foldl (fun acc v => acc + fRat v) 0
    if x = 0 then (.num (ts.all isNegZero || decide (m = .rdn)) 0, 0) else (.num (decide (x < 0)) x, 0)

/-- A value rounded to a format where it stands exact, infinite or NaN (R107). -/
def roundF (f : Fmt) (m : Rm) (v : FVal) : FVal × Flags :=
  match v with
  | .num n x => roundTo f m n x
  | v => (v, 0)

/-- a + b rounded once (R179, R107). -/
def addF (f : Fmt) (m : Rm) (a b : FVal) : FVal × Flags :=
  let s := sumF m [a, b]
  let r := roundF f m s.1
  (r.1, r.2 ||| s.2 ||| sigFlag a ||| sigFlag b)

/-- a × b rounded once (R179). -/
def prodF (f : Fmt) (m : Rm) (a b : FVal) : FVal × Flags :=
  let p := mulF a b
  let r := roundF f m p.1
  (r.1, r.2 ||| p.2 ||| sigFlag a ||| sigFlag b)

/-- a × b + c rounded once (R179). -/
def fmaF (f : Fmt) (m : Rm) (a b c : FVal) : FVal × Flags :=
  let p := mulF a b
  let s := sumF m [p.1, c]
  let r := roundF f m s.1
  (r.1, r.2 ||| p.2 ||| s.2 ||| sigFlag a ||| sigFlag b ||| sigFlag c)

/-- Order of two values that are not NaN, −0 below +0 (R113). -/
def ltTotal (a b : FVal) : Bool :=
  match a, b with
  | .inf true, .inf true => false
  | .inf true, _ => true
  | _, .inf true => false
  | .inf false, _ => false
  | _, .inf false => true
  | .num n x, .num k y => decide (x < y) || (decide (x = y) && n && !k)
  | _, _ => false

/-- minimumNumber (R113), with the flag of a signalling operand. -/
def minF (a b : FVal) : FVal × Flags :=
  let fl := sigFlag a ||| sigFlag b
  match isNan a, isNan b with
  | true, true => (.nan false, fl)
  | true, false => (b, fl)
  | false, true => (a, fl)
  | false, false => (if ltTotal b a then b else a, fl)

/-- maximumNumber (R113). -/
def maxF (a b : FVal) : FVal × Flags :=
  let fl := sigFlag a ||| sigFlag b
  match isNan a, isNan b with
  | true, true => (.nan false, fl)
  | true, false => (b, fl)
  | false, true => (a, fl)
  | false, false => (if ltTotal a b then b else a, fl)

/-- Numeric comparison a < b of values that are not NaN: −0 equals +0. -/
def ltF (a b : FVal) : Bool :=
  match a, b with
  | .num _ x, .num _ y => decide (x < y)
  | a, b => ltTotal a b

/-- Numeric equality of values that are not NaN. -/
def eqF (a b : FVal) : Bool :=
  match a, b with
  | .num _ x, .num _ y => decide (x = y)
  | .inf n, .inf k => n == k
  | _, _ => false

/-- The flush of a subnormal FP32 input to a zero of its sign (R112). -/
def flushIn (on : Bool) (v : FVal) : FVal :=
  match v with
  | .num n x => if on && decide (x ≠ 0) && decide (ratAbs x < minNormal fp32) then .num n 0 else v
  | v => v

/-- The flush of a subnormal FP32 result (R112). -/
def flushOut (on : Bool) (r : FVal × Flags) : FVal × Flags :=
  match r.1 with
  | .num n x =>
    if on && decide (x ≠ 0) && decide (ratAbs x < minNormal fp32) then (.num n 0, r.2 ||| flUnderflow ||| flInexact)
    else r
  | _ => r

/-- An FP32 value of its bits. -/
def f32 (b : W32) : FVal := decodeF fp32 b.toNat

/-- The FP32 bits of a value. -/
def f32Bits (v : FVal) : W32 := BitVec.ofNat 32 (encodeF fp32 v)

/-- A floating-point value converted to an integer of `n` bits in a mode, clamped, with the flags of R111. -/
def toInt (n : Nat) (isSigned : Bool) (round : Rat → Int) (v : FVal) : Int × Flags :=
  let lo : Int := if isSigned then -((2 ^ (n - 1) : Nat) : Int) else 0
  let hi : Int := if isSigned then ((2 ^ (n - 1) : Nat) : Int) - 1 else ((2 ^ n : Nat) : Int) - 1
  match v with
  | .nan _ => (0, flInvalid)
  | .inf neg => (if neg then lo else hi, flInvalid)
  | .num _ x =>
    let r := round x
    if r < lo then (lo, flInvalid)
    else if hi < r then (hi, flInvalid)
    else (r, flagIf (decide ((r : Rat) ≠ x)) flInexact)

/-- The stochastic choice of R115 between the integers around a value. -/
def roundIntSr (t : Nat) (x : Rat) : Int :=
  let a := ratAbs x
  let q := a.floor
  let fr := a - (q : Rat)
  let c := (fr * 65536).floor
  let r := if decide (fr ≠ 0) && decide ((t : Int) < c) then q + 1 else q
  if x < 0 then -r else r

/-- One step of the generator of R114: the new state and the 16 bits it gives. -/
def lfsrStep (s : W32) : W32 × Nat :=
  let s' : W32 := if s.getLsbD 0 then (s >>> 1) ^^^ 0x80200003#32 else s >>> 1
  (s', s'.toNat / 65536)

/-- The value of an E8M0 scale byte (R104). -/
def e8m0 (b : Byte) : FVal := if b = 255#8 then .nan false else .num false (pow2 ((b.toNat : Int) - 127))

/-- The value of a TS4 or TS8 element code with its scales (R105): selector, sign, magnitude. -/
def tsValue (eight : Bool) (code : Nat) (s0 s1 : Byte) : FVal :=
  let n := if eight then 6 else 2
  let f := if eight then ts8 else ts4
  let sel := decide (code / 2 ^ (n + 1) % 2 = 1)
  let neg := decide (code / 2 ^ n % 2 = 1)
  let mag := fRat (decodeF f (code % 2 ^ n))
  match e8m0 (if sel then s1 else s0) with
  | .num _ k => .num neg ((if neg then -mag else mag) * k)
  | _ => .nan false

/-- One candidate of a conversion to a twin-scale element (R110), rounded and saturated by `cv`: code without selector, decoded value, flags. -/
def tsCandidate (eight : Bool) (cv : Fmt → FVal → FVal × Flags) (v : FVal) (scale : Byte) : Option (Nat × Rat × Flags) :=
  let f := if eight then ts8 else ts4
  let n := if eight then 6 else 2
  match e8m0 scale with
  | .num _ k =>
    let q : FVal := match v with | .num s x => .num s (x / k) | w => w
    let r := cv f q
    let neg := fNeg r.1
    let code := encodeF f r.1 % 2 ^ n + nat1 neg * 2 ^ n
    some (code, fRat r.1 * k, r.2)
  | _ => none

/-- A conversion to a twin-scale element whose block keeps its scales (R110): an infinity is equally far from both
candidates. -/
def toTs (eight : Bool) (cv : Fmt → FVal → FVal × Flags) (v : FVal) (s0 s1 : Byte) : Nat × Flags :=
  let n := if eight then 6 else 2
  match tsCandidate eight cv v s0, tsCandidate eight cv v s1 with
  | none, none => (0, flInvalid)
  | some (c, _, fl), none => (c, fl)
  | none, some (c, _, fl) => (c + 2 ^ (n + 1), fl)
  | some (c0, x0, f0), some (c1, x1, f1) =>
    let x := fRat v
    match v with
    | .num _ _ => if ratAbs (x1 - x) < ratAbs (x0 - x) then (c1 + 2 ^ (n + 1), f1) else (c0, f0)
    | _ => (c0, f0)

/-- One output element of a matrix pass (R117) from its products in order of k, each with its flags, added in chunks
of 32 to the accumulator (absent: overwrite). -/
def accumulate : Nat → List (FVal × Flags) → Option FVal → FVal × Flags
  | 0, _, acc => (acc.getD (.num false 0), 0)
  | chunks + 1, ps, acc =>
    let here := ps.take 32
    let t := sumF .rne (here.map (·.1))
    let bad := flagIf (isNan t.1) flInvalid
    let q := roundF a80 .rne t.1
    let step : FVal × Flags :=
      match acc with
      | none => (q.1, q.2 ||| bad)
      | some c =>
        let s := sumF .rne [c, q.1]
        let r := roundF a80 .rne s.1
        (r.1, q.2 ||| bad ||| s.2 ||| r.2 ||| sigFlag c)
    let rest := accumulate chunks (ps.drop 32) (some step.1)
    (rest.1, step.2 ||| rest.2)

end Sys2Proof.Machine
end

