-- ==== Sys2Proof/Machine/Approx.lean ====
section
/-! DEFINITION. The exact values behind Table 5.3's bounds (R116): 2^x, log2 x, sin 2πx and cos 2πx as fixed-point numbers of
192 fraction bits, from their series. Every sum below is within 2^-150 of the function; a bound is asked for with that
slack, so that a value that passes is inside the bound. -/

namespace Sys2Proof.Machine

/-- One in fixed point. -/
def fxOne : Int := 2 ^ 192

/-- A product in fixed point. -/
def fxMul (a b : Int) : Int := a * b / fxOne

/-- A rational in fixed point. -/
def fxOf (x : Rat) : Int := (x * (fxOne : Rat)).floor

/-- The rational of a fixed-point number. -/
def fxRat (x : Int) : Rat := (x : Rat) / (fxOne : Rat)

/-- `n` more terms of z + s z^3/3 + z^5/5 + s z^7/7 …, with s = −1 for the arc tangent and 1 for its hyperbolic twin. -/
def arcSum (s z2 : Int) : Nat → Nat → Int → Int
  | 0, _, _ => 0
  | n + 1, k, p => p / (k : Int) + arcSum s z2 n (k + 2) (s * fxMul p z2)

/-- The inverse hyperbolic tangent of |z| ≤ 1/3. -/
def fxAtanh (z : Int) : Int := arcSum 1 (fxMul z z) 70 1 z

/-- The arc tangent of 1/q. -/
def fxAtanInv (q : Nat) : Int := arcSum (-1) (fxMul (fxOne / (q : Int)) (fxOne / (q : Int))) 50 1 (fxOne / (q : Int))

/-- ln 2. -/
def fxLn2 : Int := 2 * fxAtanh (fxOne / 3)

/-- π. -/
def fxPi : Int := 16 * fxAtanInv 5 - 4 * fxAtanInv 239

/-- `n` more terms of the exponential series, the last term being `p`. -/
def expSum (t : Int) : Nat → Nat → Int → Int
  | 0, _, _ => 0
  | n + 1, k, p => p + expSum t n (k + 1) (fxMul p t / ((k : Int) + 1))

/-- 2^x; below −200 the value at −200 stands for all, since no FP32 value tells them apart (Table 5.3). -/
def exactExp2 (x : Rat) : Rat :=
  let y := if x < -200 then -200 else x
  let k := y.floor
  fxRat (expSum (fxMul (fxOf (y - (k : Rat))) fxLn2) 50 0 fxOne) * pow2 k

/-- log2 x of a positive x. -/
def exactLog2 (x : Rat) : Rat :=
  let e := ratLog2 x
  let m := x / pow2 e
  (e : Rat) + fxRat (2 * fxAtanh (fxOf ((m - 1) / (m + 1)))) / fxRat fxLn2

/-- `n` more terms of the series of sine (from k = 1) and cosine (from k = 0), the last term being `p`. -/
def waveSum (a2 : Int) : Nat → Nat → Int → Int
  | 0, _, _ => 0
  | n + 1, k, p => p + waveSum a2 n (k + 2) (-(fxMul p a2) / (((k + 1) * (k + 2) : Nat) : Int))

/-- The angle of x turns, reduced exactly to half a turn either way (R116). -/
def turnAngle (x : Rat) : Int := fxMul (2 * fxPi) (fxOf (x - ((roundInt .rne x : Int) : Rat)))

/-- sin 2πx. -/
def exactSin (x : Rat) : Rat := let a := turnAngle x; fxRat (waveSum (fxMul a a) 60 1 a)

/-- cos 2πx. -/
def exactCos (x : Rat) : Rat := let a := turnAngle x; fxRat (waveSum (fxMul a a) 60 0 fxOne)

/-- Whether an FP32 value is a number within a bound of an exact value, the slack of the series included. -/
def nearTo (y bound : Rat) : FVal → Bool
  | .num _ z => decide (ratAbs (z - y) + bound * pow2 (-100) ≤ bound)
  | _ => false

/-- An exact value rounded to FP32. -/
def nearest (y : Rat) : FVal := (roundTo fp32 .rne (decide (y < 0)) y).1

end Sys2Proof.Machine
end

