-- ==== Sys2Proof/WellFormed.lean ====
section
/-! DEFINITION. Which terms of the syntax stand for something the machine can meet: operand numbers within their files
(Table 3.3), unit numbers within the die (R14, R15), ring and table indices within their sizes. A word may be
well-formed and still be an illegal use: those words execute as traps (R386). -/

namespace Sys2Proof

/-- The operand's number lies within its code range (Table 3.3). -/
def Operand.wf : Operand → Bool
  | .v n => decide (n < 128)
  | .s n => decide (n < 64)
  | .b n => decide (n < 8)
  | .pos n => decide (n ≤ 16)
  | .neg n => decide (1 ≤ n ∧ n ≤ 16)
  | .fp n => decide (n < 7)
  | .reserved n => decide (n < 4)
  | .q n => decide (n < 4)
  | _ => true

/-- Every operand of the word is well-formed. -/
def WordA.wf (w : WordA) : Bool := w.d.wf && w.a.wf && w.b.wf && w.c.wf
/-- Every operand of the word is well-formed. -/
def WordI.wf (w : WordI) : Bool := w.d.wf && w.a.wf
/-- Every operand of the word is well-formed. -/
def WordP.wf (w : WordP) : Bool := w.a.wf && w.b.wf
/-- Every operand of the word is well-formed. -/
def WordM.wf (w : WordM) : Bool := w.d.wf && w.a.wf && w.b.wf
/-- Every operand of the word is well-formed. -/
def WordMA.wf (w : WordMA) : Bool := w.d.wf && w.a.wf && w.b.wf && w.c.wf
/-- Every operand of the word is well-formed. -/
def WordB.wf (w : WordB) : Bool := w.d.wf && w.a.wf
/-- Every operand of the word is well-formed. -/
def WordE.wf (w : WordE) : Bool := w.x.wf && w.y.wf && w.z.wf && w.w.wf
/-- Every operand of the word is well-formed. -/
def WordX.wf (w : WordX) : Bool := w.a.wf && w.b.wf && w.c.wf
/-- Every operand of the word is well-formed. -/
def WordN.wf (w : WordN) : Bool := w.h.wf && w.inp.wf && w.out.wf
/-- Every operand of the word is well-formed. -/
def WordK.wf (w : WordK) : Bool := w.a.wf && w.b.wf
/-- Every operand of both halves is well-formed. -/
def WordPair.wf (w : WordPair) : Bool := w.h1.a.wf && w.h1.b.wf && w.h2.a.wf && w.h2.b.wf

/-- A core of the die (R14). -/
def wfCore (c : Nat) : Bool := decide (c < Config.cores)
/-- A hall of the die (R14). -/
def wfHall (h : Nat) : Bool := decide (h < Config.halls)
/-- A wave slot of a core (R15). -/
def wfWave (c s : Nat) : Bool := decide (c < Config.cores) && decide (s < Config.slots)

/-- The size of an APC access (R77). -/
def ApcAccess.wf (a : ApcAccess) : Bool := decide (a.apc < 16) && decide (1 ≤ a.size ∧ a.size ≤ 8)

/-- The term stands for something the machine can meet. -/
def Instr.wf : Instr → Bool
  | .iadd w => w.wf
  | .isub w => w.wf
  | .imul w => w.wf
  | .imulh w => w.wf
  | .imad w => w.wf
  | .idp4 w => w.wf
  | .imin w => w.wf
  | .imax w => w.wf
  | .shl w => w.wf
  | .shr w => w.wf
  | .sar w => w.wf
  | .fshf w => w.wf
  | .bfe w => w.wf
  | .bfi w => w.wf
  | .popc w => w.wf
  | .clz w => w.wf
  | .ctz w => w.wf
  | .brev w => w.wf
  | .blut w => w.wf
  | .icmp w => w.wf
  | .fcmp w => w.wf
  | .sel w => w.wf
  | .mov w => w.wf
  | .movi w => w.wf
  | .plut w => w.wf
  | .iaddi w => w.wf
  | .imuli w => w.wf
  | .andi w => w.wf
  | .ori w => w.wf
  | .xori w => w.wf
  | .faddi w => w.wf
  | .fmuli w => w.wf
  | .fadd w => w.wf
  | .fmul w => w.wf
  | .ffma w => w.wf
  | .fmin w => w.wf
  | .fmax w => w.wf
  | .fclass w => w.wf
  | .frnd w => w.wf
  | .ffrc w => w.wf
  | .fldexp w => w.wf
  | .frcp w => w.wf
  | .frsq w => w.wf
  | .fsqrt w => w.wf
  | .fexp2 w => w.wf
  | .flog2 w => w.wf
  | .fsin w => w.wf
  | .fcos w => w.wf
  | .longAluComplete core slot _ => wfWave core slot
  | .hadd2 w => w.wf
  | .hmul2 w => w.wf
  | .hfma2 w => w.wf
  | .hmin2 w => w.wf
  | .hmax2 w => w.wf
  | .hdot2 w => w.wf
  | .qdot4 w => w.wf
  | .cvt w => w.wf
  | .shfl w => w.wf
  | .lpush w => w.wf
  | .ballot w => w.wf
  | .vote w => w.wf
  | .wred w => w.wf
  | .wscan w => w.wf
  | .bcast w => w.wf
  | .matchLanes w => w.wf
  | .bsel w => w.wf
  | .pair w => w.wf
  | .sadd w => w.wf
  | .ssub w => w.wf
  | .smul w => w.wf
  | .smulh w => w.wf
  | .smad w => w.wf
  | .smin w => w.wf
  | .smax w => w.wf
  | .sshl w => w.wf
  | .sshr w => w.wf
  | .ssar w => w.wf
  | .sblut w => w.wf
  | .smov w => w.wf
  | .smovi w => w.wf
  | .smovh w => w.wf
  | .saddi w => w.wf
  | .scmp w => w.wf
  | .slea w => w.wf
  | .readlane w => w.wf
  | .writelane w => w.wf
  | .rdsr w => w.wf
  | .wrsr w => w.wf
  | .rdcnt w => w.wf
  | .ld w => w.wf
  | .st w => w.wf
  | .lds w => w.wf
  | .sts w => w.wf
  | .sld w => w.wf
  | .ldc w => w.wf
  | .ldb w => w.wf
  | .stb w => w.wf
  | .atom w => w.wf
  | .atoms w => w.wf
  | .red w => w.wf
  | .ldrsv w => w.wf
  | .stcnd w => w.wf
  | .fence w => w.wf
  | .loadComplete core slot _ => wfWave core slot
  | .storeAck core slot _ => wfWave core slot
  | .arinit w => w.wf
  | .arrive w => w.wf
  | .arwait w => w.wf
  | .qgath w => w.wf
  | .qscat w => w.wf
  | .qflush w => w.wf
  | .qstat w => w.wf
  | .queueGatherFetch core queue => wfCore core && decide (queue < 4)
  | .alcmake w => w.wf
  | .alcatt w => w.wf
  | .alcattComplete core slot _ => wfWave core slot
  | .alcseal w => w.wf
  | .alcrel w => w.wf
  | .alcevict w => w.wf
  | .alcqry w => w.wf
  | .alcoveEvictDone entry => decide (entry < 4096)
  | .alcoveRefillDone entry => decide (entry < 4096)
  | .launch w => w.wf
  | .pref w => w.wf
  | .cwb w => w.wf
  | .cinv w => w.wf
  | .cpy w => w.wf
  | .cpyr w => w.wf
  | .cpyf w => w.wf
  | .cpyx w => w.wf
  | .signal w => w.wf
  | .copyOpStart hall queue => wfHall hall && decide (queue < 4)
  | .copyUnitLand hall queue => wfHall hall && decide (queue < 4)
  | .copyOpComplete hall queue => wfHall hall && decide (queue < 4)
  | .signalPerform hall queue => wfHall hall && decide (queue < 4)
  | .fmtd w => w.wf
  | .mma w => w.wf
  | .mmas w => w.wf
  | .mmad w => w.wf
  | .mzero w => w.wf
  | .mld w => w.wf
  | .mst w => w.wf
  | .mscl w => w.wf
  | .mdload w => w.wf
  | .mprune w => w.wf
  | .mdecomp w => w.wf
  | .matrixGrant hall => wfHall hall
  | .matrixEntryComplete hall _ => wfHall hall
  | .ncall w => w.wf
  | .binFlushAge hall bin => wfHall hall && decide (bin < 16)
  | .binFlushStall hall => wfHall hall
  | .regroupEntryPost hall => wfHall hall
  | .regroupPassComplete hall _ => wfHall hall
  | .wpin w => w.wf
  | .wpref w => w.wf
  | .wunpin w => w.wf
  | .wstat w => w.wf
  | .rtrace w => w.wf
  | .rtget w => w.wf
  | .rtaccept w => w.wf
  | .rayQueryStop core slot lane => wfWave core slot && decide (lane < 64)
  | .tex w => w.wf
  | .texld w => w.wf
  | .texq w => w.wf
  | .interp w => w.wf
  | .ddx w => w.wf
  | .ddy w => w.wf
  | .expc w => w.wf
  | .expz w => w.wf
  | .discard w => w.wf
  | .emitv w => w.wf
  | .emitp w => w.wf
  | .rasterTriangle gallery => decide (gallery < 8)
  | .fragmentProcess _ _ => true
  | .drawFlush _ => true
  | .unitImageSwitch kind unit => decide (kind < 5) && decide (unit < 128)
  | .bra w => w.wf
  | .brv w => w.wf
  | .jmp w => w.wf
  | .jmpi w => w.wf
  | .call w => w.wf
  | .calli w => w.wf
  | .ret w => w.wf
  | .exit w => w.wf
  | .yield w => w.wf
  | .nop w => w.wf
  | .waitk w => w.wf
  | .trap w => w.wf
  | .eret w => w.wf
  | .bkpt w => w.wf
  | .clauseHeader _ => true
  | .fairnessTimer core slot => wfWave core slot
  | .reservationDeferExpire core slot => wfWave core slot
  | .progressWatchdog core slot => wfWave core slot
  | .perfc w => w.wf
  | .perfcComplete core slot _ => wfWave core slot
  | .csload w => w.wf
  | .csloadComplete core slot _ => wfWave core slot
  | .tlbinv w => w.wf
  | .tlbinvComplete core slot _ => wfWave core slot
  | .halt w => w.wf
  | .ctxsave w => w.wf
  | .ctxrest w => w.wf
  | .pageWalkComplete _ => true
  | .gridDispatchBegin queue => decide (queue < 256)
  | .blockPlace queue => decide (queue < 256)
  | .blockRetire _ => true
  | .gridComplete _ => true
  | .streamWaitCheck queue => decide (queue < 256)
  | .dfeAccessRetry queue => decide (queue < 256)
  | .starvedGridReport _ => true
  | .launchEnqueue queue _ => decide (queue < 256)
  | .queueReset queue => decide (queue < 256)
  | .preemptRequest ctx _ => decide (ctx < 64)
  | .preemptHalt ctx => decide (ctx < 64)
  | .preemptSave ctx => decide (ctx < 64)
  | .contextResume ctx => decide (ctx < 64)
  | .blockRestore ctx _ => decide (ctx < 64)
  | .hallOwnerWrite hall _ => wfHall hall
  | .hallOwnerChange hall => wfHall hall
  | .fresume ctx _ => decide (ctx < 64)
  | .waveResume core slot => wfWave core slot
  | .coolantGrantWrite zone _ => decide (zone < 36)
  | .ibudWrite hall _ => wfHall hall
  | .windowAccess a => a.wf
  | .registerWrite _ _ => true
  | .controlIntervalBoundary _ _ => true
  | .voltageSlewEnd flight => decide (flight < 64)
  | .clockHop hall => wfHall hall
  | .clockHopEnd hall => wfHall hall
  | .landingSample flight _ => decide (flight < 64)
  | .droopDetect hall => wfHall hall
  | .droopClear hall _ => wfHall hall
  | .valveStep zone _ => decide (zone < 36)
  | .coolantEvent zone _ => decide (zone < 36)
  | .coolantEvacuation zone => decide (zone < 36)
  | .evacuationEnd zone _ => decide (zone < 36)
  | .overheatStop zone => decide (zone < 36)
  | .ageingReplan hall _ => wfHall hall
  | .matrixEngineHang hall => wfHall hall
  | .matrixEngineRestart hall => wfHall hall
  | .copyQueueReset hall queue => wfHall hall && decide (queue < 4)
  | .unitReload kind unit => decide (kind < 5) && decide (unit < 128)
  | .decoderWatchdog core slot _ => wfWave core slot
  | .remoteTimeout _ => true
  | .remoteRequest _ => true
  | .scrub _ => true
  | .flitCrcReplay port _ => decide (port < 16)
  | .portRetrain port lanes => decide (port < 16) && decide (lanes = 1 ∨ lanes = 2 ∨ lanes = 4)
  | .portRemove port => decide (port < 16)
  | .moduleBoot _ => true
  | .attestationRequest _ => true
  | .moduleNumberAssign number => decide (number < 64)
  | .captureRead _ _ => true
  | .checkpoint _ _ => true
  | .checkpointRestore => true
  | .weightFillComplete hall _ => wfHall hall
  | .queryComplete core slot _ => wfWave core slot
  | .contextRecordDone core slot _ => wfWave core slot
  | .portTrained port lanes => decide (port < 16) && decide (lanes = 1 ∨ lanes = 2 ∨ lanes = 4)
  | .unitReloadEnd kind unit => decide (kind < 5) && decide (unit < 128)

/-- The term stands for something the machine can meet. -/
abbrev Instr.WellFormed (i : Instr) : Prop := i.wf = true

end Sys2Proof
end

