-- ==== Sys2Proof/Decode.lean ====
section
/-! DEFINITION. Decoding of clause headers and instruction words, total on any bits, and the encoder written from the
same tables (Tables 3.3, 7.1 to 7.3, 7.5, 7.7 to 7.13). A word is read in the class that its clause's header names; an
opcode no table lists is rejected by name. -/

namespace Sys2Proof

/-- Why a word is no instruction. -/
inductive DecodeError where
  /-- An opcode not listed for the clause's class (Table 18.6, cause 0x12). -/
  | reservedOpcode (cls : BitVec 4) (opc : BitVec 8)
  /-- A reserved class (Table 18.6, cause 0x10). -/
  | reservedClass (cls : BitVec 4)
  deriving DecidableEq, Repr

/-- The operand of a code (Table 3.3). -/
def operandOf (code : BitVec 8) : Operand :=
  let n := code.toNat
  if n < 128 then .v n
  else if n < 192 then .s (n - 128)
  else if n < 200 then .b (n - 192)
  else if n < 217 then .pos (n - 200)
  else if n < 233 then .neg (n - 216)
  else if n < 240 then .fp (n - 233)
  else if n = 240 then .laneId
  else if n = 241 then .waveId
  else if n = 242 then .waveW
  else if n = 243 then .amask0
  else if n = 244 then .amask1
  else if n = 245 then .coreId
  else if n = 246 then .hallId
  else if n = 247 then .ctxId
  else if n < 252 then .reserved (n - 248)
  else .q (n - 252)

/-- The code of an operand (Table 3.3). -/
def operandCode : Operand → BitVec 8
  | .v n => BitVec.ofNat 8 n
  | .s n => BitVec.ofNat 8 (128 + n)
  | .b n => BitVec.ofNat 8 (192 + n)
  | .pos n => BitVec.ofNat 8 (200 + n)
  | .neg n => BitVec.ofNat 8 (216 + n)
  | .fp n => BitVec.ofNat 8 (233 + n)
  | .laneId => 240
  | .waveId => 241
  | .waveW => 242
  | .amask0 => 243
  | .amask1 => 244
  | .coreId => 245
  | .hallId => 246
  | .ctxId => 247
  | .reserved n => BitVec.ofNat 8 (248 + n)
  | .q n => BitVec.ofNat 8 (252 + n)

/-- The operand whose code stands in bits [lo + 7 : lo] of a word. -/
def operandAt (w : W64) (lo : Nat) : Operand := operandOf (w.extractLsb' lo 8)

/-- Bit `i` of a word as a truth value. -/
def bitAt (w : W64) (i : Nat) : Bool := w.getLsbD i

/-- A truth value as a bit. -/
def bit1 (b : Bool) : BitVec 1 := BitVec.ofBool b

/-- The common fields G and MOD (Table 7.2). -/
def headOf (w : W64) : WordHead :=
  { g := { neg := bitAt w 55, p := w.extractLsb' 52 3 }, md := w.extractLsb' 48 4 }

/-- OPC, G and MOD as bits [63:48] (Table 7.2). -/
def headBits (opc : BitVec 8) (h : WordHead) : BitVec 16 := opc ++ bit1 h.g.neg ++ h.g.p ++ h.md

/-- ORD, SCO, U and CH, bits [7:0] of formats M, MA and B (Table 7.3). -/
def memTailOf (w : W64) : MemTail :=
  { ord := w.extractLsb' 6 2, sco := w.extractLsb' 3 3, u := bitAt w 2, ch := w.extractLsb' 0 2 }

/-- Bits [7:0] of formats M, MA and B. -/
def memTailBits (t : MemTail) : BitVec 8 := t.ord ++ t.sco ++ bit1 t.u ++ t.ch

/-- Format A of a word (Table 7.3). -/
def WordA.ofBits (w : W64) : WordA :=
  { hd := headOf w, d := operandAt w 40, a := operandAt w 32, b := operandAt w 24, c := operandAt w 16,
    sub := w.extractLsb' 8 8, u := bitAt w 7, neg := w.extractLsb' 4 3, abs := w.extractLsb' 1 3, low := bitAt w 0 }

/-- The word of format A (Table 7.3). -/
def WordA.toBits (w : WordA) (opc : BitVec 8) : W64 :=
  headBits opc w.hd ++ operandCode w.d ++ operandCode w.a ++ operandCode w.b ++ operandCode w.c ++ w.sub ++ bit1 w.u
    ++ w.neg ++ w.abs ++ bit1 w.low

/-- Format I of a word (Table 7.3). -/
def WordI.ofBits (w : W64) : WordI :=
  { hd := headOf w, d := operandAt w 40, a := operandAt w 32, imm := w.extractLsb' 0 32 }

/-- The word of format I (Table 7.3). -/
def WordI.toBits (w : WordI) (opc : BitVec 8) : W64 :=
  headBits opc w.hd ++ operandCode w.d ++ operandCode w.a ++ w.imm

/-- Format P of a word (Table 7.3). -/
def WordP.ofBits (w : W64) : WordP :=
  { hd := headOf w, pd := w.extractLsb' 45 3, pe := w.extractLsb' 42 3, cmb := w.extractLsb' 40 2, a := operandAt w 32,
    b := operandAt w 24, pc := w.extractLsb' 21 3, pcn := bitAt w 20, res := w.extractLsb' 16 4, sub := w.extractLsb' 8 8,
    u := bitAt w 7, low := w.extractLsb' 0 7 }

/-- The word of format P (Table 7.3). -/
def WordP.toBits (w : WordP) (opc : BitVec 8) : W64 :=
  headBits opc w.hd ++ w.pd ++ w.pe ++ w.cmb ++ operandCode w.a ++ operandCode w.b ++ w.pc ++ bit1 w.pcn ++ w.res ++ w.sub
    ++ bit1 w.u ++ w.low

/-- Format M of a word (Table 7.3). -/
def WordM.ofBits (w : W64) : WordM :=
  { hd := headOf w, d := operandAt w 40, a := operandAt w 32, b := operandAt w 24, off := w.extractLsb' 12 12,
    sz := w.extractLsb' 9 3, sx := bitAt w 8, tl := memTailOf w }

/-- The word of format M (Table 7.3). -/
def WordM.toBits (w : WordM) (opc : BitVec 8) : W64 :=
  headBits opc w.hd ++ operandCode w.d ++ operandCode w.a ++ operandCode w.b ++ w.off ++ w.sz ++ bit1 w.sx
    ++ memTailBits w.tl

/-- Format MA of a word (Table 7.3). -/
def WordMA.ofBits (w : W64) : WordMA :=
  { hd := headOf w, d := operandAt w 40, a := operandAt w 32, b := operandAt w 24, c := operandAt w 16,
    aop := w.extractLsb' 12 4, sz := w.extractLsb' 9 3, sg := bitAt w 8, tl := memTailOf w }

/-- The word of format MA (Table 7.3). -/
def WordMA.toBits (w : WordMA) (opc : BitVec 8) : W64 :=
  headBits opc w.hd ++ operandCode w.d ++ operandCode w.a ++ operandCode w.b ++ operandCode w.c ++ w.aop ++ w.sz
    ++ bit1 w.sg ++ memTailBits w.tl

/-- Format B of a word (Table 7.3). -/
def WordB.ofBits (w : W64) : WordB :=
  { hd := headOf w, d := operandAt w 40, a := operandAt w 32, rc := w.extractLsb' 20 12, cm := w.extractLsb' 16 4,
    am := w.extractLsb' 14 2, sub := w.extractLsb' 8 6, tl := memTailOf w }

/-- The word of format B (Table 7.3). -/
def WordB.toBits (w : WordB) (opc : BitVec 8) : W64 :=
  headBits opc w.hd ++ operandCode w.d ++ operandCode w.a ++ w.rc ++ w.cm ++ w.am ++ w.sub ++ memTailBits w.tl

/-- Format E of a word (Table 7.3). -/
def WordE.ofBits (w : W64) : WordE :=
  { hd := headOf w, x := operandAt w 40, y := operandAt w 32, z := operandAt w 24, w := operandAt w 16,
    tok := w.extractLsb' 12 4, te := bitAt w 11, sub := w.extractLsb' 4 7, sco := w.extractLsb' 1 3, u := bitAt w 0 }

/-- The word of format E (Table 7.3). -/
def WordE.toBits (w : WordE) (opc : BitVec 8) : W64 :=
  headBits opc w.hd ++ operandCode w.x ++ operandCode w.y ++ operandCode w.z ++ operandCode w.w ++ w.tok ++ bit1 w.te
    ++ w.sub ++ w.sco ++ bit1 w.u

/-- Format X of a word (Table 7.3). -/
def WordX.ofBits (w : W64) : WordX :=
  { hd := headOf w, mt := w.extractLsb' 44 4, mt2 := w.extractLsb' 40 4, a := operandAt w 32, b := operandAt w 24,
    c := operandAt w 16, tok := w.extractLsb' 12 4, cm := w.extractLsb' 10 2, sub := w.extractLsb' 2 8,
    src := w.extractLsb' 0 2 }

/-- The word of format X (Table 7.3). -/
def WordX.toBits (w : WordX) (opc : BitVec 8) : W64 :=
  headBits opc w.hd ++ w.mt ++ w.mt2 ++ operandCode w.a ++ operandCode w.b ++ operandCode w.c ++ w.tok ++ w.cm ++ w.sub
    ++ w.src

/-- Format N of a word (Table 7.3). -/
def WordN.ofBits (w : W64) : WordN :=
  { hd := headOf w, h := operandAt w 40, inp := operandAt w 32, out := operandAt w 24, ni := w.extractLsb' 18 6,
    no := w.extractLsb' 12 6, tok := w.extractLsb' 8 4, low := w.extractLsb' 0 8 }

/-- The word of format N (Table 7.3). -/
def WordN.toBits (w : WordN) (opc : BitVec 8) : W64 :=
  headBits opc w.hd ++ operandCode w.h ++ operandCode w.inp ++ operandCode w.out ++ w.ni ++ w.no ++ w.tok ++ w.low

/-- Format K of a word (Table 7.3). -/
def WordK.ofBits (w : W64) : WordK :=
  { hd := headOf w, a := operandAt w 40, b := operandAt w 32, off := w.extractLsb' 0 32 }

/-- The word of format K (Table 7.3). -/
def WordK.toBits (w : WordK) (opc : BitVec 8) : W64 :=
  headBits opc w.hd ++ operandCode w.a ++ operandCode w.b ++ w.off

/-- The half-operation in bits [lo + 31 : lo] (R151). -/
def halfOf (w : W64) (lo : Nat) : HalfOp :=
  { hop := w.extractLsb' (lo + 26) 6, d := w.extractLsb' (lo + 19) 7, a := operandAt w (lo + 11),
    b := operandAt w (lo + 3), g := w.extractLsb' lo 3 }

/-- The 32 bits of a half-operation (R151). -/
def halfBits (h : HalfOp) : W32 := h.hop ++ h.d ++ operandCode h.a ++ operandCode h.b ++ h.g

/-- A PAIR word (R151). -/
def WordPair.ofBits (w : W64) : WordPair := { h1 := halfOf w 32, h2 := halfOf w 0 }

/-- The word of a PAIR (R151). -/
def WordPair.toBits (w : WordPair) : W64 := halfBits w.h1 ++ halfBits w.h2

/-- The clause header in 64 bits (Table 7.1). -/
def Header.ofBits (w : W64) : Header :=
  { cls := w.extractLsb' 60 4, count := w.extractLsb' 56 4, waitk := w.extractLsb' 40 16, waitld := w.extractLsb' 36 4,
    waitst := w.extractLsb' 32 4, waitar := bitAt w 31, yld := bitAt w 30, uni := bitAt w 29, res := w.extractLsb' 0 29 }

/-- The 64 bits of a clause header (Table 7.1). -/
def Header.toBits (h : Header) : W64 :=
  h.cls ++ h.count ++ h.waitk ++ h.waitld ++ h.waitst ++ bit1 h.waitar ++ bit1 h.yld ++ bit1 h.uni ++ h.res

/-- The words of class 0 by opcode (Table 7.7). -/
def decodeAlu (opc : Nat) (w : W64) : Option Instr :=
  match opc with
  | 0x01 => some (.iadd (WordA.ofBits w))
  | 0x02 => some (.isub (WordA.ofBits w))
  | 0x03 => some (.imul (WordA.ofBits w))
  | 0x04 => some (.imulh (WordA.ofBits w))
  | 0x05 => some (.imad (WordA.ofBits w))
  | 0x06 => some (.idp4 (WordA.ofBits w))
  | 0x07 => some (.imin (WordA.ofBits w))
  | 0x08 => some (.imax (WordA.ofBits w))
  | 0x10 => some (.shl (WordA.ofBits w))
  | 0x11 => some (.shr (WordA.ofBits w))
  | 0x12 => some (.sar (WordA.ofBits w))
  | 0x13 => some (.fshf (WordA.ofBits w))
  | 0x14 => some (.bfe (WordA.ofBits w))
  | 0x15 => some (.bfi (WordA.ofBits w))
  | 0x16 => some (.popc (WordA.ofBits w))
  | 0x17 => some (.clz (WordA.ofBits w))
  | 0x18 => some (.ctz (WordA.ofBits w))
  | 0x19 => some (.brev (WordA.ofBits w))
  | 0x1A => some (.blut (WordA.ofBits w))
  | 0x20 => some (.icmp (WordP.ofBits w))
  | 0x21 => some (.fcmp (WordP.ofBits w))
  | 0x22 => some (.sel (WordA.ofBits w))
  | 0x23 => some (.mov (WordA.ofBits w))
  | 0x24 => some (.movi (WordI.ofBits w))
  | 0x25 => some (.plut (WordP.ofBits w))
  | 0x28 => some (.iaddi (WordI.ofBits w))
  | 0x29 => some (.imuli (WordI.ofBits w))
  | 0x2A => some (.andi (WordI.ofBits w))
  | 0x2B => some (.ori (WordI.ofBits w))
  | 0x2C => some (.xori (WordI.ofBits w))
  | 0x2D => some (.faddi (WordI.ofBits w))
  | 0x2E => some (.fmuli (WordI.ofBits w))
  | 0x30 => some (.fadd (WordA.ofBits w))
  | 0x31 => some (.fmul (WordA.ofBits w))
  | 0x32 => some (.ffma (WordA.ofBits w))
  | 0x33 => some (.fmin (WordA.ofBits w))
  | 0x34 => some (.fmax (WordA.ofBits w))
  | 0x35 => some (.fclass (WordA.ofBits w))
  | 0x36 => some (.frnd (WordA.ofBits w))
  | 0x37 => some (.ffrc (WordA.ofBits w))
  | 0x38 => some (.fldexp (WordA.ofBits w))
  | 0x40 => some (.frcp (WordA.ofBits w))
  | 0x41 => some (.frsq (WordA.ofBits w))
  | 0x42 => some (.fsqrt (WordA.ofBits w))
  | 0x43 => some (.fexp2 (WordA.ofBits w))
  | 0x44 => some (.flog2 (WordA.ofBits w))
  | 0x45 => some (.fsin (WordA.ofBits w))
  | 0x46 => some (.fcos (WordA.ofBits w))
  | 0x50 => some (.hadd2 (WordA.ofBits w))
  | 0x51 => some (.hmul2 (WordA.ofBits w))
  | 0x52 => some (.hfma2 (WordA.ofBits w))
  | 0x53 => some (.hmin2 (WordA.ofBits w))
  | 0x54 => some (.hmax2 (WordA.ofBits w))
  | 0x55 => some (.hdot2 (WordA.ofBits w))
  | 0x56 => some (.qdot4 (WordA.ofBits w))
  | 0x60 => some (.cvt (WordA.ofBits w))
  | 0x70 => some (.shfl (WordA.ofBits w))
  | 0x71 => some (.lpush (WordA.ofBits w))
  | 0x72 => some (.ballot (WordA.ofBits w))
  | 0x73 => some (.vote (WordP.ofBits w))
  | 0x74 => some (.wred (WordA.ofBits w))
  | 0x75 => some (.wscan (WordA.ofBits w))
  | 0x76 => some (.bcast (WordA.ofBits w))
  | 0x77 => some (.matchLanes (WordA.ofBits w))
  | 0x78 => some (.bsel (WordA.ofBits w))
  | _ => none

/-- The words of class 2 by opcode (Table 7.8). -/
def decodeScalar (opc : Nat) (w : W64) : Option Instr :=
  match opc with
  | 0x01 => some (.sadd (WordA.ofBits w))
  | 0x02 => some (.ssub (WordA.ofBits w))
  | 0x03 => some (.smul (WordA.ofBits w))
  | 0x04 => some (.smulh (WordA.ofBits w))
  | 0x05 => some (.smad (WordA.ofBits w))
  | 0x06 => some (.smin (WordA.ofBits w))
  | 0x07 => some (.smax (WordA.ofBits w))
  | 0x08 => some (.sshl (WordA.ofBits w))
  | 0x09 => some (.sshr (WordA.ofBits w))
  | 0x0A => some (.ssar (WordA.ofBits w))
  | 0x0B => some (.sblut (WordA.ofBits w))
  | 0x0C => some (.smov (WordA.ofBits w))
  | 0x0D => some (.smovi (WordI.ofBits w))
  | 0x0E => some (.smovh (WordI.ofBits w))
  | 0x0F => some (.saddi (WordI.ofBits w))
  | 0x10 => some (.scmp (WordP.ofBits w))
  | 0x11 => some (.slea (WordA.ofBits w))
  | 0x20 => some (.readlane (WordA.ofBits w))
  | 0x21 => some (.writelane (WordA.ofBits w))
  | 0x30 => some (.rdsr (WordI.ofBits w))
  | 0x31 => some (.wrsr (WordI.ofBits w))
  | 0x32 => some (.rdcnt (WordI.ofBits w))
  | _ => none

/-- The words of class 3 by opcode (Table 7.9). -/
def decodeMem (opc : Nat) (w : W64) : Option Instr :=
  match opc with
  | 0x01 => some (.ld (WordM.ofBits w))
  | 0x02 => some (.st (WordM.ofBits w))
  | 0x03 => some (.lds (WordM.ofBits w))
  | 0x04 => some (.sts (WordM.ofBits w))
  | 0x05 => some (.sld (WordM.ofBits w))
  | 0x06 => some (.ldc (WordM.ofBits w))
  | 0x07 => some (.ldb (WordB.ofBits w))
  | 0x08 => some (.stb (WordB.ofBits w))
  | 0x10 => some (.atom (WordMA.ofBits w))
  | 0x11 => some (.atoms (WordMA.ofBits w))
  | 0x12 => some (.red (WordMA.ofBits w))
  | 0x13 => some (.ldrsv (WordM.ofBits w))
  | 0x14 => some (.stcnd (WordMA.ofBits w))
  | 0x18 => some (.fence (WordM.ofBits w))
  | 0x20 => some (.arinit (WordE.ofBits w))
  | 0x21 => some (.arrive (WordE.ofBits w))
  | 0x22 => some (.arwait (WordE.ofBits w))
  | 0x28 => some (.qgath (WordE.ofBits w))
  | 0x29 => some (.qscat (WordE.ofBits w))
  | 0x2A => some (.qflush (WordE.ofBits w))
  | 0x2B => some (.qstat (WordE.ofBits w))
  | 0x30 => some (.alcmake (WordE.ofBits w))
  | 0x31 => some (.alcatt (WordE.ofBits w))
  | 0x32 => some (.alcseal (WordE.ofBits w))
  | 0x33 => some (.alcrel (WordE.ofBits w))
  | 0x34 => some (.alcevict (WordE.ofBits w))
  | 0x35 => some (.alcqry (WordE.ofBits w))
  | 0x38 => some (.launch (WordE.ofBits w))
  | 0x39 => some (.pref (WordM.ofBits w))
  | 0x3A => some (.cwb (WordM.ofBits w))
  | 0x3B => some (.cinv (WordM.ofBits w))
  | _ => none

/-- The words of class 4 by opcode (Table 7.10). -/
def decodeMatrix (opc : Nat) (w : W64) : Option Instr :=
  match opc with
  | 0x01 => some (.fmtd (WordA.ofBits w))
  | 0x02 => some (.mma (WordX.ofBits w))
  | 0x03 => some (.mmas (WordX.ofBits w))
  | 0x04 => some (.mmad (WordX.ofBits w))
  | 0x08 => some (.mzero (WordX.ofBits w))
  | 0x09 => some (.mld (WordX.ofBits w))
  | 0x0A => some (.mst (WordX.ofBits w))
  | 0x0B => some (.mscl (WordX.ofBits w))
  | 0x10 => some (.mdload (WordX.ofBits w))
  | 0x11 => some (.mprune (WordX.ofBits w))
  | 0x12 => some (.mdecomp (WordX.ofBits w))
  | 0x18 => some (.ncall (WordN.ofBits w))
  | 0x20 => some (.wpin (WordE.ofBits w))
  | 0x21 => some (.wpref (WordE.ofBits w))
  | 0x22 => some (.wunpin (WordE.ofBits w))
  | 0x23 => some (.wstat (WordE.ofBits w))
  | 0x30 => some (.cpy (WordE.ofBits w))
  | 0x31 => some (.cpyr (WordE.ofBits w))
  | 0x32 => some (.cpyf (WordE.ofBits w))
  | 0x33 => some (.cpyx (WordE.ofBits w))
  | 0x34 => some (.signal (WordE.ofBits w))
  | _ => none

/-- The words of class 5 by opcode (Table 7.11). -/
def decodeGraphics (opc : Nat) (w : W64) : Option Instr :=
  match opc with
  | 0x01 => some (.rtrace (WordE.ofBits w))
  | 0x02 => some (.rtget (WordA.ofBits w))
  | 0x03 => some (.rtaccept (WordA.ofBits w))
  | 0x10 => some (.tex (WordB.ofBits w))
  | 0x11 => some (.texld (WordB.ofBits w))
  | 0x12 => some (.texq (WordB.ofBits w))
  | 0x18 => some (.interp (WordA.ofBits w))
  | 0x19 => some (.ddx (WordA.ofBits w))
  | 0x1A => some (.ddy (WordA.ofBits w))
  | 0x20 => some (.expc (WordA.ofBits w))
  | 0x21 => some (.expz (WordA.ofBits w))
  | 0x22 => some (.discard (WordA.ofBits w))
  | 0x28 => some (.emitv (WordA.ofBits w))
  | 0x29 => some (.emitp (WordA.ofBits w))
  | _ => none

/-- The words of class 6 by opcode (Table 7.12). -/
def decodeControl (opc : Nat) (w : W64) : Option Instr :=
  match opc with
  | 0x01 => some (.bra (WordK.ofBits w))
  | 0x02 => some (.brv (WordK.ofBits w))
  | 0x03 => some (.jmp (WordK.ofBits w))
  | 0x04 => some (.jmpi (WordK.ofBits w))
  | 0x05 => some (.call (WordK.ofBits w))
  | 0x06 => some (.calli (WordK.ofBits w))
  | 0x07 => some (.ret (WordK.ofBits w))
  | 0x08 => some (.exit (WordK.ofBits w))
  | 0x09 => some (.yield (WordK.ofBits w))
  | 0x0A => some (.nop (WordK.ofBits w))
  | 0x0B => some (.waitk (WordK.ofBits w))
  | 0x0C => some (.trap (WordK.ofBits w))
  | 0x0D => some (.eret (WordK.ofBits w))
  | 0x0E => some (.bkpt (WordK.ofBits w))
  | _ => none

/-- The words of class 7 by opcode (Table 7.13). -/
def decodeSystem (opc : Nat) (w : W64) : Option Instr :=
  match opc with
  | 0x01 => some (.perfc (WordA.ofBits w))
  | 0x10 => some (.csload (WordE.ofBits w))
  | 0x11 => some (.tlbinv (WordE.ofBits w))
  | 0x12 => some (.halt (WordK.ofBits w))
  | 0x13 => some (.ctxsave (WordE.ofBits w))
  | 0x14 => some (.ctxrest (WordE.ofBits w))
  | _ => none
/-- The instruction of a word in a clause of class `cls`. -/
def decodeWord (cls : BitVec 4) (w : W64) : Except DecodeError Instr :=
  let opc := w.extractLsb' 56 8
  let listed (o : Option Instr) : Except DecodeError Instr :=
    match o with
    | some i => .ok i
    | none => .error (.reservedOpcode cls opc)
  match cls.toNat with
  | 0 => listed (decodeAlu opc.toNat w)
  | 1 => .ok (.pair (WordPair.ofBits w))
  | 2 => listed (decodeScalar opc.toNat w)
  | 3 => listed (decodeMem opc.toNat w)
  | 4 => listed (decodeMatrix opc.toNat w)
  | 5 => listed (decodeGraphics opc.toNat w)
  | 6 => listed (decodeControl opc.toNat w)
  | 7 => listed (decodeSystem opc.toNat w)
  | _ => .error (.reservedClass cls)

/-- The class and the word of an instruction; `none` for the steps that are no words. -/
def encode : Instr → Option (BitVec 4 × W64)
  | .iadd w => some (0, w.toBits 0x01)
  | .isub w => some (0, w.toBits 0x02)
  | .imul w => some (0, w.toBits 0x03)
  | .imulh w => some (0, w.toBits 0x04)
  | .imad w => some (0, w.toBits 0x05)
  | .idp4 w => some (0, w.toBits 0x06)
  | .imin w => some (0, w.toBits 0x07)
  | .imax w => some (0, w.toBits 0x08)
  | .shl w => some (0, w.toBits 0x10)
  | .shr w => some (0, w.toBits 0x11)
  | .sar w => some (0, w.toBits 0x12)
  | .fshf w => some (0, w.toBits 0x13)
  | .bfe w => some (0, w.toBits 0x14)
  | .bfi w => some (0, w.toBits 0x15)
  | .popc w => some (0, w.toBits 0x16)
  | .clz w => some (0, w.toBits 0x17)
  | .ctz w => some (0, w.toBits 0x18)
  | .brev w => some (0, w.toBits 0x19)
  | .blut w => some (0, w.toBits 0x1A)
  | .icmp w => some (0, w.toBits 0x20)
  | .fcmp w => some (0, w.toBits 0x21)
  | .sel w => some (0, w.toBits 0x22)
  | .mov w => some (0, w.toBits 0x23)
  | .movi w => some (0, w.toBits 0x24)
  | .plut w => some (0, w.toBits 0x25)
  | .iaddi w => some (0, w.toBits 0x28)
  | .imuli w => some (0, w.toBits 0x29)
  | .andi w => some (0, w.toBits 0x2A)
  | .ori w => some (0, w.toBits 0x2B)
  | .xori w => some (0, w.toBits 0x2C)
  | .faddi w => some (0, w.toBits 0x2D)
  | .fmuli w => some (0, w.toBits 0x2E)
  | .fadd w => some (0, w.toBits 0x30)
  | .fmul w => some (0, w.toBits 0x31)
  | .ffma w => some (0, w.toBits 0x32)
  | .fmin w => some (0, w.toBits 0x33)
  | .fmax w => some (0, w.toBits 0x34)
  | .fclass w => some (0, w.toBits 0x35)
  | .frnd w => some (0, w.toBits 0x36)
  | .ffrc w => some (0, w.toBits 0x37)
  | .fldexp w => some (0, w.toBits 0x38)
  | .frcp w => some (0, w.toBits 0x40)
  | .frsq w => some (0, w.toBits 0x41)
  | .fsqrt w => some (0, w.toBits 0x42)
  | .fexp2 w => some (0, w.toBits 0x43)
  | .flog2 w => some (0, w.toBits 0x44)
  | .fsin w => some (0, w.toBits 0x45)
  | .fcos w => some (0, w.toBits 0x46)
  | .hadd2 w => some (0, w.toBits 0x50)
  | .hmul2 w => some (0, w.toBits 0x51)
  | .hfma2 w => some (0, w.toBits 0x52)
  | .hmin2 w => some (0, w.toBits 0x53)
  | .hmax2 w => some (0, w.toBits 0x54)
  | .hdot2 w => some (0, w.toBits 0x55)
  | .qdot4 w => some (0, w.toBits 0x56)
  | .cvt w => some (0, w.toBits 0x60)
  | .shfl w => some (0, w.toBits 0x70)
  | .lpush w => some (0, w.toBits 0x71)
  | .ballot w => some (0, w.toBits 0x72)
  | .vote w => some (0, w.toBits 0x73)
  | .wred w => some (0, w.toBits 0x74)
  | .wscan w => some (0, w.toBits 0x75)
  | .bcast w => some (0, w.toBits 0x76)
  | .matchLanes w => some (0, w.toBits 0x77)
  | .bsel w => some (0, w.toBits 0x78)
  | .sadd w => some (2, w.toBits 0x01)
  | .ssub w => some (2, w.toBits 0x02)
  | .smul w => some (2, w.toBits 0x03)
  | .smulh w => some (2, w.toBits 0x04)
  | .smad w => some (2, w.toBits 0x05)
  | .smin w => some (2, w.toBits 0x06)
  | .smax w => some (2, w.toBits 0x07)
  | .sshl w => some (2, w.toBits 0x08)
  | .sshr w => some (2, w.toBits 0x09)
  | .ssar w => some (2, w.toBits 0x0A)
  | .sblut w => some (2, w.toBits 0x0B)
  | .smov w => some (2, w.toBits 0x0C)
  | .smovi w => some (2, w.toBits 0x0D)
  | .smovh w => some (2, w.toBits 0x0E)
  | .saddi w => some (2, w.toBits 0x0F)
  | .scmp w => some (2, w.toBits 0x10)
  | .slea w => some (2, w.toBits 0x11)
  | .readlane w => some (2, w.toBits 0x20)
  | .writelane w => some (2, w.toBits 0x21)
  | .rdsr w => some (2, w.toBits 0x30)
  | .wrsr w => some (2, w.toBits 0x31)
  | .rdcnt w => some (2, w.toBits 0x32)
  | .ld w => some (3, w.toBits 0x01)
  | .st w => some (3, w.toBits 0x02)
  | .lds w => some (3, w.toBits 0x03)
  | .sts w => some (3, w.toBits 0x04)
  | .sld w => some (3, w.toBits 0x05)
  | .ldc w => some (3, w.toBits 0x06)
  | .ldb w => some (3, w.toBits 0x07)
  | .stb w => some (3, w.toBits 0x08)
  | .atom w => some (3, w.toBits 0x10)
  | .atoms w => some (3, w.toBits 0x11)
  | .red w => some (3, w.toBits 0x12)
  | .ldrsv w => some (3, w.toBits 0x13)
  | .stcnd w => some (3, w.toBits 0x14)
  | .fence w => some (3, w.toBits 0x18)
  | .arinit w => some (3, w.toBits 0x20)
  | .arrive w => some (3, w.toBits 0x21)
  | .arwait w => some (3, w.toBits 0x22)
  | .qgath w => some (3, w.toBits 0x28)
  | .qscat w => some (3, w.toBits 0x29)
  | .qflush w => some (3, w.toBits 0x2A)
  | .qstat w => some (3, w.toBits 0x2B)
  | .alcmake w => some (3, w.toBits 0x30)
  | .alcatt w => some (3, w.toBits 0x31)
  | .alcseal w => some (3, w.toBits 0x32)
  | .alcrel w => some (3, w.toBits 0x33)
  | .alcevict w => some (3, w.toBits 0x34)
  | .alcqry w => some (3, w.toBits 0x35)
  | .launch w => some (3, w.toBits 0x38)
  | .pref w => some (3, w.toBits 0x39)
  | .cwb w => some (3, w.toBits 0x3A)
  | .cinv w => some (3, w.toBits 0x3B)
  | .fmtd w => some (4, w.toBits 0x01)
  | .mma w => some (4, w.toBits 0x02)
  | .mmas w => some (4, w.toBits 0x03)
  | .mmad w => some (4, w.toBits 0x04)
  | .mzero w => some (4, w.toBits 0x08)
  | .mld w => some (4, w.toBits 0x09)
  | .mst w => some (4, w.toBits 0x0A)
  | .mscl w => some (4, w.toBits 0x0B)
  | .mdload w => some (4, w.toBits 0x10)
  | .mprune w => some (4, w.toBits 0x11)
  | .mdecomp w => some (4, w.toBits 0x12)
  | .ncall w => some (4, w.toBits 0x18)
  | .wpin w => some (4, w.toBits 0x20)
  | .wpref w => some (4, w.toBits 0x21)
  | .wunpin w => some (4, w.toBits 0x22)
  | .wstat w => some (4, w.toBits 0x23)
  | .cpy w => some (4, w.toBits 0x30)
  | .cpyr w => some (4, w.toBits 0x31)
  | .cpyf w => some (4, w.toBits 0x32)
  | .cpyx w => some (4, w.toBits 0x33)
  | .signal w => some (4, w.toBits 0x34)
  | .rtrace w => some (5, w.toBits 0x01)
  | .rtget w => some (5, w.toBits 0x02)
  | .rtaccept w => some (5, w.toBits 0x03)
  | .tex w => some (5, w.toBits 0x10)
  | .texld w => some (5, w.toBits 0x11)
  | .texq w => some (5, w.toBits 0x12)
  | .interp w => some (5, w.toBits 0x18)
  | .ddx w => some (5, w.toBits 0x19)
  | .ddy w => some (5, w.toBits 0x1A)
  | .expc w => some (5, w.toBits 0x20)
  | .expz w => some (5, w.toBits 0x21)
  | .discard w => some (5, w.toBits 0x22)
  | .emitv w => some (5, w.toBits 0x28)
  | .emitp w => some (5, w.toBits 0x29)
  | .bra w => some (6, w.toBits 0x01)
  | .brv w => some (6, w.toBits 0x02)
  | .jmp w => some (6, w.toBits 0x03)
  | .jmpi w => some (6, w.toBits 0x04)
  | .call w => some (6, w.toBits 0x05)
  | .calli w => some (6, w.toBits 0x06)
  | .ret w => some (6, w.toBits 0x07)
  | .exit w => some (6, w.toBits 0x08)
  | .yield w => some (6, w.toBits 0x09)
  | .nop w => some (6, w.toBits 0x0A)
  | .waitk w => some (6, w.toBits 0x0B)
  | .trap w => some (6, w.toBits 0x0C)
  | .eret w => some (6, w.toBits 0x0D)
  | .bkpt w => some (6, w.toBits 0x0E)
  | .perfc w => some (7, w.toBits 0x01)
  | .csload w => some (7, w.toBits 0x10)
  | .tlbinv w => some (7, w.toBits 0x11)
  | .halt w => some (7, w.toBits 0x12)
  | .ctxsave w => some (7, w.toBits 0x13)
  | .ctxrest w => some (7, w.toBits 0x14)
  | .pair w => some (1, w.toBits)
  | .clauseHeader _ => none
  | .longAluComplete _ _ _ => none
  | .loadComplete _ _ _ => none
  | .storeAck _ _ _ => none
  | .queueGatherFetch _ _ => none
  | .alcattComplete _ _ _ => none
  | .alcoveEvictDone _ => none
  | .alcoveRefillDone _ => none
  | .copyOpStart _ _ => none
  | .copyUnitLand _ _ => none
  | .copyOpComplete _ _ => none
  | .signalPerform _ _ => none
  | .matrixGrant _ => none
  | .matrixEntryComplete _ _ => none
  | .binFlushAge _ _ => none
  | .binFlushStall _ => none
  | .regroupEntryPost _ => none
  | .regroupPassComplete _ _ => none
  | .rayQueryStop _ _ _ => none
  | .rasterTriangle _ => none
  | .fragmentProcess _ _ => none
  | .drawFlush _ => none
  | .unitImageSwitch _ _ => none
  | .fairnessTimer _ _ => none
  | .reservationDeferExpire _ _ => none
  | .progressWatchdog _ _ => none
  | .perfcComplete _ _ _ => none
  | .csloadComplete _ _ _ => none
  | .tlbinvComplete _ _ _ => none
  | .pageWalkComplete _ => none
  | .gridDispatchBegin _ => none
  | .blockPlace _ => none
  | .blockRetire _ => none
  | .gridComplete _ => none
  | .streamWaitCheck _ => none
  | .dfeAccessRetry _ => none
  | .starvedGridReport _ => none
  | .launchEnqueue _ _ => none
  | .queueReset _ => none
  | .preemptRequest _ _ => none
  | .preemptHalt _ => none
  | .preemptSave _ => none
  | .contextResume _ => none
  | .blockRestore _ _ => none
  | .hallOwnerWrite _ _ => none
  | .hallOwnerChange _ => none
  | .fresume _ _ => none
  | .waveResume _ _ => none
  | .coolantGrantWrite _ _ => none
  | .ibudWrite _ _ => none
  | .windowAccess _ => none
  | .registerWrite _ _ => none
  | .controlIntervalBoundary _ _ => none
  | .voltageSlewEnd _ => none
  | .clockHop _ => none
  | .clockHopEnd _ => none
  | .landingSample _ _ => none
  | .droopDetect _ => none
  | .droopClear _ _ => none
  | .valveStep _ _ => none
  | .coolantEvent _ _ => none
  | .coolantEvacuation _ => none
  | .evacuationEnd _ _ => none
  | .overheatStop _ => none
  | .ageingReplan _ _ => none
  | .matrixEngineHang _ => none
  | .matrixEngineRestart _ => none
  | .copyQueueReset _ _ => none
  | .unitReload _ _ => none
  | .decoderWatchdog _ _ _ => none
  | .remoteTimeout _ => none
  | .remoteRequest _ => none
  | .scrub _ => none
  | .flitCrcReplay _ _ => none
  | .portRetrain _ _ => none
  | .portRemove _ => none
  | .moduleBoot _ => none
  | .attestationRequest _ => none
  | .moduleNumberAssign _ => none
  | .captureRead _ _ => none
  | .checkpoint _ _ => none
  | .checkpointRestore => none
  | .weightFillComplete _ _ => none
  | .queryComplete _ _ _ => none
  | .contextRecordDone _ _ _ => none
  | .portTrained _ _ => none
  | .unitReloadEnd _ _ => none

/-- The instruction of `nbits` bits, bit 0 the least significant bit of its first word. An instruction is its clause
header, then, where `nbits` is above 64, its word (R141); the header alone is the CLAUSE_HEADER step. -/
def decodeTableWord (nbits w : Nat) : Option Instr :=
  let hdr := Header.ofBits (BitVec.ofNat 64 w)
  if nbits ≤ 64 then some (.clauseHeader hdr)
  else
    match decodeWord hdr.cls (BitVec.ofNat 64 (w / 2 ^ 64)) with
    | .ok i => some i
    | .error _ => none

end Sys2Proof
end

