-- ==== Sys2Proof/Machine/Access.lean ====
section
/-! DEFINITION. Lane accesses to global memory and scratchpad that loads, stores, atomics, records and queues share: checks
of every lane before any access (R398), then accesses in ascending lane order (R220), and the queue streams (R97, R239,
R240). -/

namespace Sys2Proof.Machine

/-- The checks of a word's lanes: pieces of each lane, a wait for page walks, or a trap. -/
inductive Checked where
  | ok (lanes : List (Nat × List Piece))
  | wait (d : Device)
  | trap (t : Trap)

/-- The pieces of lanes that stand. -/
def okLanes : List (Nat × Lane) → List (Nat × List Piece)
  | [] => []
  | (l, .ok ps) :: t => (l, ps) :: okLanes t
  | _ :: t => okLanes t

/-- The pages that lanes must walk first. -/
def missLanes : List (Nat × Lane) → List Nat
  | [] => []
  | (_, .miss vas) :: t => vas ++ missLanes t
  | _ :: t => missLanes t

/-- The causes that lanes meet. -/
def badLanes : List (Nat × Lane) → List (Nat × MFault)
  | [] => []
  | (l, .bad f) :: t => (l, f) :: badLanes t
  | _ :: t => badLanes t

/-- The checks of lane accesses to global memory (R398): lane, address and length of each. `all` is MASK for an access
made once for every active lane. -/
def checkLanes (v : View) (n : Need) (r : Reader) (all : Option Mask) (as : List (Nat × Nat × Nat)) : Checked :=
  let ls := as.map fun a =>
    (a.1, laneAccess v.d v.core v.w.ctx v.w.walkFaults n v.priv r (vaNat a.2.1) a.2.2)
  match missLanes ls with
  | [] =>
    match trapOfFaults all (badLanes ls) with
    | some t => .trap t
    | none => .ok (okLanes ls)
  | vas => .wait (vas.foldl (fun d va => requestWalk d v.core v.slot v.w.ctx va n.w n.x) v.d)

/-- The bytes of pieces that a load of a core finds (R72, R96, R222, R226). -/
def loadBytes (d : Device) (core ctx : Nat) (r : Reader) (ch : BitVec 2) (const : Bool) (ps : List Piece) : List Byte :=
  ps.flatMap fun p =>
    if p.te.kind = 0 ∧ usesL1 d p.te.mt p.pa (decide (ch ≠ 2)) then corePeek d core const p.pa p.len else pieceRead d ctx r p

/-- What a load moves for one line or block (R72, R96, R98, R222). -/
def unitTouch (core ctx : Nat) (ch : BitVec 2) (const : Bool) (d : Device) (p : Piece) : Device :=
  if p.te.kind = 0 then lineTouch core ctx p.te.mt (decide (ch ≠ 2)) (decide (ch = 1)) const d p.pa
  else blockTouch ctx p d p.va

/-- What a load's pieces move: each line, and on compressed pages each block, once for the instruction (R96). -/
def loadTouch (core ctx : Nat) (ch : BitVec 2) (const : Bool) (ps : List Piece) (d : Device) : Device :=
  (pieceUnits ps).foldl (unitTouch core ctx ch const) d

/-- Pieces as a core sees them without filling its L1 (R123): its own copies where it holds them, else L2. -/
def peekPieces (d : Device) (core ctx : Nat) (r : Reader) (ps : List Piece) : List Byte := loadBytes d core ctx r 0 false ps

/-- Loads of a word's lanes: each lane's bytes, and the die once the coalescer has fetched what they name (R96, R220). -/
def loadLanes (v : View) (r : Reader) (ch : BitVec 2) (const : Bool) (ls : List (Nat × List Piece)) (d : Device) :
    List (Nat × List Byte) × Device :=
  (ls.map fun e => (e.1, loadBytes d v.core v.w.ctx r ch const e.2),
    loadTouch v.core v.w.ctx ch const (ls.flatMap (·.2)) d)

/-- Stores of lanes in ascending order. -/
def storeLanes (v : View) (r : Reader) (ch : BitVec 2) (data : Nat → List Byte) :
    List (Nat × List Piece) → Device → Device
  | [], d => d
  | (l, ps) :: t, d => storeLanes v r ch data t (storePieces v r ch ps (data l) d)

/-- The requests that accesses of lanes send to other modules (R140, R352). -/
def lanesPorts (d : Device) (ls : List (Nat × List Piece)) : List RemotePart :=
  ls.flatMap fun e => e.2.flatMap fun p => routeParts d e.1 p.va p.pa p.len

/-- The checks of lane accesses to scratchpad (R398): lane, core, offset and length of each. -/
def checkSpad (v : View) (remote store rd : Bool) (all : Option Mask) (as : List (Nat × Nat × Nat × Nat)) : Option Trap :=
  trapOfFaults all (as.filterMap fun a =>
    (spadCheck v.d v.blk remote a.2.1 a.2.2.1 a.2.2.2 store rd).map fun f => (a.1, f))

/-- The helper lanes of the view's wave (R301). -/
def View.helpers (v : View) : Mask := v.w.gfx.helper

/-- The addresses of an entry of a queue stream (R239, R240): lane and address of each lane of a mask. -/
def streamAddrs (base stride : W64) (offs : List W32) (mask : Mask) (width n : Nat) : List (Nat × Nat) :=
  (lanesOf width mask).map fun l => (l, base.toNat + (offs.getD l 0).toNat + n * stride.toNat)

/-- What a push of one entry to a queue's store stream comes to. -/
inductive Push where
  | done (d : Device)
  | wait (d : Device)
  | trap (t : Trap)

/-- A push of one entry to the store stream of queue `j` (R67, R97, R240): the entry's stores are made at once, in entry
order; past the entry count it is discarded, which QSTAT reports; with no store stream bound nothing is stored
(log 12). The 64th store-type instruction waits (R143). `d` is the device that the word has reached. -/
def pushEntry (v : View) (d : Device) (j : Nat) (vals : Nat → W32) : Push :=
  let q := apqOf d v.core j
  if q.slot ≠ some v.slot ∨ q.sbnd = false then .done d
  else if q.scount ≤ q.snext then .done (modApq d v.core j fun q => { q with sovf := true })
  else if 63 ≤ storesOut v.w ∨ v.w.ops.any (fun o => decide (o.kind = .alcatt) && decide (o.args ≠ [])) then .wait v.d
  else
    let as := (streamAddrs q.sqbase q.sqstride q.soffs q.smask v.width q.snext).filter fun a =>
      !v.helpers.getLsbD a.1
    let next (ports : List RemotePart) (d : Device) : Device :=
      v.put (modApq d v.core j fun q => { q with snext := q.snext + 1 }) (pushOpTo ports .store none [] none 0 [])
    let data (l : Nat) : List Byte := leBytes 4 (vals l).toNat
    if q.ssp then
      let cs := as.map fun a => (a.1, v.core, a.2 % 0x40000, 4)
      match checkSpad v false true false none cs with
      | some t => .trap t
      | none => .done (next [] (cs.foldl (fun d c => spadWrite d v.core c.2.2.1 (data c.1)) d))
    else
      match checkLanes v { rd := false, w := true, x := false } .plain none (as.map fun a => (a.1, a.2, 4)) with
      | .trap t => .trap t
      | .wait d1 => .wait d1
      | .ok ls => .done (next (lanesPorts v.d ls) (storeLanes v .plain 0 data ls d))

end Sys2Proof.Machine
end

