-- ==== Sys2Proof/Machine/Operands.lean ====
section
/-! DEFINITION. Operand forms: sources and destinations of Table 3.3 (R63 to R67, R164, R165, R194), register groups
(R219), queue pops (R67), and the registers a word waits for (R41, R131). -/

namespace Sys2Proof.Machine

/-- The FP32 constants of codes 233 to 239 (Table 3.3). -/
def fpConst (n : Nat) : W32 :=
  [0x3F000000#32, 0x3F800000#32, 0x40000000#32, 0x40800000#32, 0xBF000000#32, 0xBF800000#32, 0xC0000000#32].getD n 0

/-- The 32-bit value that lane `l` reads from an operand (R63); `ent` is the entry that a queue operand pops. -/
def src (v : View) (ent : List W32) (op : Operand) (l : Nat) : W32 :=
  match op with
  | .v n => vget v.d v.core v.w l n
  | .s n => (sget v.w n).setWidth 32
  | .b n => bget v.blk n
  | .pos n => BitVec.ofNat 32 n
  | .neg n => -(BitVec.ofNat 32 n)
  | .fp n => fpConst n
  | .laneId => BitVec.ofNat 32 l
  | .waveId => BitVec.ofNat 32 v.w.widx
  | .waveW => BitVec.ofNat 32 v.width
  | .amask0 => v.active.extractLsb' 0 32
  | .amask1 => v.active.extractLsb' 32 32
  | .coreId => BitVec.ofNat 32 v.core
  | .hallId => BitVec.ofNat 32 v.hall
  | .ctxId => BitVec.ofNat 32 v.w.ctx
  | .reserved _ => 0
  | .q _ => ent.getD l 0

/-- The value of an operand that an FP32 instruction reads: an inline integer gives the FP32 value of that integer
(R164). -/
def srcFp (v : View) (ent : List W32) (op : Operand) (l : Nat) : W32 :=
  match op with
  | .pos n => [0x00000000#32, 0x3F800000#32, 0x40000000#32, 0x40400000#32, 0x40800000#32, 0x40A00000#32, 0x40C00000#32,
      0x40E00000#32, 0x41000000#32, 0x41100000#32, 0x41200000#32, 0x41300000#32, 0x41400000#32, 0x41500000#32,
      0x41600000#32, 0x41700000#32, 0x41800000#32].getD n 0
  | .neg n => 0x80000000#32 ||| [0x00000000#32, 0x3F800000#32, 0x40000000#32, 0x40400000#32, 0x40800000#32, 0x40A00000#32,
      0x40C00000#32, 0x40E00000#32, 0x41000000#32, 0x41100000#32, 0x41200000#32, 0x41300000#32, 0x41400000#32,
      0x41500000#32, 0x41600000#32, 0x41700000#32, 0x41800000#32].getD n 0
  | op => src v ent op l

/-- The 64-bit value of an operand of a scalar instruction (R63): s registers whole, inline integers sign-extended, other
32-bit sources zero-extended. The lane index (code 240) of such a word is lane 0's, 0 (DESIGN CHOICE, log 122). -/
def src64 (v : View) (op : Operand) : W64 :=
  match op with
  | .s n => sget v.w n
  | .neg n => -(BitVec.ofNat 64 n)
  | op => (src v [] op 0).setWidth 64

/-- A source code that ALU words admit (R164). -/
def isAluSrc : Operand → Bool
  | .reserved _ => false
  | _ => true

/-- A destination code that ALU words admit (R164). -/
def isAluDst : Operand → Bool
  | .v _ => true
  | .s _ => true
  | .b _ => true
  | .q _ => true
  | _ => false

/-- A vector code. -/
def isV : Operand → Bool
  | .v _ => true
  | _ => false

/-- An s code. -/
def isS : Operand → Bool
  | .s _ => true
  | _ => false

/-- A b code. -/
def isB : Operand → Bool
  | .b _ => true
  | _ => false

/-- An inline code (200 to 239): the constants of Table 3.3 (R157). -/
def isInline : Operand → Bool
  | .pos _ => true
  | .neg _ => true
  | .fp _ => true
  | _ => false

/-- A code that names where the wave runs (240 to 247, Table 3.3). -/
def isPlace : Operand → Bool
  | .laneId => true
  | .waveId => true
  | .waveW => true
  | .amask0 => true
  | .amask1 => true
  | .coreId => true
  | .hallId => true
  | .ctxId => true
  | _ => false

/-- A source code that scalar words admit (R194). -/
def isScalarSrc (op : Operand) : Bool := isS op || isB op || isInline op || isPlace op

/-- A destination code that scalar words admit (R194). -/
def isScalarDst (op : Operand) : Bool := isS op || isB op

/-- The inline 0 (code 200). -/
def isZeroCode (op : Operand) : Bool := decide (op = .pos 0)

/-- A field of zero bits, as an unused operand field must be (R147). -/
def isUnused (op : Operand) : Bool := decide (op = .v 0)

/-- The number of a register operand. -/
def regNo : Operand → Nat
  | .v n => n
  | .s n => n
  | .b n => n
  | .q n => n
  | _ => 0

/-- A group of `n` vector registers that lies within v0-v7 or within v8-v127 (R219). -/
def vGroupOk (r n : Nat) : Bool := (decide (r < 8) && decide (r + n ≤ 8)) || (decide (8 ≤ r) && decide (r + n ≤ 128))

/-- The bytes of a group of vector registers of a lane, the lowest register first (R219). -/
def groupBytes (v : View) (l r : Nat) : Nat → List Byte
  | 0 => []
  | n + 1 => leBytes 4 (vget v.d v.core v.w l r).toNat ++ groupBytes v l (r + 1) n

/-- A register that a word reads or writes. -/
inductive RegRef where
  | v (n : Nat)
  | s (n : Nat)
  | b (n : Nat)
  deriving DecidableEq, Repr

/-- The register of an operand. -/
def refOf : Operand → List RegRef
  | .v n => [.v n]
  | .s n => [.s n]
  | .b n => [.b n]
  | _ => []

/-- The registers of operands. -/
def refsOf (ops : List Operand) : List RegRef := ops.flatMap refOf

/-- A group of vector registers. -/
def vRefs (r n : Nat) : List RegRef := (List.range n).map fun i => .v (r + i)

/-- A group of scalar registers. -/
def sRefs (r n : Nat) : List RegRef := (List.range n).map fun i => .s (r + i)

/-- The registers that a wave's outstanding operations leave pending (R131). -/
def pendingLocs (w : Wave) : List RegLoc := w.ops.flatMap fun o => o.regs

/-- Whether a register is pending in some lane. -/
def isPending (w : Wave) (r : RegRef) : Bool :=
  let ps := pendingLocs w
  if ps = [] then false
  else
    match r with
    | .v n => (List.range w.width).any fun l => match vword w l n with | some k => ps.contains (.rf k) | none => false
    | .s n => ps.contains (.sreg n)
    | .b n => ps.contains (.breg n)

/-- The queue of an operand. -/
def queueOfOp : Operand → Option Nat
  | .q j => some j
  | _ => none

/-- The queues that sources pop, in operand order (R67). -/
def popsOf (ops : List Operand) : List Nat := ops.filterMap queueOfOp

/-- Whether a queue's gather side is bound to the view's wave. -/
def gatherBound (v : View) (j : Nat) : Bool :=
  let q := apqOf v.d v.core j
  decide (q.slot = some v.slot) && q.gbnd

/-- Whether every bound queue that the sources pop holds an entry for each pop (R41). -/
def popsReady (v : View) (ops : List Operand) : Bool :=
  (popsOf ops).all fun j =>
    !gatherBound v j || decide (((popsOf ops).filter fun k => decide (k = j)).length ≤ (apqOf v.d v.core j).entries.length)

/-- The entry that the `k`-th pop of queue `j` delivers. -/
def popEntry (v : View) (j k : Nat) : Option GatherEntry := (apqOf v.d v.core j).entries[k]?

/-- The place of a cause that a gather meets in the order of R398. -/
def causePlace (cause : BitVec 8) : Nat :=
  if cause = 0x33 then 1 else if cause = 0x34 then 2 else if cause = 0x30 then 4 else if cause = 0x31 then 5
  else if cause = 0x32 then 6 else if cause = 0x40 then 7 else if cause = 0x41 then 8 else 9

/-- The fault of a popped entry joined to those of later operands: the first cause in the order of R398, for every lane that
meets it. -/
def joinFault (f : WalkFault) (m : Mask) (r : Option (WalkFault × Mask)) : WalkFault × Mask :=
  match r with
  | none => (f, m)
  | some g =>
    if g.1.cause = f.cause then (f, m ||| g.2) else if causePlace g.1.cause < causePlace f.cause then g else (f, m)

/-- The entries that the sources pop, in operand order: for each operand its entry's lane values, and the fault that a
popped entry's gather met, with its lanes (R397, R398). -/
def popWalk (v : View) : List Operand → List Nat → List (List W32) × Option (WalkFault × Mask)
  | [], _ => ([], none)
  | op :: t, seen =>
    match queueOfOp op with
    | none =>
      let r := popWalk v t seen
      ([] :: r.1, r.2)
    | some j =>
      let r := popWalk v t (j :: seen)
      match popEntry v j (seen.filter fun k => decide (k = j)).length with
      | some (.data ls) => (ls :: r.1, r.2)
      | some (.bad f m) => ([] :: r.1, some (joinFault f m r.2))
      | none => ([] :: r.1, r.2)

/-- The popped entries removed, and counted as popped (Table 8.9). -/
def popApply (v : View) (d : Device) (ops : List Operand) : Device :=
  (popsOf ops).foldl (fun d j => modApq d v.core j fun q => { q with entries := q.entries.drop 1 }) d

/-- The lanes' writes of a vector register as pending results (R131). -/
def vWrites (v : View) (n : Nat) (ls : List Nat) (x : Nat → W32) : List (RegLoc × W64) :=
  ls.filterMap fun l => (vword v.w l n).map fun k => (.rf k, (x l).setWidth 64)

/-- The results of a destination that is a register (R165): lanes for a vector, the highest executing lane's value for
an s or b register. -/
def dstWrites (v : View) (op : Operand) (ex : Mask) (x : Nat → W32) : List (RegLoc × W64) :=
  match op with
  | .v n => vWrites v n (lanesOf v.width ex) x
  | .s n => match highLane v.width ex with | some l => [(.sreg n, (x l).setWidth 64)] | none => []
  | .b n => match highLane v.width ex with | some l => [(.breg n, (x l).setWidth 64)] | none => []
  | _ => []

/-- Results written to their registers. -/
def putWrites (v : View) (d : Device) (ws : List (RegLoc × W64)) : Device :=
  ws.foldl (locPut v.core v.slot v.w.block) d

/-- The predicate that a field coded 0b0000_Nppp names, in a lane (R177); the field's other codes are none. -/
def predField (op : Operand) : Option (Bool × Nat) :=
  match op with
  | .v n => if n < 16 then some (decide (8 ≤ n), n % 8) else none
  | _ => none

/-- The value of a predicate field in a lane. -/
def predFieldOf (w : Wave) (op : Operand) (l : Nat) : Bool :=
  match predField op with
  | some (neg, p) => predOf w p l != neg
  | none => false

end Sys2Proof.Machine
end

