-- ==== Sys2Proof/Machine/Issue.lean ====
section
/-! DEFINITION. The course that every word of a wave takes (R41, R68, R146, R149, R165, R385, R386, R395): what holds it
back, its executing lanes, its legality, then its own effect. -/

namespace Sys2Proof.Machine

/-- A legality check of a word: whether it fails, the cause and INFO (Tables 18.4 and 18.6). -/
structure Check where
  bad : Bool
  cause : BitVec 8
  info : Nat

/-- An illegal operand code in the field whose top bit is at a position (cause 0x13). -/
def c13 (bad : Bool) (pos : Nat) : Check := { bad := bad, cause := 0x13, info := pos }

/-- An illegal field value in the field whose top bit is at a position (cause 0x14). -/
def c14 (bad : Bool) (pos : Nat) : Check := { bad := bad, cause := 0x14, info := pos }

/-- A use without privilege (cause 0x16). -/
def c16 (bad : Bool) : Check := { bad := bad, cause := 0x16, info := 0 }

/-- An illegal uniform use (cause 0x18). -/
def c18 (bad : Bool) : Check := { bad := bad, cause := 0x18, info := 0 }

/-- The place of a cause in the order of R395. -/
def causeRank (c : BitVec 8) : Nat :=
  if c = 0x10 ∨ c = 0x11 then 0
  else if c = 0x12 then 1
  else if c = 0x16 then 2
  else if c = 0x13 then 3
  else if c = 0x14 then 4
  else if c = 0x15 then 5
  else if c = 0x18 then 6
  else 7

/-- The check that a word traps for: the first in the order of R395 that fails. -/
def firstBad (cs : List Check) : Option Check :=
  leastBy (fun a b => decide (causeRank a.cause < causeRank b.cause)) (cs.filter fun c => c.bad)

/-- What the effect of a word comes to: done, with the wave's position; a trap, the word having no effect; not issued
yet; or a device in which the word itself has settled everything. -/
inductive Eff where
  | done (d : Device) (pos : Pos)
  | trap (t : Trap)
  | hold (d : Device)
  | settled (d : Device)

/-- How a word takes its lanes (R146, R385): lane by lane, once for the wave, or by the guards of a PAIR's halves. -/
inductive Lanes where
  | each
  | once
  | halves (p q : BitVec 3)
  deriving DecidableEq, Repr

/-- A word as the shared course sees it: its bits, guard, lanes, uniform bit and whether uniform use is legal, the
registers it reads and writes, the sources that may pop queues, the token it makes pending, its legality checks, traps
that come before its tokens (R395), whether it accesses memory or an engine, and its effect on its executing lanes. -/
structure Job where
  code : W64
  g : Guard
  lanes : Lanes
  u : Bool := false
  uniOk : Bool := false
  refs : List RegRef := []
  pops : List Operand := []
  tok : Option (BitVec 4) := none
  legal : View → List Check := fun _ => []
  early : View → Mask → Option Trap := fun _ _ => none
  mem : Bool := false
  act : View → Mask → Eff

/-- Whether the clause's UNI bit is set (R144). -/
def View.uni (v : View) : Bool := v.hdr.getLsbD 29

/-- Whether a word runs once for the wave (R146, R165). -/
def Job.isOnce (j : Job) (v : View) : Bool :=
  match j.lanes with
  | .each => j.u || v.uni
  | .once => true
  | .halves _ _ => false

/-- The executing lanes of a word; all active lanes for one that runs once (R146, R385). -/
def Job.exec (j : Job) (v : View) : Mask :=
  match j.lanes with
  | .halves p q => v.active &&& (predMask v.w p.toNat ||| predMask v.w q.toNat)
  | _ =>
    if j.isOnce v then
      match lowLane v.width v.active with
      | some l => if guardOf v.w j.g l then v.active else 0
      | none => 0
    else guardMask v.w j.g v.active

/-- The lowest active lane. -/
def View.lane0 (v : View) : Nat := (lowLane v.width v.active).getD 0

/-- Whether an ARWAIT that holds the wave is satisfied: its place's generation has changed (R238). -/
def arwOpen (v : View) (a : ArWait) : Option (W32 × ArLoc) :=
  match arLocEngine v.d v.blk v.core v.w.ctx v.priv a.operand false with
  | .error _ => none
  | .ok (loc, _) =>
    let g := arGen v.d loc
    if g.extractLsb' 0 16 = a.operand.extractLsb' 48 16 then none else some (g, loc)

/-- The view once no ARWAIT holds its wave (R238): none while one does. In a handler the wave runs on (R394). -/
def settleArw (v : View) : Option View :=
  match v.w.arw with
  | none => some v
  | some a =>
    if v.w.trap.trlvl ≠ 0 then some v
    else
      match arwOpen v a with
      | none => none
      | some (g, loc) =>
        let f (w : Wave) : Wave :=
          let w1 := { w with arw := none }
          match a.dst with | some n => sput n (g.setWidth 64) w1 | none => w1
        some { v with d := v.put (arSeen v.core loc v.d) f, w := f v.w }

/-- What keeps any word of the wave from issuing: a halt, a fence whose stores are outstanding (R234), a lookahead
window (R149). -/
def waveHeld (v : View) : Bool :=
  v.w.halted || (match v.w.fenced with | some dom => decide (storesFor dom v.w ≠ 0) | none => false) ||
    v.w.ops.any fun o => decide (o.win = some 0)

/-- Whether an ALCATT of the wave still waits for its attachment: an acquire, which orders the wave's later accesses after it
(R127, R256), and its later alcove words with them (R254). -/
def attWaits (w : Wave) : Bool := w.ops.any fun o => decide (o.kind = .alcatt) && decide (o.args ≠ [])

/-- What keeps a word from issuing (R41): the wave is held, a register is pending, a queue is empty, an acquire that the
word's accesses follow is outstanding. -/
def jobHeld (j : Job) (v : View) : Bool :=
  waveHeld v || j.refs.any (isPending v.w) || !popsReady v j.pops || (j.mem && attWaits v.w)

/-- The checks that every word shares: its uniform use, by its own bit or by its clause's, and queues read that are not
bound (Table 18.6). -/
def sharedChecks (j : Job) (v : View) : List Check :=
  c18 (!j.uniOk && (j.u || v.uni)) ::
    ((List.range j.pops.length).zip j.pops).map fun e =>
      c13 (match queueOfOp e.2 with | some q => !gatherBound v q | none => false) (39 - 8 * e.1)

/-- A trap of the word in its executing lanes. -/
def wordTrap (_v : View) (cause : BitVec 8) (mask : Mask) (info : Nat) : Trap :=
  { cause := cause, mask := mask, info := BitVec.ofNat 64 info, addr := 0 }

/-- A trap taken or parked at the word (R380, R402). -/
def trapHere (v : View) (code : W64) (t : Trap) : Device := takeFault v t code v.p.pc v.w.pos.clpos

/-- The course of a word for a view whose wave is free to issue. -/
def issueView (j : Job) (v : View) : Device :=
  let ex := j.exec v
  if ex = 0 then finish v v.d .onward
  else
    match firstBad (sharedChecks j v ++ j.legal v) with
    | some c => trapHere v j.code (wordTrap v c.cause ex c.info)
    | none =>
      match j.early v ex with
      | some t => trapHere v j.code t
      | none =>
        let orphan := match j.tok with | some k => v.w.tokOrph.getLsbD k.toNat | none => false
        let busy := match j.tok with | some k => v.w.tokPend.getLsbD k.toNat | none => false
        if orphan then trapHere v j.code (wordTrap v 0x20 ex (2 ^ (j.tok.getD 0).toNat))
        else if busy then v.d
        else
          match j.act v ex with
          | .done d pos => finish v d pos
          | .trap t => trapHere v j.code t
          | .hold d => d
          | .settled d => d

/-- The course of a word for the wave that is selected. -/
def issue (j : Job) (d : Device) : Out Device :=
  match view d with
  | none => .fault .noWave
  | some v0 =>
    match settleArw v0 with
    | none => .next d
    | some v => if jobHeld j v then .next d else .next (issueView j v)

/-- A step of the die in the whole machine: nothing around it changes. -/
def onDevice (f : Device → Out Device) (s : State) : Out State :=
  match f s.dev with
  | .next d => .next { s with dev := d }
  | .fault r => .fault r
  | .refused r => .refused r

/-- A word's step. -/
def runJob (j : Job) (s : State) : Out State := onDevice (issue j) s

/-- A step of another agent on the die. -/
def runDevice (f : Device → Device) (s : State) : Out State := onDevice (fun d => .next (f d)) s

end Sys2Proof.Machine
end

