-- ==== Sys2Proof/Machine/Flags.lean ====
section
/-! DEFINITION. Modes, conditions and flags that the arithmetic words share (R100, R102, R107 to R113, R118, R148, R176). -/

namespace Sys2Proof.Machine

/-- The rounding mode of a code of sr.fmode[1:0] (Table 3.4). -/
def rmOfMode (n : Nat) : Rm := match n with | 0 => .rne | 1 => .rtz | 2 => .rup | _ => .rdn

/-- The rounding mode that an RM field selects (R108); `.sr` chooses apart. -/
def rmOf (fmode : BitVec 3) (rm : Nat) : Rm :=
  match rm with
  | 0 => rmOfMode (fmode.toNat % 4)
  | n + 1 => rmOfMode n

/-- Whether FP32 subnormals are flushed (R112). -/
def flushes (fmode : BitVec 3) : Bool := fmode.getLsbD 2

/-- The RM field of an A- or I-format word (Table 7.3). -/
def rmField (md : BitVec 4) : Nat := md.toNat % 8

/-- The SAT field of an A-format word (Table 7.3). -/
def satField (md : BitVec 4) : Bool := md.getLsbD 3

/-- SUB[11:8] of a word. -/
def subLo (s : BitVec 8) : Nat := s.toNat % 16

/-- SUB[15:12] of a word. -/
def subHi (s : BitVec 8) : Nat := s.toNat / 16

/-- An integer type of Table 7.4: width and sign. -/
def intType (t : Nat) : Option (Nat × Bool) :=
  match t with
  | 0 => some (8, true)
  | 1 => some (16, true)
  | 2 => some (32, true)
  | 3 => some (64, true)
  | 4 => some (8, false)
  | 5 => some (16, false)
  | 6 => some (32, false)
  | 7 => some (64, false)
  | _ => none

/-- A floating-point type of Table 7.4. -/
def floatType (t : Nat) : Option Fmt :=
  match t with
  | 8 => some fp32
  | 9 => some fp16
  | 10 => some bf16
  | 11 => some e4m3
  | 12 => some e5m2
  | 13 => some e2m1
  | _ => none

/-- The low bits of a value read as an integer of a width (R100). -/
def intOf (w : Nat) (isSigned : Bool) (x : Nat) : Int := if isSigned then signed w x else ((x % 2 ^ w : Nat) : Int)

/-- The bounds of an integer type (R100). -/
def intBounds (w : Nat) (isSigned : Bool) : Int × Int :=
  if isSigned then (-((2 ^ (w - 1) : Nat) : Int), ((2 ^ (w - 1) : Nat) : Int) - 1) else (0, ((2 ^ w : Nat) : Int) - 1)

/-- sat(T, x) (R100). -/
def satInt (w : Nat) (isSigned : Bool) (x : Int) : Int :=
  let b := intBounds w isSigned
  if x < b.1 then b.1 else if b.2 < x then b.2 else x

/-- An exact integer result narrowed to a type, wrapped or saturated, with its flag (R100). -/
def narrowInt (w : Nat) (isSigned sat : Bool) (x : Int) : Int × Flags :=
  if sat then
    let y := satInt w isSigned x
    (y, flagIf (decide (y ≠ x)) flSaturated)
  else (x, 0)

/-- The FP32 bits after ABS and then NEG (R148). -/
def negAbs (neg abs : Bool) (x : W32) : W32 :=
  let y := if abs then x &&& 0x7FFFFFFF#32 else x
  if neg then y ^^^ 0x80000000#32 else y

/-- fsrc: an FP32 operand with ABS, NEG and the flush of R112. -/
def fsrc (fmode : BitVec 3) (neg abs : Bool) (x : W32) : FVal := flushIn (flushes fmode) (f32 (negAbs neg abs x))

/-- The FP32 bits and flags of a result with the flush of R112. -/
def fres (fmode : BitVec 3) (r : FVal × Flags) : W32 × Flags :=
  let q := flushOut (flushes fmode) r
  (f32Bits q.1, q.2)

/-- A condition code 0 to 5 on an order (Table 7.4). -/
def condOrd (code : Nat) (lt eq : Bool) : Bool :=
  match code with
  | 0 => eq
  | 1 => !eq
  | 2 => lt
  | 3 => lt || eq
  | 4 => !(lt || eq)
  | _ => !lt

/-- An integer comparison (R176). -/
def condInt (code : Nat) (a b : Int) : Bool := condOrd code (decide (a < b)) (decide (a = b))

/-- A floating-point comparison with its flags (R113, R176). -/
def condFp (code : Nat) (a b : FVal) : Bool × Flags :=
  let un := isNan a || isNan b
  let fl := sigFlag a ||| sigFlag b ||| flagIf (un && decide (2 ≤ code ∧ code ≤ 5)) flInvalid
  match code with
  | 6 => (!un, fl)
  | 7 => (un, fl)
  | 1 => (un || !eqF a b, fl)
  | n => (!un && condOrd n (ltF a b) (eqF a b), fl)

/-- CMB of a compare: the result combined with a predicate (R147). -/
def combine (cmb : BitVec 2) (t c : Bool) : Bool :=
  match cmb.toNat with
  | 0 => t
  | 1 => t && c
  | 2 => t || c
  | _ => t != c

/-- FCLASS of FP32 bits (R180). -/
def fclassBits (x : W32) : W32 :=
  let neg := x.getLsbD 31
  let e := x.toNat / 2 ^ 23 % 256
  let f := x.toNat % 2 ^ 23
  let bit : Nat :=
    if e = 255 then
      if f = 0 then (if neg then 0 else 7) else (if 2 ^ 22 ≤ f then 9 else 8)
    else if e = 0 then
      if f = 0 then (if neg then 3 else 4) else (if neg then 2 else 5)
    else if neg then 1 else 6
  BitVec.ofNat 32 (2 ^ bit)

/-- The bytes of a 32-bit value. -/
def byteOf (x : W32) (i : Nat) : Nat := x.toNat / 2 ^ (8 * i) % 256

/-- The 32-bit value of an integer. -/
def w32 (x : Int) : W32 := wrap 32 x

end Sys2Proof.Machine
end

