-- ==== Sys2Proof/Machine/IntAlu.lean ====
section
/-! DEFINITION. The ALU class: the course of per-lane ALU words (R164 to R167) and its integer instructions (R168 to R178). -/

namespace Sys2Proof.Machine

/-- A source of an ALU word: its operand, and whether it is read as FP32 (R164). -/
abbrev AluSrc := Operand × Bool

/-- The value of a source in a lane, with the lane whose entry value a popped queue gives (R67, R165). -/
def aluVal (v : View) (ent : List W32) (s : AluSrc) (l lq : Nat) : W32 :=
  match s.1 with
  | .q _ => ent.getD lq 0
  | op => if s.2 then srcFp v ent op l else src v ent op l

/-- The values of the sources in a lane. -/
def aluVals (v : View) (l lq : Nat) : List AluSrc → List (List W32) → List W32
  | [], _ => []
  | s :: t, ents => aluVal v (ents.headD []) s l lq :: aluVals v l lq t (ents.drop 1)

/-- The result of each lane of an ALU word: lane by lane, or once from the lowest active lane (R165), whose index code 240 then
gives too (DESIGN CHOICE, log 122). -/
def aluResult (v : View) (once : Bool) (ents : List (List W32)) (srcs : List AluSrc)
    (f : Nat → List W32 → W32 × Flags) (l : Nat) : W32 × Flags :=
  if once then f v.lane0 (aluVals v v.lane0 0 srcs ents) else f l (aluVals v l l srcs ents)

/-- The flags of a word: of every executing lane, or once (R118). -/
def orFlags (fs : List Flags) : Flags := fs.foldl (· ||| ·) 0

/-- The trap of a popped entry whose gather failed (R397, R398). -/
def popTrap (x : WalkFault × Mask) : Trap :=
  { cause := x.1.cause, mask := x.2, info := x.1.info, addr := x.1.page.setWidth 64 }

/-- The effect of a word with one destination (R165), from its results as a function of the popped entries and the lane:
registers and predicates read before anything is written, pops and flags, then the destination, pending for a
long-latency word (R166). -/
def destEffect (v : View) (once : Bool) (ex : Mask) (d : Operand) (la : Option (BitVec 4)) (ops : List Operand)
    (res : List (List W32) → Nat → W32 × Flags) : Eff :=
  match popWalk v ops [] with
  | (_, some bad) => .trap (popTrap bad)
  | (ents, none) =>
    let r := res ents
    let val (l : Nat) : W32 := (r l).1
    let fl := if once then (r 0).2 else orFlags ((lanesOf v.width ex).map fun l => (r l).2)
    let d0 := popApply v v.d ops
    match d with
    | .q j =>
      match pushEntry v (v.put d0 (addFlags fl)) j (fun l => if ex.getLsbD l then val l else 0) with
      | .done d1 => .done d1 .onward
      | .wait d1 => .hold d1
      | .trap t => .trap t
    | d =>
      let ws := dstWrites v d ex val
      match la with
      | some n => .done (v.put d0 (pushOp .alu (windowOf (some n)) ws none fl [])) .onward
      | none => .done (putWrites v (v.put d0 (addFlags fl)) ws) .onward

/-- An effect with a further change of the die where the word is done: none where it waits or traps. -/
def Eff.after (f : Device → Device) : Eff → Eff
  | .done d pos => .done (f d) pos
  | e => e

/-- The effect of an ALU word whose result in a lane comes from the sources in that lane. -/
def aluEffect (v : View) (once : Bool) (ex : Mask) (d : Operand) (la : Option (BitVec 4)) (srcs : List AluSrc)
    (f : Nat → List W32 → W32 × Flags) : Eff :=
  destEffect v once ex d la (srcs.map (·.1)) fun ents => aluResult v once ents srcs f

/-- Whether a field must be zero and is not, or is used and holds no admitted source (R164). -/
def srcCheck (used : Bool) (op : Operand) (pos : Nat) : List Check :=
  if used then [c13 (!isAluSrc op) pos] else [c14 (!isUnused op) pos]

/-- The operand checks of an A-format ALU word that uses `n` sources. -/
def aOperands (w : WordA) (n : Nat) : List Check :=
  [c13 (!isAluDst w.d) 47] ++ srcCheck (decide (1 ≤ n)) w.a 39 ++ srcCheck (decide (2 ≤ n)) w.b 31 ++
    srcCheck (decide (3 ≤ n)) w.c 23 ++ [c14 w.low 0]

/-- The checks that NEG, ABS and RM, and SAT where it is not admitted, are zero (R148). -/
def aPlain (w : WordA) (sat : Bool) : List Check :=
  [c14 (decide (w.neg ≠ 0)) 6, c14 (decide (w.abs ≠ 0)) 3, c14 (decide (rmField w.hd.md ≠ 0)) 50,
   c14 (!sat && satField w.hd.md) 51]

/-- The check of one type in SUB[11:8] with SUB[15:12] zero (R148). -/
def aType (w : WordA) (ts : List Nat) : List Check :=
  [c14 (!ts.contains (subLo w.sub)) 11, c14 (decide (subHi w.sub ≠ 0)) 15]

/-- The first `n` sources of an A-format word. -/
def aSrcs (w : WordA) (n : Nat) : List Operand := [w.a, w.b, w.c].take n

/-- A word of the ALU class in format A. -/
def aluJob (opc : BitVec 8) (w : WordA) (n : Nat) (uniOk : Bool) (la : Option (BitVec 4)) (fps : List Bool)
    (legal : List Check) (f : View → Nat → List W32 → W32 × Flags) : Job :=
  { code := w.toBits opc, g := w.hd.g, lanes := .each, u := w.u, uniOk := uniOk
    refs := refsOf (w.d :: aSrcs w n), pops := aSrcs w n
    legal := fun _ => aOperands w n ++ legal
    act := fun v ex => aluEffect v (w.u || v.uni) ex w.d la ((aSrcs w n).zip fps) (f v) }

/-- No FP32 source. -/
def noFp : List Bool := [false, false, false]

/-- An integer word of type I32 or N32 (R168). -/
def intJob (opc : BitVec 8) (w : WordA) (n : Nat) (sat : Bool) (f : Int → Int → Int → Int) : Job :=
  aluJob opc w n true none noFp (aPlain w sat ++ aType w [2, 6]) fun _ _ xs =>
    let sg := decide (subLo w.sub = 2)
    let x (i : Nat) : Int := intOf 32 sg (xs.getD i 0).toNat
    let r := narrowInt 32 sg (satField w.hd.md) (f (x 0) (x 1) (x 2))
    (w32 r.1, r.2)

/-- IADD (R168). -/
def jobIadd (w : WordA) : Job :=
  intJob 0x01 w 2 true fun a b _ => a + b
/-- IADD (R168): its step. -/
def execIadd (w : WordA) (s : State) : Out State := runJob (jobIadd w) s
/-- ISUB (R168). -/
def jobIsub (w : WordA) : Job :=
  intJob 0x02 w 2 true fun a b _ => a - b
/-- ISUB (R168): its step. -/
def execIsub (w : WordA) (s : State) : Out State := runJob (jobIsub w) s
/-- IMUL (R168). -/
def jobImul (w : WordA) : Job :=
  intJob 0x03 w 2 true fun a b _ => a * b
/-- IMUL (R168): its step. -/
def execImul (w : WordA) (s : State) : Out State := runJob (jobImul w) s
/-- IMULH (R168). -/
def jobImulh (w : WordA) : Job :=
  intJob 0x04 w 2 false fun a b _ => a * b / 2 ^ 32
/-- IMULH (R168): its step. -/
def execImulh (w : WordA) (s : State) : Out State := runJob (jobImulh w) s
/-- IMAD (R168). -/
def jobImad (w : WordA) : Job :=
  intJob 0x05 w 3 true fun a b c => a * b + c
/-- IMAD (R168): its step. -/
def execImad (w : WordA) (s : State) : Out State := runJob (jobImad w) s
/-- IMIN (R168). -/
def jobImin (w : WordA) : Job :=
  intJob 0x07 w 2 false fun a b _ => min a b
/-- IMIN (R168): its step. -/
def execImin (w : WordA) (s : State) : Out State := runJob (jobImin w) s
/-- IMAX (R168). -/
def jobImax (w : WordA) : Job :=
  intJob 0x08 w 2 false fun a b _ => max a b
/-- IMAX (R168): its step. -/
def execImax (w : WordA) (s : State) : Out State := runJob (jobImax w) s

/-- The dot product of IDP4 (R169): byte signs of a and of b, then the sum. -/
def idp4Sum (sa sb : Bool) (a b c : W32) : Int :=
  (List.range 4).foldl (fun x i => x + intOf 8 sa (byteOf a i) * intOf 8 sb (byteOf b i)) (intOf 32 true c.toNat)

/-- IDP4 (R169). -/
def jobIdp4 (w : WordA) : Job :=
  aluJob 0x06 w 3 true none noFp
    (aPlain w true ++ [c14 (!([0, 4].contains (subLo w.sub))) 11, c14 (!([0, 4].contains (subHi w.sub))) 15])
    fun _ _ xs =>
      let r := narrowInt 32 true (satField w.hd.md)
        (idp4Sum (decide (subLo w.sub = 0)) (decide (subHi w.sub = 0)) (xs.getD 0 0) (xs.getD 1 0) (xs.getD 2 0))
      (w32 r.1, r.2)
/-- IDP4 (R169): its step. -/
def execIdp4 (w : WordA) (s : State) : Out State := runJob (jobIdp4 w) s

/-- A word of bit operations: its SUB checks and its function of the raw values (R171 to R175). -/
def bitJob (opc : BitVec 8) (w : WordA) (n : Nat) (sub : List Check) (f : W32 → W32 → W32 → W32) : Job :=
  aluJob opc w n true none noFp (aPlain w false ++ sub) fun _ _ xs =>
    (f (xs.getD 0 0) (xs.getD 1 0) (xs.getD 2 0), 0)

/-- SUB must be zero. -/
def subZero (w : WordA) : List Check := [c14 (decide (w.sub ≠ 0)) 15]

/-- SHL of a width-`n` value (R171). -/
def shlBits {n : Nat} (a : BitVec n) (k : Nat) : BitVec n := if k < n then a <<< k else 0
/-- SHR (R171). -/
def shrBits {n : Nat} (a : BitVec n) (k : Nat) : BitVec n := if k < n then a >>> k else 0
/-- SAR (R171). -/
def sarBits {n : Nat} (a : BitVec n) (k : Nat) : BitVec n := a.sshiftRight (min k (n - 1))

/-- SHL (R171). -/
def jobShl (w : WordA) : Job :=
  bitJob 0x10 w 2 (subZero w) fun a b _ => shlBits a b.toNat
/-- SHL (R171): its step. -/
def execShl (w : WordA) (s : State) : Out State := runJob (jobShl w) s
/-- SHR (R171). -/
def jobShr (w : WordA) : Job :=
  bitJob 0x11 w 2 (subZero w) fun a b _ => shrBits a b.toNat
/-- SHR (R171): its step. -/
def execShr (w : WordA) (s : State) : Out State := runJob (jobShr w) s
/-- SAR (R171). -/
def jobSar (w : WordA) : Job :=
  bitJob 0x12 w 2 (subZero w) fun a b _ => sarBits a b.toNat
/-- SAR (R171): its step. -/
def execSar (w : WordA) (s : State) : Out State := runJob (jobSar w) s

/-- The funnel shift of cat(b, a) (R172). -/
def fshfBits (left clamp : Bool) (a b c : W32) : W32 :=
  let n := if clamp then min c.toNat 32 else c.toNat % 32
  let x : W64 := b ++ a
  if left then ((x.setWidth 96 <<< n).extractLsb' 32 32) else (x >>> n).setWidth 32

/-- FSHF (R172). -/
def jobFshf (w : WordA) : Job :=
  bitJob 0x13 w 3 [c14 (decide (w.sub.toNat / 4 ≠ 0)) 15] fun a b c =>
    fshfBits (w.sub.getLsbD 0) (w.sub.getLsbD 1) a b c
/-- FSHF (R172): its step. -/
def execFshf (w : WordA) (s : State) : Out State := runJob (jobFshf w) s

/-- The field position and length of BFE and BFI (R173). -/
def fieldShape (b : W32) : Nat × Nat := (min (byteOf b 0) 32, min (byteOf b 1) 32)

/-- BFE (R173). -/
def bfeBits (sg : Bool) (a b : W32) : W32 :=
  let p := (fieldShape b).1
  let n := (fieldShape b).2
  let x := (intOf 32 sg a.toNat / 2 ^ p) % 2 ^ n
  if n = 0 then 0 else if sg then w32 (signed n x.toNat) else w32 x

/-- BFI (R173). -/
def bfiBits (a b c : W32) : W32 :=
  let p := (fieldShape b).1
  let n := (fieldShape b).2
  let k := BitVec.ofNat 32 ((2 ^ n - 1) * 2 ^ p)
  (c &&& ~~~k) ||| (BitVec.ofNat 32 (a.toNat * 2 ^ p) &&& k)

/-- BFE (R173). -/
def jobBfe (w : WordA) : Job :=
  bitJob 0x14 w 2 (aType w [2, 6]) fun a b _ => bfeBits (decide (subLo w.sub = 2)) a b
/-- BFE (R173): its step. -/
def execBfe (w : WordA) (s : State) : Out State := runJob (jobBfe w) s
/-- BFI (R173). -/
def jobBfi (w : WordA) : Job :=
  bitJob 0x15 w 3 (subZero w) bfiBits
/-- BFI (R173): its step. -/
def execBfi (w : WordA) (s : State) : Out State := runJob (jobBfi w) s

/-- The number of set bits. -/
def popcBits (a : W32) : W32 := BitVec.ofNat 32 ((List.range 32).filter fun i => a.getLsbD i).length
/-- The zero bits above the highest set bit; 32 for 0 (R174). -/
def clzBits (a : W32) : W32 := BitVec.ofNat 32 (((List.range 32).find? fun i => a.getLsbD (31 - i)).getD 32)
/-- The zero bits below the lowest set bit; 32 for 0 (R174). -/
def ctzBits (a : W32) : W32 := BitVec.ofNat 32 (((List.range 32).find? fun i => a.getLsbD i).getD 32)
/-- Bits reversed (R174). -/
def brevBits (a : W32) : W32 :=
  (List.range 32).foldl (fun x i => if a.getLsbD i then x ||| BitVec.ofNat 32 (2 ^ (31 - i)) else x) 0

/-- POPC (R174). -/
def jobPopc (w : WordA) : Job :=
  bitJob 0x16 w 1 (subZero w) fun a _ _ => popcBits a
/-- POPC (R174): its step. -/
def execPopc (w : WordA) (s : State) : Out State := runJob (jobPopc w) s
/-- CLZ (R174). -/
def jobClz (w : WordA) : Job :=
  bitJob 0x17 w 1 (subZero w) fun a _ _ => clzBits a
/-- CLZ (R174): its step. -/
def execClz (w : WordA) (s : State) : Out State := runJob (jobClz w) s
/-- CTZ (R174). -/
def jobCtz (w : WordA) : Job :=
  bitJob 0x18 w 1 (subZero w) fun a _ _ => ctzBits a
/-- CTZ (R174): its step. -/
def execCtz (w : WordA) (s : State) : Out State := runJob (jobCtz w) s
/-- BREV (R174). -/
def jobBrev (w : WordA) : Job :=
  bitJob 0x19 w 1 (subZero w) fun a _ _ => brevBits a
/-- BREV (R174): its step. -/
def execBrev (w : WordA) (s : State) : Out State := runJob (jobBrev w) s

/-- BLUT over a width (R175): the table's entry `i` selects the bits whose sources read `i`. -/
def blutBits {n : Nat} (lut : BitVec 8) (a b c : BitVec n) : BitVec n :=
  (List.range 8).foldl (fun x i =>
    if lut.getLsbD i then
      x ||| ((if i % 2 = 1 then a else ~~~a) &&& (if i / 2 % 2 = 1 then b else ~~~b) &&&
        (if i / 4 = 1 then c else ~~~c))
    else x) 0

/-- BLUT (R175). -/
def jobBlut (w : WordA) : Job :=
  bitJob 0x1A w 3 [] (blutBits w.sub)
/-- BLUT (R175): its step. -/
def execBlut (w : WordA) (s : State) : Out State := runJob (jobBlut w) s

/-- SEL (R177): the predicate of the C field is read in the lane. -/
def jobSel (w : WordA) : Job :=
  { aluJob 0x22 w 2 true none noFp [] fun v l xs =>
      (if predFieldOf v.w w.c l then xs.getD 0 0 else xs.getD 1 0, 0) with
    legal := fun _ =>
      [c13 (!isAluDst w.d) 47] ++ srcCheck true w.a 39 ++ srcCheck true w.b 31 ++ [c14 w.low 0] ++ aPlain w false ++
        subZero w ++ [c13 (predField w.c).isNone 23] }
/-- SEL (R177): its step. -/
def execSel (w : WordA) (s : State) : Out State := runJob (jobSel w) s

/-- MOV (R177). -/
def jobMov (w : WordA) : Job :=
  bitJob 0x23 w 1 (subZero w) fun a _ _ => a
/-- MOV (R177): its step. -/
def execMov (w : WordA) (s : State) : Out State := runJob (jobMov w) s

/-- The uniform bit of an I-format word (Table 7.3). -/
def iUni (w : WordI) : Bool := w.hd.md.getLsbD 3

/-- An I-format word of the ALU class: D may be a vector, s or b register (R170). -/
def immJob (opc : BitVec 8) (w : WordI) (useA fp : Bool) (legal : List Check)
    (f : View → W32 → W32 × Flags) : Job :=
  { code := w.toBits opc, g := w.hd.g, lanes := .each, u := iUni w, uniOk := true
    refs := refsOf (w.d :: if useA then [w.a] else []), pops := if useA then [w.a] else []
    legal := fun _ => [c13 (!(isV w.d || isS w.d || isB w.d)) 47] ++ srcCheck useA w.a 39 ++ legal
    act := fun v ex => aluEffect v (iUni w || v.uni) ex w.d none (if useA then [(w.a, fp)] else [])
      fun _ xs => f v (xs.getD 0 0) }

/-- RM must be zero in an I-format word. -/
def iRmZero (w : WordI) : List Check := [c14 (decide (rmField w.hd.md ≠ 0)) 50]

/-- MOVI (R177): its destination as ALU words admit (R164). -/
def jobMovi (w : WordI) : Job :=
  { immJob 0x24 w false false [] (fun _ _ => (w.imm, 0)) with
    legal := fun _ => [c13 (!isAluDst w.d) 47] ++ srcCheck false w.a 39 ++ iRmZero w }
/-- MOVI (R177): its step. -/
def execMovi (w : WordI) (s : State) : Out State := runJob (jobMovi w) s
/-- IADDI (R170). -/
def jobIaddi (w : WordI) : Job :=
  immJob 0x28 w true false (iRmZero w) fun _ a => (a + w.imm, 0)
/-- IADDI (R170): its step. -/
def execIaddi (w : WordI) (s : State) : Out State := runJob (jobIaddi w) s
/-- IMULI (R170). -/
def jobImuli (w : WordI) : Job :=
  immJob 0x29 w true false (iRmZero w) fun _ a => (a * w.imm, 0)
/-- IMULI (R170): its step. -/
def execImuli (w : WordI) (s : State) : Out State := runJob (jobImuli w) s
/-- ANDI (R170). -/
def jobAndi (w : WordI) : Job :=
  immJob 0x2A w true false (iRmZero w) fun _ a => (a &&& w.imm, 0)
/-- ANDI (R170): its step. -/
def execAndi (w : WordI) (s : State) : Out State := runJob (jobAndi w) s
/-- ORI (R170). -/
def jobOri (w : WordI) : Job :=
  immJob 0x2B w true false (iRmZero w) fun _ a => (a ||| w.imm, 0)
/-- ORI (R170): its step. -/
def execOri (w : WordI) (s : State) : Out State := runJob (jobOri w) s
/-- XORI (R170). -/
def jobXori (w : WordI) : Job :=
  immJob 0x2C w true false (iRmZero w) fun _ a => (a ^^^ w.imm, 0)
/-- XORI (R170): its step. -/
def execXori (w : WordI) (s : State) : Out State := runJob (jobXori w) s

/-- The predicates that a P-format word writes in each executing lane (R147, R176): the test combined with PC, and its
complement, which stands where PE names PD. -/
def predResult (v : View) (ex : Mask) (w : WordP) (t : Nat → Bool) (wv : Wave) : Wave :=
  let r := maskOf ((lanesOf v.width ex).filter fun l =>
    combine w.cmb (t l) (predOf v.w w.pc.toNat l != w.pcn))
  predPut w.pe.toNat ex (~~~r) (predPut w.pd.toNat ex r wv)

/-- The checks of fields that every P-format word leaves zero. -/
def pPlain (w : WordP) : List Check :=
  [c14 (decide (w.hd.md ≠ 0)) 51, c14 (decide (w.res ≠ 0)) 19, c14 (decide (w.low ≠ 0)) 6]

/-- A compare word (R176). -/
def cmpJob (opc : BitVec 8) (w : WordP) (fp : Bool) (types : List Nat) (conds : Nat)
    (f : View → W32 → W32 → Bool × Flags) : Job :=
  { code := w.toBits opc, g := w.hd.g, lanes := .each, u := w.u, uniOk := true
    refs := refsOf [w.a, w.b], pops := [w.a, w.b]
    legal := fun _ => [c13 (!isAluSrc w.a) 39, c13 (!isAluSrc w.b) 31, c14 (!types.contains (subLo w.sub)) 11,
      c14 (decide (conds ≤ subHi w.sub)) 15] ++ pPlain w
    act := fun v ex =>
      match popWalk v [w.a, w.b] [] with
      | (_, some bad) => .trap (popTrap bad)
      | (ents, none) =>
        let once := w.u || v.uni
        let srcs : List AluSrc := [(w.a, fp), (w.b, fp)]
        let test (l : Nat) : Bool × Flags :=
          let xs := if once then aluVals v v.lane0 0 srcs ents else aluVals v l l srcs ents
          f v (xs.getD 0 0) (xs.getD 1 0)
        let fl := if once then (test 0).2 else orFlags ((lanesOf v.width ex).map fun l => (test l).2)
        .done (v.put (popApply v v.d [w.a, w.b]) fun wv =>
          addFlags fl (predResult v ex w (fun l => (test l).1) wv)) .onward }

/-- ICMP (R176). -/
def jobIcmp (w : WordP) : Job :=
  cmpJob 0x20 w false [2, 6] 6 fun _ a b =>
    let sg := decide (subLo w.sub = 2)
    (condInt (subHi w.sub) (intOf 32 sg a.toNat) (intOf 32 sg b.toNat), 0)
/-- ICMP (R176): its step. -/
def execIcmp (w : WordP) (s : State) : Out State := runJob (jobIcmp w) s

/-- FCMP (R176). -/
def jobFcmp (w : WordP) : Job :=
  cmpJob 0x21 w true [8] 8 fun v a b =>
    condFp (subHi w.sub) (fsrc v.w.fmode false false a) (fsrc v.w.fmode false false b)
/-- FCMP (R176): its step. -/
def execFcmp (w : WordP) (s : State) : Out State := runJob (jobFcmp w) s

/-- PLUT (R178): a table over three predicates, with CMB zero. -/
def jobPlut (w : WordP) : Job :=
  { code := w.toBits 0x25, g := w.hd.g, lanes := .each, u := w.u, uniOk := true
    legal := fun _ => [c13 (predField w.a).isNone 39, c13 (predField w.b).isNone 31,
      c14 (decide (w.cmb ≠ 0)) 41] ++ pPlain w
    act := fun v ex =>
      let test (l : Nat) : Bool :=
        w.sub.getLsbD (nat1 (predFieldOf v.w w.a l) + 2 * nat1 (predFieldOf v.w w.b l) +
          4 * nat1 (predOf v.w w.pc.toNat l != w.pcn))
      let t (l : Nat) : Bool := if w.u || v.uni then test v.lane0 else test l
      .done (v.put v.d (predResult v ex w t)) .onward }
/-- PLUT (R178): its step. -/
def execPlut (w : WordP) (s : State) : Out State := runJob (jobPlut w) s

end Sys2Proof.Machine
end

