-- ==== Sys2Proof/Machine/FloatAlu.lean ====
section
/-! DEFINITION. FP32 arithmetic (R179 to R181), approximate functions (R116, R182) and packed and dot-product arithmetic
(R183, R184). -/

namespace Sys2Proof.Machine

/-- NEG of source `i` (0 for a) of an A-format word (Table 7.3). -/
def negOf (w : WordA) (i : Nat) : Bool := w.neg.getLsbD (2 - i)

/-- ABS of source `i` of an A-format word. -/
def absOf (w : WordA) (i : Nat) : Bool := w.abs.getLsbD (2 - i)

/-- fsrc of source `i` of a word from its bits (R148). -/
def aFsrc (v : View) (w : WordA) (i : Nat) (x : W32) : FVal := fsrc v.w.fmode (negOf w i) (absOf w i) x

/-- NEG and ABS bits beyond the first `n` sources are zero. -/
def modsZero (w : WordA) (n : Nat) : List Check :=
  [c14 (decide (w.neg.toNat % 2 ^ (3 - n) ≠ 0)) 6, c14 (decide (w.abs.toNat % 2 ^ (3 - n) ≠ 0)) 3]

/-- RM is 0 to `hi`, and SAT is zero. -/
def rmUpTo (w : WordA) (hi : Nat) : List Check :=
  [c14 (decide (hi < rmField w.hd.md)) 50, c14 (satField w.hd.md) 51]

/-- An FP32 word of `n` sources. -/
def fpJob (opc : BitVec 8) (w : WordA) (n rmHi : Nat) (f : View → List FVal → FVal × Flags) : Job :=
  aluJob opc w n true none [true, true, true] (aType w [8] ++ rmUpTo w rmHi ++ modsZero w n) fun v _ xs =>
    fres v.w.fmode (f v (((List.range xs.length).zip xs).map fun e => aFsrc v w e.1 e.2))

/-- The rounding mode of an A-format word (R108). -/
def aRm (v : View) (w : WordA) : Rm := rmOf v.w.fmode (rmField w.hd.md)

/-- A source of a list of values. -/
def fx (xs : List FVal) (i : Nat) : FVal := xs.getD i (.num false 0)

/-- FADD (R179). -/
def jobFadd (w : WordA) : Job :=
  fpJob 0x30 w 2 4 fun v xs => addF fp32 (aRm v w) (fx xs 0) (fx xs 1)
/-- FADD (R179): its step. -/
def execFadd (w : WordA) (s : State) : Out State := runJob (jobFadd w) s
/-- FMUL (R179). -/
def jobFmul (w : WordA) : Job :=
  fpJob 0x31 w 2 4 fun v xs => prodF fp32 (aRm v w) (fx xs 0) (fx xs 1)
/-- FMUL (R179): its step. -/
def execFmul (w : WordA) (s : State) : Out State := runJob (jobFmul w) s
/-- FFMA (R179). -/
def jobFfma (w : WordA) : Job :=
  fpJob 0x32 w 3 4 fun v xs => fmaF fp32 (aRm v w) (fx xs 0) (fx xs 1) (fx xs 2)
/-- FFMA (R179): its step. -/
def execFfma (w : WordA) (s : State) : Out State := runJob (jobFfma w) s
/-- FMIN (R179). -/
def jobFmin (w : WordA) : Job :=
  fpJob 0x33 w 2 0 fun _ xs => minF (fx xs 0) (fx xs 1)
/-- FMIN (R179): its step. -/
def execFmin (w : WordA) (s : State) : Out State := runJob (jobFmin w) s
/-- FMAX (R179). -/
def jobFmax (w : WordA) : Job :=
  fpJob 0x34 w 2 0 fun _ xs => maxF (fx xs 0) (fx xs 1)
/-- FMAX (R179): its step. -/
def execFmax (w : WordA) (s : State) : Out State := runJob (jobFmax w) s

/-- FCLASS (R180). -/
def jobFclass (w : WordA) : Job :=
  aluJob 0x35 w 1 true none [true] (aPlain w false ++ aType w [8]) fun _ _ xs => (fclassBits (xs.getD 0 0), 0)
/-- FCLASS (R180): its step. -/
def execFclass (w : WordA) (s : State) : Out State := runJob (jobFclass w) s

/-- FRND (R181): an integral value with the sign of a. -/
def rndF (m : Rm) (a : FVal) : FVal × Flags :=
  match a with
  | .nan sig => (.nan false, flagIf sig flInvalid)
  | .inf n => (.inf n, 0)
  | .num n x => (.num n ((roundInt m x : Int) : Rat), 0)

/-- FFRC (R181): a − floor(a), with 1.0 replaced by the value below it. -/
def frcF (m : Rm) (a : FVal) : FVal × Flags :=
  match a with
  | .nan sig => (.nan false, flagIf sig flInvalid)
  | .inf _ => (.nan false, flInvalid)
  | .num _ x =>
    if x = 0 then (.num false 0, 0)
    else
      let y := x - (x.floor : Rat)
      if y = 0 then (.num (decide (m = .rdn)) 0, 0)
      else
        let r := roundTo fp32 m false y
        if r.1 = .num false 1 then (f32 0x3F7FFFFF#32, r.2) else r

/-- FLDEXP (R181): a × 2^n; the power is cut where the result no longer changes. -/
def ldexpF (m : Rm) (a : FVal) (n : Int) : FVal × Flags :=
  match a with
  | .nan sig => (.nan false, flagIf sig flInvalid)
  | .inf k => (.inf k, 0)
  | .num k x => roundTo fp32 m k (x * pow2 (max (-400) (min 400 n)))

/-- FRND (R181). -/
def jobFrnd (w : WordA) : Job :=
  fpJob 0x36 w 1 4 fun v xs => rndF (aRm v w) (fx xs 0)
/-- FRND (R181): its step. -/
def execFrnd (w : WordA) (s : State) : Out State := runJob (jobFrnd w) s
/-- FFRC (R181). -/
def jobFfrc (w : WordA) : Job :=
  fpJob 0x37 w 1 4 fun v xs => frcF (aRm v w) (fx xs 0)
/-- FFRC (R181): its step. -/
def execFfrc (w : WordA) (s : State) : Out State := runJob (jobFfrc w) s
/-- FLDEXP (R181). -/
def jobFldexp (w : WordA) : Job :=
  aluJob 0x38 w 2 true none [true, false] (aType w [8] ++ rmUpTo w 4 ++ modsZero w 1) fun v _ xs =>
    fres v.w.fmode (ldexpF (aRm v w) (aFsrc v w 0 (xs.getD 0 0)) (intOf 32 true (xs.getD 1 0).toNat))
/-- FLDEXP (R181): its step. -/
def execFldexp (w : WordA) (s : State) : Out State := runJob (jobFldexp w) s

/-! ## Approximate functions -/

/-- The integer square root, bit by bit from 2^k. -/
def isqrtFrom (n : Nat) : Nat → Nat → Nat
  | 0, r => r
  | k + 1, r => isqrtFrom n k (if (r + 2 ^ k) * (r + 2 ^ k) ≤ n then r + 2 ^ k else r)

/-- The square root of a positive FP32 value rounded down to 24 bits, and whether it is exact. -/
def sqrtDown (x : Rat) : Rat × Bool :=
  let e := (ratLog2 x) / 2
  let y := (x * pow2 (2 * (23 - e))).floor.toNat
  let r := isqrtFrom y 25 0
  let q := ((r : Nat) : Rat) * pow2 (e - 23)
  (q, decide (q * q = x))

/-- The FP32 spacing at a positive value. -/
def ulpAt (a : Rat) : Rat := quantum fp32 a

/-- A candidate of the hardware where it lies within a bound, else a value that does (R116). -/
def within (ok : FVal → Bool) (cand : W32) (else' : FVal) : FVal := if ok (f32 cand) then f32 cand else else'

/-- The reciprocal of a value read by FRCP, whose bits are `b` (Table 5.3); past the FP32 range the value is free. -/
def rcpF (b : W32) (a : FVal) : FVal × Flags :=
  match a with
  | .nan sig => (.nan false, flagIf sig flInvalid)
  | .inf n => (.num n 0, 0)
  | .num n x =>
    if x = 0 then (.inf n, flDivZero)
    else
      let y := 1 / x
      let r := roundTo fp32 .rne n y
      if r.2 = 0 then r
      else if maxFinite fp32 < ratAbs y then (f32 (Config.frcp b), flInexact)
      else
        (within (fun c => decide (c = r.1) || (match c with
          | .num k z => decide (k = n) && decide (ratAbs (z - y) ≤ ulpAt (ratAbs y))
          | _ => false)) (Config.frcp b) r.1, flInexact)

/-- The square root of a value (Table 5.3). -/
def sqrtF (b : W32) (a : FVal) : FVal × Flags :=
  match a with
  | .nan sig => (.nan false, flagIf sig flInvalid)
  | .inf n => if n then (.nan false, flInvalid) else (.inf false, 0)
  | .num n x =>
    if x = 0 then (.num n 0, 0)
    else if n then (.nan false, flInvalid)
    else
      let q := sqrtDown x
      if q.2 then (.num false q.1, 0)
      else
        let u := ulpAt q.1
        (within (fun c => match c with
          | .num false z => (decide (z ≤ u) || decide ((z - u) * (z - u) ≤ x)) && decide (x ≤ (z + u) * (z + u))
          | _ => false) (Config.fsqrt b) (.num false q.1), flInexact)

/-- The reciprocal square root of a value (Table 5.3). -/
def rsqF (b : W32) (a : FVal) : FVal × Flags :=
  match a with
  | .nan sig => (.nan false, flagIf sig flInvalid)
  | .inf n => if n then (.nan false, flInvalid) else (.num false 0, 0)
  | .num n x =>
    if x = 0 then (.inf n, flDivZero)
    else if n then (.nan false, flInvalid)
    else
      let q := sqrtDown (1 / x)
      let u := ulpAt q.1
      (within (fun c => match c with
        | .num false z => (decide (z ≤ u) || decide ((z - u) * (z - u) * x ≤ 1)) && decide (1 ≤ (z + u) * (z + u) * x)
        | _ => false) (Config.frsq b) (.num false q.1), flInexact)

/-- The base-2 exponential of a value (Table 5.3). -/
def exp2F (b : W32) (a : FVal) : FVal × Flags :=
  match a with
  | .nan sig => (.nan false, flagIf sig flInvalid)
  | .inf n => if n then (.num false 0, 0) else (.inf false, 0)
  | .num _ x =>
    if 128 ≤ x then (.inf false, flOverflow ||| flInexact)
    else if x.den = 1 ∧ -149 ≤ x then (.num false (pow2 x.num), 0)
    else
      let y := exactExp2 x
      (within (nearTo y (2 * ulpAt y)) (Config.fexp2 b) (nearest y), flInexact)

/-- The base-2 logarithm of a value (Table 5.3). -/
def log2F (b : W32) (a : FVal) : FVal × Flags :=
  match a with
  | .nan sig => (.nan false, flagIf sig flInvalid)
  | .inf n => if n then (.nan false, flInvalid) else (.inf false, 0)
  | .num n x =>
    if x = 0 then (.inf true, flDivZero)
    else if n then (.nan false, flInvalid)
    else if x = pow2 (ratLog2 x) then (.num (decide (ratLog2 x < 0)) ((ratLog2 x : Int) : Rat), 0)
    else
      let y := exactLog2 x
      let bound := if 1 / 2 ≤ x ∧ x ≤ 2 then pow2 (-22) else 2 * ulpAt (ratAbs y)
      (within (nearTo y bound) (Config.flog2 b) (nearest y), flInexact)

/-- sin(2πx) (Table 5.3). -/
def sinF (b : W32) (a : FVal) : FVal × Flags :=
  match a with
  | .nan sig => (.nan false, flagIf sig flInvalid)
  | .inf _ => (.nan false, flInvalid)
  | .num n x =>
    if (x * 2).den = 1 then (.num n 0, 0)
    else if (x * 4).den = 1 then
      let up := decide ((x * 4).num % 4 = 1)
      (.num (!up) (if up then 1 else -1), 0)
    else (within (nearTo (exactSin x) (pow2 (-22))) (Config.fsin b) (nearest (exactSin x)), flInexact)

/-- cos(2πx) (Table 5.3). -/
def cosF (b : W32) (a : FVal) : FVal × Flags :=
  match a with
  | .nan sig => (.nan false, flagIf sig flInvalid)
  | .inf _ => (.nan false, flInvalid)
  | .num _ x =>
    if x.den = 1 then (.num false 1, 0)
    else if (x * 2).den = 1 then (.num true (-1), 0)
    else if (x * 4).den = 1 then (.num false 0, 0)
    else (within (nearTo (exactCos x) (pow2 (-22))) (Config.fcos b) (nearest (exactCos x)), flInexact)

/-- A long-latency word of an approximate function (R182). -/
def approxJob (opc : BitVec 8) (w : WordA) (f : W32 → FVal → FVal × Flags) : Job :=
  aluJob opc w 1 true (some w.hd.md) [true] (aType w [8] ++ modsZero w 1) fun v _ xs =>
    let a := aFsrc v w 0 (xs.getD 0 0)
    fres v.w.fmode (f (f32Bits a) a)

/-- FRCP (R182). -/
def jobFrcp (w : WordA) : Job :=
  approxJob 0x40 w rcpF
/-- FRCP (R182): its step. -/
def execFrcp (w : WordA) (s : State) : Out State := runJob (jobFrcp w) s
/-- FRSQ (R182). -/
def jobFrsq (w : WordA) : Job :=
  approxJob 0x41 w rsqF
/-- FRSQ (R182): its step. -/
def execFrsq (w : WordA) (s : State) : Out State := runJob (jobFrsq w) s
/-- FSQRT (R182). -/
def jobFsqrt (w : WordA) : Job :=
  approxJob 0x42 w sqrtF
/-- FSQRT (R182): its step. -/
def execFsqrt (w : WordA) (s : State) : Out State := runJob (jobFsqrt w) s
/-- FEXP2 (R182). -/
def jobFexp2 (w : WordA) : Job :=
  approxJob 0x43 w exp2F
/-- FEXP2 (R182): its step. -/
def execFexp2 (w : WordA) (s : State) : Out State := runJob (jobFexp2 w) s
/-- FLOG2 (R182). -/
def jobFlog2 (w : WordA) : Job :=
  approxJob 0x44 w log2F
/-- FLOG2 (R182): its step. -/
def execFlog2 (w : WordA) (s : State) : Out State := runJob (jobFlog2 w) s
/-- FSIN (R182). -/
def jobFsin (w : WordA) : Job :=
  approxJob 0x45 w sinF
/-- FSIN (R182): its step. -/
def execFsin (w : WordA) (s : State) : Out State := runJob (jobFsin w) s
/-- FCOS (R182). -/
def jobFcos (w : WordA) : Job :=
  approxJob 0x46 w cosF
/-- FCOS (R182): its step. -/
def execFcos (w : WordA) (s : State) : Out State := runJob (jobFcos w) s

/-- LONG_ALU_COMPLETE (R166): the pending destination of an approximate function is written. -/
def execLongAluComplete (core slot op : Nat) (s : State) : Out State :=
  runDevice (onHall (hallOfCore core) fun d => completeKind d core slot .alu op) s

/-! ## Packed and dot-product arithmetic -/

/-- The packed 16-bit element `i` of a source, with ABS and NEG (R183). -/
def halfOf (f : Fmt) (neg abs : Bool) (x : W32) (i : Nat) : FVal :=
  let e : BitVec 16 := x.extractLsb' (16 * i) 16
  let y := if abs then e &&& 0x7FFF#16 else e
  decodeF f (if neg then y ^^^ 0x8000#16 else y).toNat

/-- The two results of a packed word in one register, with their flags (R183). -/
def packHalves (f : Fmt) (g : Nat → FVal × Flags) : W32 × Flags :=
  let lo := g 0
  let hi := g 1
  (BitVec.ofNat 32 (encodeF f hi.1 * 65536 + encodeF f lo.1), lo.2 ||| hi.2)

/-- The packed format of a type code: FP16 or BF16. -/
def packFmt (t : Nat) : Fmt := if t = 9 then fp16 else bf16

/-- A packed word of `n` sources (R183). -/
def packJob (opc : BitVec 8) (w : WordA) (n rmHi : Nat) (f : Fmt → Rm → List FVal → FVal × Flags) : Job :=
  aluJob opc w n true none noFp (aType w [9, 10] ++ rmUpTo w rmHi ++ modsZero w n) fun v _ xs =>
    let t := packFmt (subLo w.sub)
    packHalves t fun i =>
      f t (aRm v w) (((List.range xs.length).zip xs).map fun e => halfOf t (negOf w e.1) (absOf w e.1) e.2 i)

/-- HADD2 (R183). -/
def jobHadd2 (w : WordA) : Job :=
  packJob 0x50 w 2 4 fun t m xs => addF t m (fx xs 0) (fx xs 1)
/-- HADD2 (R183): its step. -/
def execHadd2 (w : WordA) (s : State) : Out State := runJob (jobHadd2 w) s
/-- HMUL2 (R183). -/
def jobHmul2 (w : WordA) : Job :=
  packJob 0x51 w 2 4 fun t m xs => prodF t m (fx xs 0) (fx xs 1)
/-- HMUL2 (R183): its step. -/
def execHmul2 (w : WordA) (s : State) : Out State := runJob (jobHmul2 w) s
/-- HFMA2 (R183). -/
def jobHfma2 (w : WordA) : Job :=
  packJob 0x52 w 3 4 fun t m xs => fmaF t m (fx xs 0) (fx xs 1) (fx xs 2)
/-- HFMA2 (R183): its step. -/
def execHfma2 (w : WordA) (s : State) : Out State := runJob (jobHfma2 w) s
/-- HMIN2 (R183). -/
def jobHmin2 (w : WordA) : Job :=
  packJob 0x53 w 2 0 fun _ _ xs => minF (fx xs 0) (fx xs 1)
/-- HMIN2 (R183): its step. -/
def execHmin2 (w : WordA) (s : State) : Out State := runJob (jobHmin2 w) s
/-- HMAX2 (R183). -/
def jobHmax2 (w : WordA) : Job :=
  packJob 0x54 w 2 0 fun _ _ xs => maxF (fx xs 0) (fx xs 1)
/-- HMAX2 (R183): its step. -/
def execHmax2 (w : WordA) (s : State) : Out State := runJob (jobHmax2 w) s

/-- An exact dot product added to c and rounded once to FP32 (R184). -/
def dotF (m : Rm) (ps : List (FVal × FVal)) (c : FVal) : FVal × Flags :=
  let qs := ps.map fun p => mulF p.1 p.2
  let t := sumF m (qs.map (·.1) ++ [c])
  let r := roundF fp32 m t.1
  (r.1, r.2 ||| t.2 ||| orFlags (qs.map (·.2)) ||| orFlags (ps.map fun p => sigFlag p.1 ||| sigFlag p.2) ||| sigFlag c)

/-- NEG and ABS bits of a and b are zero. -/
def modsOnlyC (w : WordA) : List Check := [c14 (decide (w.neg.toNat / 2 ≠ 0)) 6, c14 (decide (w.abs.toNat / 2 ≠ 0)) 3]

/-- HDOT2 (R184). -/
def jobHdot2 (w : WordA) : Job :=
  aluJob 0x55 w 3 true none [false, false, true] (aType w [9, 10] ++ rmUpTo w 4 ++ modsOnlyC w) fun v _ xs =>
    let t := packFmt (subLo w.sub)
    let e (x : W32) (i : Nat) : FVal := halfOf t false false x i
    fres v.w.fmode (dotF (aRm v w) ((List.range 2).map fun i => (e (xs.getD 0 0) i, e (xs.getD 1 0) i))
      (aFsrc v w 2 (xs.getD 2 0)))
/-- HDOT2 (R184): its step. -/
def execHdot2 (w : WordA) (s : State) : Out State := runJob (jobHdot2 w) s

/-- The byte format of a type code: E4M3 or E5M2. -/
def byteFmt (t : Nat) : Fmt := if t = 11 then e4m3 else e5m2

/-- QDOT4 (R184). -/
def jobQdot4 (w : WordA) : Job :=
  aluJob 0x56 w 3 true none [false, false, true]
    ([c14 (!([11, 12].contains (subLo w.sub))) 11, c14 (!([11, 12].contains (subHi w.sub))) 15] ++ rmUpTo w 4 ++
      modsOnlyC w) fun v _ xs =>
    fres v.w.fmode (dotF (aRm v w) ((List.range 4).map fun i =>
      (decodeF (byteFmt (subLo w.sub)) (byteOf (xs.getD 0 0) i), decodeF (byteFmt (subHi w.sub)) (byteOf (xs.getD 1 0) i)))
      (aFsrc v w 2 (xs.getD 2 0)))
/-- QDOT4 (R184): its step. -/
def execQdot4 (w : WordA) (s : State) : Out State := runJob (jobQdot4 w) s

/-- FADDI (R170). -/
def jobFaddi (w : WordI) : Job :=
  immJob 0x2D w true true [c14 (decide (4 < rmField w.hd.md)) 50] fun v a =>
    fres v.w.fmode (addF fp32 (rmOf v.w.fmode (rmField w.hd.md)) (fsrc v.w.fmode false false a)
      (fsrc v.w.fmode false false w.imm))
/-- FADDI (R170): its step. -/
def execFaddi (w : WordI) (s : State) : Out State := runJob (jobFaddi w) s
/-- FMULI (R170). -/
def jobFmuli (w : WordI) : Job :=
  immJob 0x2E w true true [c14 (decide (4 < rmField w.hd.md)) 50] fun v a =>
    fres v.w.fmode (prodF fp32 (rmOf v.w.fmode (rmField w.hd.md)) (fsrc v.w.fmode false false a)
      (fsrc v.w.fmode false false w.imm))
/-- FMULI (R170): its step. -/
def execFmuli (w : WordI) (s : State) : Out State := runJob (jobFmuli w) s

end Sys2Proof.Machine
end

