-- ==== Sys2Proof/Machine/Scalar.lean ====
section
/-! DEFINITION. The SCALAR class: arithmetic on scalar registers and exchanges with lanes (R194 to R199). -/

namespace Sys2Proof.Machine

/-- The write of a scalar result (R194): an s register whole, bits [31:0] of a b register. -/
def scalarPut (op : Operand) (x : W64) : List (RegLoc × W64) :=
  match op with
  | .s n => [(.sreg n, x)]
  | .b n => [(.breg n, x)]
  | _ => []

/-- A scalar word's source checks for its first `n` sources. -/
def scalarSrcs (w : WordA) (n : Nat) : List Check :=
  let one (k : Nat) (op : Operand) (pos : Nat) : Check :=
    if k < n then c13 (!isScalarSrc op) pos else c14 (!isUnused op) pos
  [one 0 w.a 39, one 1 w.b 31, one 2 w.c 23, c14 w.low 0]

/-- A scalar word of `n` sources in format A. -/
def scalarJob (opc : BitVec 8) (w : WordA) (n : Nat) (sat : Bool) (legal : List Check)
    (f : W64 → W64 → W64 → W64 × Flags) : Job :=
  { code := w.toBits opc, g := w.hd.g, lanes := .once, u := w.u, refs := refsOf (w.d :: aSrcs w n)
    legal := fun _ => [c13 (!isScalarDst w.d) 47] ++ scalarSrcs w n ++ aPlain w sat ++ legal
    act := fun v _ =>
      let r := f (src64 v w.a) (src64 v w.b) (src64 v w.c)
      .done (putWrites v (v.put v.d (addFlags r.2)) (scalarPut w.d r.1)) .onward }

/-- The width of a scalar type code: I64 and N64 are 64 bits, I32 and N32 32 (R194). -/
def scalarWidth (t : Nat) : Nat := if t % 4 = 3 then 64 else 32

/-- Whether a scalar type code is signed (R194). -/
def scalarSigned (t : Nat) : Bool := decide (t < 4)

/-- A source read in a scalar type (R194). -/
def scalarVal (t : Nat) (x : W64) : Int := intOf (scalarWidth t) (scalarSigned t) x.toNat

/-- A result of a scalar type extended to 64 bits (R194). -/
def scalarExt (t : Nat) (x : Int) : W64 := wrap 64 (intOf (scalarWidth t) (scalarSigned t) (wrap (scalarWidth t) x).toNat)

/-- A typed scalar word (R195). -/
def scalarInt (opc : BitVec 8) (w : WordA) (n : Nat) (sat : Bool) (f : Nat → Int → Int → Int → Int) : Job :=
  scalarJob opc w n sat (aType w [2, 3, 6, 7]) fun a b c =>
    let t := subLo w.sub
    let r := narrowInt (scalarWidth t) (scalarSigned t) (satField w.hd.md)
      (f (scalarWidth t) (scalarVal t a) (scalarVal t b) (scalarVal t c))
    (scalarExt t r.1, r.2)

/-- A scalar shift (R195): the width's bits of a, shifted by bits of b read unsigned. -/
def scalarShift (opc : BitVec 8) (w : WordA) (f : (n : Nat) → BitVec n → Nat → BitVec n) : Job :=
  scalarJob opc w 2 false (aType w [2, 3, 6, 7]) fun a b _ =>
    let t := subLo w.sub
    let n := scalarWidth t
    (scalarExt t ((f n (a.setWidth n) (b.setWidth n).toNat).toNat : Int), 0)

/-- SADD (R195). -/
def jobSadd (w : WordA) : Job :=
  scalarInt 0x01 w 2 true fun _ a b _ => a + b
/-- SADD (R195): its step. -/
def execSadd (w : WordA) (s : State) : Out State := runJob (jobSadd w) s
/-- SSUB (R195). -/
def jobSsub (w : WordA) : Job :=
  scalarInt 0x02 w 2 true fun _ a b _ => a - b
/-- SSUB (R195): its step. -/
def execSsub (w : WordA) (s : State) : Out State := runJob (jobSsub w) s
/-- SMUL (R195). -/
def jobSmul (w : WordA) : Job :=
  scalarInt 0x03 w 2 true fun _ a b _ => a * b
/-- SMUL (R195): its step. -/
def execSmul (w : WordA) (s : State) : Out State := runJob (jobSmul w) s
/-- SMULH (R195). -/
def jobSmulh (w : WordA) : Job :=
  scalarInt 0x04 w 2 false fun n a b _ => a * b / ((2 ^ n : Nat) : Int)
/-- SMULH (R195): its step. -/
def execSmulh (w : WordA) (s : State) : Out State := runJob (jobSmulh w) s
/-- SMAD (R195). -/
def jobSmad (w : WordA) : Job :=
  scalarInt 0x05 w 3 true fun _ a b c => a * b + c
/-- SMAD (R195): its step. -/
def execSmad (w : WordA) (s : State) : Out State := runJob (jobSmad w) s
/-- SMIN (R195). -/
def jobSmin (w : WordA) : Job :=
  scalarInt 0x06 w 2 false fun _ a b _ => min a b
/-- SMIN (R195): its step. -/
def execSmin (w : WordA) (s : State) : Out State := runJob (jobSmin w) s
/-- SMAX (R195). -/
def jobSmax (w : WordA) : Job :=
  scalarInt 0x07 w 2 false fun _ a b _ => max a b
/-- SMAX (R195): its step. -/
def execSmax (w : WordA) (s : State) : Out State := runJob (jobSmax w) s
/-- SSHL (R195). -/
def jobSshl (w : WordA) : Job :=
  scalarShift 0x08 w fun _ a k => shlBits a k
/-- SSHL (R195): its step. -/
def execSshl (w : WordA) (s : State) : Out State := runJob (jobSshl w) s
/-- SSHR (R195). -/
def jobSshr (w : WordA) : Job :=
  scalarShift 0x09 w fun _ a k => shrBits a k
/-- SSHR (R195): its step. -/
def execSshr (w : WordA) (s : State) : Out State := runJob (jobSshr w) s
/-- SSAR (R195). -/
def jobSsar (w : WordA) : Job :=
  scalarShift 0x0A w fun _ a k => sarBits a k
/-- SSAR (R195): its step. -/
def execSsar (w : WordA) (s : State) : Out State := runJob (jobSsar w) s
/-- SBLUT (R195). -/
def jobSblut (w : WordA) : Job :=
  scalarJob 0x0B w 3 false [] fun a b c => (blutBits w.sub a b c, 0)
/-- SBLUT (R195): its step. -/
def execSblut (w : WordA) (s : State) : Out State := runJob (jobSblut w) s
/-- SMOV (R195). -/
def jobSmov (w : WordA) : Job :=
  scalarJob 0x0C w 1 false (subZero w) fun a _ _ => (a, 0)
/-- SMOV (R195): its step. -/
def execSmov (w : WordA) (s : State) : Out State := runJob (jobSmov w) s

/-- A scalar word in format I (R196). -/
def scalarImm (opc : BitVec 8) (w : WordI) (useA : Bool) (f : View → W64) : Job :=
  { code := w.toBits opc, g := w.hd.g, lanes := .once, u := iUni w
    refs := refsOf (w.d :: if useA then [w.a] else [])
    legal := fun _ => [c13 (!isScalarDst w.d) 47,
      if useA then c13 (!isScalarSrc w.a) 39 else c14 (!isUnused w.a) 39] ++ iRmZero w
    act := fun v _ => .done (putWrites v v.d (scalarPut w.d (f v))) .onward }

/-- SMOVI (R196). -/
def jobSmovi (w : WordI) : Job :=
  scalarImm 0x0D w false fun _ => w.imm.signExtend 64
/-- SMOVI (R196): its step. -/
def execSmovi (w : WordI) (s : State) : Out State := runJob (jobSmovi w) s
/-- SMOVH (R196). -/
def jobSmovh (w : WordI) : Job :=
  scalarImm 0x0E w false fun v => w.imm ++ (src64 v w.d).setWidth 32
/-- SMOVH (R196): its step. -/
def execSmovh (w : WordI) (s : State) : Out State := runJob (jobSmovh w) s
/-- SADDI (R196). -/
def jobSaddi (w : WordI) : Job :=
  scalarImm 0x0F w true fun v => src64 v w.a + w.imm.signExtend 64
/-- SADDI (R196): its step. -/
def execSaddi (w : WordI) (s : State) : Out State := runJob (jobSaddi w) s

/-- SCMP (R197): one test, written in every active lane. -/
def jobScmp (w : WordP) : Job :=
  { code := w.toBits 0x10, g := w.hd.g, lanes := .once, u := w.u, refs := refsOf [w.a, w.b]
    legal := fun _ => [c13 (!isScalarSrc w.a) 39, c13 (!isScalarSrc w.b) 31,
      c14 (!([2, 3, 6, 7].contains (subLo w.sub))) 11, c14 (decide (6 ≤ subHi w.sub)) 15] ++ pPlain w
    act := fun v ex =>
      let t := subLo w.sub
      let r := condInt (subHi w.sub) (scalarVal t (src64 v w.a)) (scalarVal t (src64 v w.b))
      .done (v.put v.d (predResult v ex w fun _ => r)) .onward }
/-- SCMP (R197): its step. -/
def execScmp (w : WordP) (s : State) : Out State := runJob (jobScmp w) s

/-- SLEA (R198). -/
def jobSlea (w : WordA) : Job :=
  scalarJob 0x11 w 3 false [c14 (decide (8 ≤ w.sub.toNat)) 15] fun a b c =>
    (a + b <<< w.sub.toNat + c, 0)
/-- SLEA (R198): its step. -/
def execSlea (w : WordA) (s : State) : Out State := runJob (jobSlea w) s

/-- The lane that READLANE and WRITELANE name (R199). -/
def namedLane (v : View) (op : Operand) : Nat := (src64 v op).toNat % v.width

/-- The checks that READLANE and WRITELANE share: B scalar, the rest of the word zero. -/
def laneChecks (w : WordA) : List Check :=
  [c13 (!(isS w.b || isB w.b || isInline w.b)) 31, c14 (!isUnused w.c) 23, c14 w.low 0] ++ aPlain w false ++ subZero w

/-- READLANE (R199). -/
def jobReadlane (w : WordA) : Job :=
  { code := w.toBits 0x20, g := w.hd.g, lanes := .once, u := w.u, refs := refsOf [w.d, w.a, w.b]
    legal := fun _ => [c13 (!isS w.d) 47, c13 (!isV w.a) 39] ++ laneChecks w
    act := fun v _ =>
      .done (putWrites v v.d (scalarPut w.d
        ((vget v.d v.core v.w (namedLane v w.b) (regNo w.a)).setWidth 64))) .onward }
/-- READLANE (R199): its step. -/
def execReadlane (w : WordA) (s : State) : Out State := runJob (jobReadlane w) s

/-- WRITELANE (R199): lane t is written whether or not it is active. -/
def jobWritelane (w : WordA) : Job :=
  { code := w.toBits 0x21, g := w.hd.g, lanes := .once, u := w.u, refs := refsOf [w.d, w.a, w.b]
    legal := fun _ => [c13 (!isV w.d) 47, c13 (!isScalarSrc w.a) 39] ++ laneChecks w
    act := fun v _ =>
      .done (putWrites v v.d (vWrites v (regNo w.d) [namedLane v w.b]
        fun _ => (src64 v w.a).setWidth 32)) .onward }
/-- WRITELANE (R199): its step. -/
def execWritelane (w : WordA) (s : State) : Out State := runJob (jobWritelane w) s

end Sys2Proof.Machine
end

