-- ==== Sys2Proof/Machine/SpecialRegs.lean ====
section
/-! DEFINITION. Special registers and counters (Tables 3.4, 7.14, 8.3, 11.4, 12.5 and 18.2; R71, R155, R200, R201). -/

namespace Sys2Proof.Machine

/-- Flight `f` of the die, its floor and class. -/
def flightOf (d : Device) (f : Nat) : Flight := tblGet blankFlight d.flights f

/-- The flight of a hall (R14). -/
def flightOfHall (h : Nat) : Nat := h / 2

/-- A register that holds one value a lane (Tables 3.4 and 11.4). -/
def srPerLane (code : Nat) : Bool := [0x002, 0x005, 0x006, 0x007, 0x0C1].contains code

/-- The registers that WRSR may write (Tables 3.4, 11.4 and 18.2). -/
def srWritable (code : Nat) : Bool :=
  [0x000, 0x001, 0x002, 0x040, 0x0C0, 0x100, 0x101, 0x102, 0x140, 0x141, 0x142].contains code

/-- The codes that Tables 7.14, 11.4, 12.5 and 18.2 assign. -/
def srKnown (code : Nat) : Bool :=
  decide (code ≤ 0x00A) || (decide (0x040 ≤ code) && decide (code ≤ 0x042)) ||
    (decide (0x080 ≤ code) && decide (code ≤ 0x084)) || (decide (0x0C0 ≤ code) && decide (code ≤ 0x0C2)) ||
    (decide (0x100 ≤ code) && decide (code ≤ 0x102)) || (decide (0x140 ≤ code) && decide (code ≤ 0x142))

/-- A privileged code (R155). -/
def srPrivileged (code : Nat) : Bool := decide (0x100 ≤ code) && decide (code ≤ 0x1FF)

/-- sr.bsblk of a lane (R61). -/
def bsblkOf (w : Wave) (l : Nat) : Nat :=
  match w.trap.sf with
  | some s => if s.lanes.getLsbD l then spillBlock w s.fill l else 0
  | none => 0

/-- A register of a lane (Tables 3.4 and 11.4). -/
def srLane (w : Wave) (code l : Nat) : W32 :=
  match code with
  | 0x002 => tblGet 0#32 w.lfsr l
  | 0x005 => BitVec.ofNat 32 (wbOf w l)
  | 0x006 => BitVec.ofNat 32 (oldOf w l)
  | 0x007 => BitVec.ofNat 32 (bsblkOf w l % 2 ^ 26)
  | _ => BitVec.ofNat 32 (nat1 (w.gfx.helper.getLsbD l))

/-- The index of the clause's next word, 0 where the next is a header (R56). -/
def nextWord (v : View) : Nat := (v.w.pos.clpos.toNat + 1) % (field v.hdr 56 4 + 1)

/-- A register of the wave, its block or its hall (Tables 3.4, 11.4, 12.5 and 18.2). -/
def srWave (v : View) (code : Nat) : W64 :=
  let h := hallOf v.d v.hall
  let t := v.w.trap
  match code with
  | 0x000 => v.w.fflags.setWidth 64
  | 0x001 => v.w.fmode.setWidth 64
  | 0x003 => BitVec.ofNat 64 (nextWord v)
  | 0x004 => v.p.depth.setWidth 64
  | 0x008 => t.trcause.setWidth 64
  | 0x009 => BitVec.ofNat 64 (sbaseOf v.blk)
  | 0x00A => v.blk.mmap.setWidth 64
  | 0x040 => t.trvec.setWidth 64
  | 0x041 => t.trlvl.setWidth 64
  | 0x042 => t.trdepth.setWidth 64
  | 0x080 => BitVec.ofNat 64 ((flightOf v.d (flightOfHall v.hall)).floor.toNat * 256 + h.pw.cls.toNat * 16 + h.ck.cap.toNat)
  | 0x081 => v.blk.preq.setWidth 64
  | 0x082 => (h.pw.stallm ++ h.pw.busy).setWidth 64
  | 0x083 => h.pw.erem.setWidth 64
  | 0x084 => h.pw.irem.setWidth 64
  | 0x0C0 => v.w.gfx.dsb.setWidth 64
  | 0x0C2 => BitVec.ofNat 64 v.w.gfx.verts.length
  | 0x100 => t.bsbase.setWidth 64
  | 0x101 => t.bslane.setWidth 64
  | 0x102 => t.spillh.setWidth 64
  | 0x140 => t.strvec.setWidth 64
  | 0x141 => t.wdlim.setWidth 64
  | 0x142 => t.trfbase.setWidth 64
  | _ => 0

/-- A register of the wave written (Tables 3.4, 11.4 and 18.2). -/
def srPut (code : Nat) (x : W64) (w : Wave) : Wave :=
  match code with
  | 0x000 => { w with fflags := x.setWidth 7 }
  | 0x001 => { w with fmode := x.setWidth 3 }
  | 0x040 => { w with trap := { w.trap with trvec := x.setWidth 48 } }
  | 0x0C0 => { w with gfx := { w.gfx with dsb := x.setWidth 48 } }
  | 0x100 => { w with trap := { w.trap with bsbase := x.setWidth 48 } }
  | 0x101 => { w with trap := { w.trap with bslane := x.setWidth 32 } }
  | 0x102 => { w with trap := { w.trap with spillh := x.setWidth 48 } }
  | 0x140 => { w with trap := { w.trap with strvec := x.setWidth 48 } }
  | 0x141 => { w with trap := { w.trap with wdlim := x.setWidth 6 } }
  | 0x142 => { w with trap := { w.trap with trfbase := x.setWidth 48 } }
  | _ => w

/-- The generator state that a write of sr.lfsr leaves (R114, R200). -/
def lfsrOf (x : W32) : W32 := if x = 0 then 1 else x

/-- Generator states written in lanes. -/
def putLfsr (ls : List Nat) (x : Nat → W32) (w : Wave) : Wave :=
  let t := ls.foldl (fun t l => tblSet t l (x l)) w.lfsr
  { w with lfsr := t }

/-- The checks of a special-register code (R155, R200). -/
def srChecks (w : WordI) (v : View) (write : Bool) : List Check :=
  let code := w.imm.toNat % 4096
  [c16 (srPrivileged code && !v.priv), c16 (write && srKnown code && !srWritable code),
   c14 (!srKnown code) 11, c14 (decide (4096 ≤ w.imm.toNat)) 31] ++ iRmZero w

/-- RDSR (R200). A register wider than 32 bits read into vector registers gives its low 32 bits (DESIGN CHOICE, log 123). -/
def jobRdsr (w : WordI) : Job :=
  let code := w.imm.toNat % 4096
  { code := w.toBits 0x30, g := w.hd.g, lanes := .once, u := iUni w, refs := refsOf [w.d]
    legal := fun v => [c13 (!(isV w.d || isS w.d)) 47, c14 (!isUnused w.a) 39] ++ srChecks w v false
    act := fun v ex =>
      let x (l : Nat) : W64 := if srPerLane code then (srLane v.w code l).setWidth 64 else srWave v code
      let ws := match w.d with
        | .s n => [(.sreg n, x 0)]
        | d => dstWrites v d ex fun l => (x l).setWidth 32
      .done (putWrites v v.d ws) .onward }
/-- RDSR (R200): its step. -/
def execRdsr (w : WordI) (s : State) : Out State := runJob (jobRdsr w) s

/-- A value that sr.wdlim does not take (Table 18.6). -/
def badLimit (x : Nat) : Bool := decide (x ≠ 0) && (decide (x < 10) || decide (40 < x))

/-- WRSR (R200). -/
def jobWrsr (w : WordI) : Job :=
  let code := w.imm.toNat % 4096
  let value (v : View) (l : Nat) : W64 := match w.a with | .v n => (vget v.d v.core v.w l n).setWidth 64 | op => src64 v op
  { code := w.toBits 0x31, g := w.hd.g, lanes := .once, u := iUni w, refs := refsOf [w.a]
    legal := fun v => [c13 (!(isV w.a || isScalarSrc w.a)) 39, c14 (!isUnused w.d) 47] ++ srChecks w v true ++
      [c14 (decide (code = 0x141) && badLimit (value v v.lane0).toNat) 39]
    act := fun v ex =>
      if code = 0x002 then
        .done (v.put v.d (putLfsr (lanesOf v.width ex) fun l => lfsrOf ((value v l).setWidth 32))) .onward
      else .done (v.put v.d (srPut code (value v v.lane0))) .onward }
/-- WRSR (R200): its step. -/
def execWrsr (w : WordI) (s : State) : Out State := runJob (jobWrsr w) s

/-- A counter of the wave (Table 8.3). -/
def counterOf (v : View) (code : Nat) : W64 :=
  match code with
  | 0 => v.w.cnt.wcycle
  | 1 => v.d.fcycle
  | 2 => v.w.cnt.wissue
  | 3 => v.w.cnt.spass
  | _ => v.w.cnt.grain

/-- RDCNT (R201). -/
def jobRdcnt (w : WordI) : Job :=
  { code := w.toBits 0x32, g := w.hd.g, lanes := .once, u := iUni w, refs := refsOf [w.d]
    legal := fun _ => [c13 (!isS w.d) 47, c14 (!isUnused w.a) 39, c14 (decide (256 ≤ w.imm.toNat)) 31,
      c14 (decide (4 < w.imm.toNat % 256)) 7] ++ iRmZero w
    act := fun v _ => .done (putWrites v v.d (scalarPut w.d (counterOf v (w.imm.toNat % 256)))) .onward }
/-- RDCNT (R201): its step. -/
def execRdcnt (w : WordI) (s : State) : Out State := runJob (jobRdcnt w) s

end Sys2Proof.Machine
end

