-- ==== Sys2Proof/Machine/Control.lean ====
section
/-! DEFINITION. Control transfer: branches, calls with the sliding window, returns, traps (R58 to R61, R202 to R207, R387
to R389, R418), and HALT (R210). -/

namespace Sys2Proof.Machine

/-- A field of a K-format word that is used: an s register or the inline 0 (R202, R157). -/
def kBase (op : Operand) : Check := c13 (!(isS op || isZeroCode op)) 47

/-- The per-lane index field of a K-format word: a vector register or the inline 0 (R202, R157). -/
def kIndex (op : Operand) : Check := c13 (!(isV op || isZeroCode op)) 39

/-- The checks of a K-format word: unused fields zero (R202). `a`, `b` and `off` tell which fields the entry names. -/
def kChecks (w : WordK) (a b off : Bool) : List Check :=
  [if a then kBase w.a else c14 (!isUnused w.a) 47, if b then kIndex w.b else c14 (!isUnused w.b) 39,
   c14 (!off && decide (w.off ≠ 0)) 31]

/-- MOD is zero (R202). -/
def kPlain (w : WordK) : Check := c14 (decide (w.hd.md ≠ 0)) 51

/-- OFF is a multiple of 8 (R202). -/
def kOffset (w : WordK) : Check := c14 (decide (w.off.toNat % 8 ≠ 0)) 31

/-- A word of class CONTROL. -/
def controlJob (opc : BitVec 8) (w : WordK) (lanes : Lanes) (legal : View → List Check) (act : View → Mask → Eff) : Job :=
  { code := w.toBits opc, g := w.hd.g, lanes := lanes, refs := refsOf [w.a, w.b], legal := legal, act := act }

/-- The fall-through address of the view's clause (R141). -/
def View.fall (v : View) : VA := fallThrough v.p.pc v.hdr

/-- The target of a relative transfer (R202). -/
def relTarget (v : View) (w : WordK) : VA := v.fall + w.off.signExtend 48

/-- The target of lane `l` in an indirect transfer (R202). -/
def laneTarget (v : View) (w : WordK) (l : Nat) : VA :=
  (src64 v w.a).setWidth 48 + (src v [] w.b l).setWidth 48 + w.off.signExtend 48

/-- The path of lanes at a new place: neither yielded nor fresh. -/
def newPath (pc : VA) (depth : BitVec 16) (mask : Mask) (fresh : Bool) : Path :=
  { pc := pc, depth := depth, mask := mask, yielded := false, fresh := fresh }

/-- The view's wave changed and its running path placed by the word (R43, R44). -/
def placed (v : View) (f : Wave → Wave) : Eff := .done (v.put v.d f) (.placed true)

/-- A whole path moved (R203). -/
def moveAll (v : View) (pc : VA) : Eff := placed v fun w => setPc pc (unfresh w)

/-- Whether the running path yields at the clause boundary that its present word makes (R45). -/
def View.due (v : View) : Bool := v.w.pos.yieldDue && decide (v.w.trap.trlvl = 0)

/-- Lanes added to the first of some entries that is not empty. -/
def joinFirst (m : Mask) : List Path → List Path
  | [] => []
  | p :: t => if p.mask = 0 then p :: joinFirst m t else { p with mask := p.mask ||| m } :: t

/-- The entries that replace the running path where its active lanes have divided (R43): each is yielded where the path
yields at this boundary (DESIGN CHOICE, log 110). The lanes of the path that a spill or fill handler leaves inactive (R61)
stay with the first entry. -/
def dividedPaths (v : View) (new : List Path) : List Path :=
  let idle := v.p.mask &&& ~~~v.active
  let keep := new.filter fun p => decide (p.mask ≠ 0)
  (if keep = [] then [newPath v.fall v.p.depth idle false] else joinFirst idle keep).map fun p =>
    { p with yielded := v.due }

/-- The running path divided: lanes at their targets, the others at the fall-through address (R43, R203). -/
def divide (v : View) (ex : Mask) (target : Nat → VA) : Eff :=
  let gs := groupLanes ((lanesOf v.width ex).map fun l => (l, target l))
  placed v (replaceRun (dividedPaths v (gs.map (fun g => newPath g.1 v.p.depth g.2 false) ++
    [newPath v.fall v.p.depth (v.active &&& ~~~ex) false])))

/-- The trap of targets that are not 8-byte aligned (cause 0x17). -/
def badTarget (v : View) (ex : Mask) (target : Nat → VA) : Option Trap :=
  if (lanesOf v.width ex).any fun l => decide ((target l).toNat % 8 ≠ 0) then some (wordTrap v 0x17 ex 0) else none

/-- BRA (R203). -/
def jobBra (w : WordK) : Job :=
  controlJob 0x01 w .once (fun _ => kChecks w false false true ++ [kPlain w, kOffset w])
    fun v _ => moveAll v (relTarget v w)
/-- BRA (R203): its step. -/
def execBra (w : WordK) (s : State) : Out State := runJob (jobBra w) s

/-- BRV (R203). -/
def jobBrv (w : WordK) : Job :=
  controlJob 0x02 w .each (fun _ => kChecks w false false true ++ [kPlain w, kOffset w])
    fun v ex => divide v ex fun _ => relTarget v w
/-- BRV (R203): its step. -/
def execBrv (w : WordK) (s : State) : Out State := runJob (jobBrv w) s

/-- JMP (R203). -/
def jobJmp (w : WordK) : Job :=
  { controlJob 0x03 w .once (fun _ => kChecks w true false true ++ [kPlain w, kOffset w])
      (fun v _ => moveAll v (laneTarget v { w with b := .pos 0 } 0)) with
    early := fun v ex => badTarget v ex (laneTarget v { w with b := .pos 0 }) }
/-- JMP (R203): its step. -/
def execJmp (w : WordK) (s : State) : Out State := runJob (jobJmp w) s

/-- JMPI (R203). -/
def jobJmpi (w : WordK) : Job :=
  { controlJob 0x04 w .each (fun _ => kChecks w true true true ++ [kPlain w, kOffset w])
      (fun v ex => divide v ex (laneTarget v w)) with
    early := fun v ex => badTarget v ex (laneTarget v w) }
/-- JMPI (R203): its step. -/
def execJmpi (w : WordK) (s : State) : Out State := runJob (jobJmpi w) s

/-! ## Calls and returns -/

/-- Whether an NCALL of the wave is outstanding: calls, returns, spills and fills wait for it (R287). -/
def ncallOut (w : Wave) : Bool := w.ops.any fun o => decide (o.kind = .ncall)

/-- The lanes whose window would overrun the stack (R58). -/
def overLanes (w : Wave) (m : Mask) (f : Nat) : List Nat :=
  (lanesOf w.width m).filter fun l => decide (w.nstk + oldOf w l < wbOf w l + f + 120)

/-- Cause 0x22 for the lanes of a spill or fill that cannot be taken (R387). -/
def stackTrap (w : Wave) (fill : Bool) (ls : List Nat) : Option Trap :=
  let none' := decide (w.trap.spillh = 0)
  let bad := ls.filter fun l => none' || (!fill && decide (w.trap.bslane.toNat < 256 * (spillBlock w fill l + 1)))
  match bad with
  | [] => none
  | l :: _ => some { cause := 0x22, mask := maskOf bad, addr := 0,
                     info := BitVec.ofNat 64 (spillBlock w fill l % 2 ^ 32 * 2 ^ 32 + nat1 none') }

/-- What holds up a call for one of its targets: a trap or a spill. -/
inductive CallStop where
  | trap (t : Trap)
  | spill (lanes : Mask)

/-- The first thing that stops lanes entering a target (R60, R387, R388). -/
def callStop (v : View) (m : Mask) (f : Nat) : Option CallStop :=
  if v.p.depth = 0xFFFF#16 then some (.trap (wordTrap v 0x24 m 0))
  else
    match overLanes v.w m f with
    | [] => none
    | ls =>
      match stackTrap v.w false ls with
      | some t => some (.trap t)
      | none => some (.spill (maskOf ls))

/-- The registers and window of a lane that enters a call (R58). -/
def enterLane (v : View) (f : Nat) (d : Device) (l : Nat) : Device :=
  let top := wbOf v.w l + f
  let ret := v.fall
  let d1 := rfSet d v.core (stackWord v.w l (top - 2)) (ret.setWidth 32)
  let d2 := rfSet d1 v.core (stackWord v.w l (top - 1)) (BitVec.ofNat 32 (f / 8 * 65536 + ret.toNat / 2 ^ 32))
  v.put d2 fun w => { w with wb := tblSet w.wb l (BitVec.ofNat 32 top) }

/-- The targets of a call entered in order, up to the first that is stopped: the device, the entries made, and the stop
(R60). -/
def enterTargets (v : View) (f : Nat) (fresh : Bool) : List (VA × Mask) → Device → Device × List Path × Option CallStop
  | [], d => (d, [], none)
  | (pc, m) :: t, d =>
    match callStop v m f with
    | some c => (d, [], some c)
    | none =>
      let r := enterTargets v f fresh t ((lanesOf v.width m).foldl (enterLane v f) d)
      (r.1, newPath pc (v.p.depth + 1) m fresh :: r.2.1, r.2.2)

/-- The running path chosen immediately after an indirect call of a path that had the lanes `was`: the fresh entry that holds
the lowest lane (R44), in a handler of the entries that its own lanes made (R380). The fairness timer starts again where the
choice leaves lanes of the path behind (R45; log 34). -/
def chooseFresh (was : Mask) (depth : BitVec 16) (w : Wave) : Wave :=
  let ps := if w.trap.trlvl = 0 then mergePaths w.pos.paths else w.pos.paths
  let own (p : Path) : Bool := decide (w.trap.trlvl = 0) || decide (p.mask &&& ~~~w.trap.taken = 0)
  let low (p : Path) : Nat := (lowLane w.width p.mask).getD w.width
  match leastBy (fun a b => decide (low a.2 < low b.2))
      ((indexed ps).filter fun e => e.2.fresh && decide (e.2.depth = depth) && own e.2) with
  | some e =>
    let anew := decide (was &&& pathsMask ps &&& ~~~e.2.mask ≠ 0)
    { w with pos := { w.pos with paths := ps, run := e.1 }
             cnt := { w.cnt with
               fair := if anew then 0 else w.cnt.fair
               deferred := if anew then none else w.cnt.deferred } }
  | none => w

/-- Whether an outstanding load will write a register-file word. -/
def wordPending (w : Wave) (k : Nat) : Bool := (pendingLocs w).contains (.rf k)

/-- Whether the two link slots below `top` of some lane are still to be written by a load: the word that writes or reads
them waits (R131). -/
def linkPending (v : View) (ex : Mask) (top : Nat → Nat) : Bool :=
  (lanesOf v.width ex).any fun l =>
    wordPending v.w (stackWord v.w l (top l - 2)) || wordPending v.w (stackWord v.w l (top l - 1))

/-- A call of lanes to their targets by the word `code` (R58, R60, R204, R388, R389). A stop keeps the entries made; the
running path holds the lanes not yet entered, and the word is taken again for them. Where a yield is due at this boundary
the choice is that of R45 (log 110). -/
def callLanes (code : W64) (v : View) (ex : Mask) (f : Nat) (indirect : Bool) (target : Nat → VA) : Eff :=
  if ncallOut v.w || linkPending v ex (fun l => wbOf v.w l + f) then .hold v.d
  else
    let gs := groupLanes ((lanesOf v.width ex).map fun l => (l, target l))
    let r := enterTargets v f indirect gs v.d
    match r.2.2 with
    | none =>
      let left := v.active &&& ~~~pathsMask r.2.1
      let d1 := v.put r.1 (replaceRun (dividedPaths v (r.2.1 ++ [newPath v.fall v.p.depth left false])))
      if indirect && !v.due then .done (v.put d1 (chooseFresh v.p.mask (v.p.depth + 1))) (.placed false)
      else .done d1 (.placed true)
    | some c =>
      let n := r.2.1.length
      let d1 := v.put r.1 fun w =>
        let w1 := replaceRun (r.2.1 ++ [{ v.p with mask := v.p.mask &&& ~~~pathsMask r.2.1 }]) w
        { w1 with pos := { w1.pos with run := w1.pos.run + n } }
      match viewAt d1 v.core v.slot with
      | none => .settled d1
      | some v1 =>
        match c with
        | .trap t => .settled (trapHere v1 code t)
        | .spill m => .settled (takeSpill v1 m false)

/-- The frame of a call, F, from MOD (R161). -/
def kFrame (w : WordK) : Nat := 8 * w.hd.md.toNat

/-- MOD of a call is 1 to 14 (R202). -/
def kCallMod (w : WordK) : Check := c14 (decide (w.hd.md = 0 ∨ w.hd.md = 15)) 51

/-- CALL (R204). -/
def jobCall (w : WordK) : Job :=
  controlJob 0x05 w .each (fun _ => kChecks w false false true ++ [kCallMod w, kOffset w])
    fun v ex => callLanes (w.toBits 0x05) v ex (kFrame w) false fun _ => relTarget v w
/-- CALL (R204): its step. -/
def execCall (w : WordK) (s : State) : Out State := runJob (jobCall w) s

/-- CALLI (R204). -/
def jobCalli (w : WordK) : Job :=
  { controlJob 0x06 w .each (fun _ => kChecks w true true true ++ [kCallMod w, kOffset w])
      (fun v ex => callLanes (w.toBits 0x06) v ex (kFrame w) true (laneTarget v w)) with
    early := fun v ex => badTarget v ex (laneTarget v w) }
/-- CALLI (R204): its step. -/
def execCalli (w : WordK) (s : State) : Out State := runJob (jobCalli w) s

/-- The stack slot below a lane's window base by `k` (R58). -/
def linkWord (v : View) (l k : Nat) : W32 := rfGet v.d v.core (stackWord v.w l (wbOf v.w l - k))

/-- The frame that a lane's link names (R58). -/
def linkFrame (v : View) (l : Nat) : Nat := 8 * ((linkWord v l 1).toNat / 65536 % 16)

/-- The return address that a lane's link names (R58). -/
def linkTarget (v : View) (l : Nat) : VA := ((linkWord v l 1).extractLsb' 0 16 ++ linkWord v l 2 : BitVec 48)

/-- A fill for the lanes of a RET whose slots from their window base less `k` are not resident (R58, R387). -/
def fillStop (v : View) (ex : Mask) (k : Nat → Nat) : Option Eff :=
  match (lanesOf v.width ex).filter fun l => decide (wbOf v.w l < oldOf v.w l + k l) with
  | [] => none
  | ls =>
    match stackTrap v.w true ls with
    | some t => some (.trap t)
    | none => some (.settled (takeSpill v (maskOf ls) true))

/-- RET (R58, R59, R205, R418). -/
def retLanes (v : View) (ex : Mask) : Eff :=
  if ncallOut v.w || linkPending v ex (wbOf v.w) then .hold v.d
  else if v.p.depth = 0 then .trap (wordTrap v 0x51 ex 1)
  else
    match fillStop v ex fun _ => 2 with
    | some e => e
    | none =>
      let ls := lanesOf v.width ex
      match ls.filter fun l => decide (linkFrame v l = 0 ∨ 112 < linkFrame v l) with
      | l :: t => .trap (wordTrap v 0x51 (maskOf (l :: t)) 3)
      | [] =>
        match fillStop v ex (linkFrame v) with
        | some e => e
        | none =>
          let gs := groupLanes (ls.map fun l => (l, linkTarget v l))
          placed v fun w =>
            let wb := ls.foldl (fun t l => tblSet t l (BitVec.ofNat 32 (wbOf v.w l - linkFrame v l))) w.wb
            replaceRun (dividedPaths v (gs.map (fun g => newPath g.1 (v.p.depth - 1) g.2 false) ++
              [newPath v.fall v.p.depth (v.active &&& ~~~ex) false])) { w with wb := wb }

/-- RET (R205). -/
def jobRet (w : WordK) : Job :=
  controlJob 0x07 w .each (fun _ => kChecks w false false false ++ [kPlain w]) retLanes
/-- RET (R205): its step. -/
def execRet (w : WordK) (s : State) : Out State := runJob (jobRet w) s

/-- EXIT (R205): the executing lanes leave the path, and their reservations with them. -/
def jobExit (w : WordK) : Job :=
  controlJob 0x08 w .each (fun _ => kChecks w false false false ++ [kPlain w]) fun v ex =>
    placed v fun wv => clearResv ex (replaceRun [newPath v.fall v.p.depth (v.p.mask &&& ~~~ex) false] wv)
/-- EXIT (R205): its step. -/
def execExit (w : WordK) (s : State) : Out State := runJob (jobExit w) s

/-! ## Words that transfer nothing, and handlers -/

/-- The running path is due to yield at its next clause boundary, deferred while one of its lanes holds a reservation
(R45). -/
def dueYield (w : Wave) : Wave :=
  let mask := ((w.pos.paths[w.pos.run]?).map (·.mask)).getD 0
  if w.resv.any fun e => mask.getLsbD e.1 then { w with cnt := { w.cnt with deferred := some (w.cnt.deferred.getD w.cnt.fair) } }
  else { w with pos := { w.pos with yieldDue := true } }

/-- YIELD (R206). -/
def jobYield (w : WordK) : Job :=
  controlJob 0x09 w .each (fun _ => kChecks w false false false ++ [kPlain w]) fun v _ =>
    .done (v.put v.d fun wv => let w1 := dueYield wv
                               { w1 with pos := { w1.pos with yrank := true } }) .onward
/-- YIELD (R206): its step. -/
def execYield (w : WordK) (s : State) : Out State := runJob (jobYield w) s

/-- NOP (R206). -/
def jobNop (w : WordK) : Job :=
  controlJob 0x0A w .each (fun _ => kChecks w false false false ++ [kPlain w]) fun v _ => .done v.d .onward
/-- NOP (R206): its step. -/
def execNop (w : WordK) (s : State) : Out State := runJob (jobNop w) s

/-- WAITK (R206, R393). -/
def jobWaitk (w : WordK) : Job :=
  let named : BitVec 16 := w.off.setWidth 16
  { controlJob 0x0B w .each
      (fun _ => kChecks w false false true ++ [kPlain w, c14 (decide (65536 ≤ w.off.toNat)) 31])
      (fun v _ => if v.w.tokPend &&& named ≠ 0 then .hold v.d else .done v.d .onward) with
    early := fun v ex =>
      let orph := v.w.tokOrph &&& named
      if orph = 0 then none else some (wordTrap v 0x20 ex orph.toNat) }
/-- WAITK (R206): its step. -/
def execWaitk (w : WordK) (s : State) : Out State := runJob (jobWaitk w) s

/-- The die after a word that ended its clause by a trap: a HALT due there takes effect (R210). -/
def trapHalt (v : View) (d : Device) : Device :=
  let d1 := v.put d (haltNow v.w.trap.trlvl.toNat)
  if ((waveOf d1 v.core v.slot).elim false fun w => w.halted) && v.w.pos.haltDue.getLsbD v.w.trap.trlvl.toNat then
    emit d1 v.src .halted
  else d1

/-- A wave whose word ends its clause by leaving it: the word is counted (R149), and the header's YIELD lowers its rank
(R144). -/
def lastWord (v : View) (w : Wave) : Wave :=
  let w1 := countWord v.w.nextOp w
  { w1 with pos := { w1.pos with yrank := w1.pos.yrank || v.hdr.getLsbD 30 } }

/-- The view of a wave whose last word of a clause has issued. -/
def View.left (v : View) : View := { v with d := v.put (hallWord v.d v.core) (lastWord v), w := lastWord v v.w }

/-- TRAP (R207): the trap goes on at the fall-through address, and the word, which is not run again, is counted (R149). -/
def jobTrap (w : WordK) : Job :=
  let job := controlJob 0x0C w .once
    (fun _ => kChecks w false false true ++ [kPlain w, c14 (decide (128 ≤ w.off.toNat)) 31]) fun v _ => .hold v.d
  { job with
    act := fun v _ =>
      .settled (takeTrap v.left (wordTrap v (BitVec.ofNat 8 (128 + w.off.toNat % 128)) (guardMask v.w w.hd.g v.active)
        (w.off.toNat % 128)) job.code v.fall 0 |> trapHalt v) }
/-- TRAP (R207): its step. -/
def execTrap (w : WordK) (s : State) : Out State := runJob (jobTrap w) s

/-- Whether the running path stands at an indirect call that has entered some of its targets (R389): entries of one call
deeper are still fresh. -/
def callBegun (w : Wave) : Bool :=
  match w.pos.paths[w.pos.run]? with
  | some p => w.pos.paths.any fun q => q.fresh && decide (q.depth = p.depth + 1)
  | none => false

/-- A wave that a handler's return has put at a position: at a clause boundary outside any handler R44's steps are taken,
unless the return resumes an indirect call that enters the rest of its targets first (R44, R389; DEDUCED, log 35). -/
def resumed (was : Mask) (w : Wave) : Wave :=
  if w.trap.trlvl = 0 ∧ w.pos.clpos = 0 ∧ !callBegun w then rechoose was w else w

/-- A handler's return from a device: the word is counted, the wave's position is as the handler's frame says (R381), and a
HALT due in the clause that ends takes effect (R210). -/
def ereturn (v : View) (d0 : Device) (f : Wave → Wave) : Eff :=
  let d := v.put (hallWord d0 v.core) fun w => resumed v.p.mask (haltNow v.w.trap.trlvl.toNat (f (lastWord v w)))
  .settled (if v.w.pos.haltDue.getLsbD v.w.trap.trlvl.toNat then emit d v.src .halted else d)

/-- Bytes of the trap frame read by ERET (R379, R381), of which the core keeps no older copy (R123), with the die after the
read. -/
def frameRead (v : View) (off : Nat) : Except MFault (W64 × Device) :=
  match engineParts v.w.ctx { rd := true, w := false, x := false, hall := some v.hall } v.priv true .plain
      (pageCuts (vaNat (v.w.trap.trfbase.toNat + off)) 8) v.d with
  | .ok (ps, d) => .ok (leW64 (piecesRead d v.w.ctx .plain ps), ps.foldl (fun d p => l1Forget v.core p.pa p.len d) d)
  | .error f => .error f

/-- A trap for every active lane from a memory cause. -/
def memTrap (v : View) (f : MFault) : Eff :=
  match trapOfFaults (some v.active) [(0, f)] with
  | some t => .trap t
  | none => .hold v.d

/-- ERET (R207, R381, R418). Where the lanes of a spill or fill handler have divided, the path that comes to ERET ends the
handler, and OLD moves for its lanes alone (DESIGN CHOICE, log 136). -/
def eretAct (v : View) : Eff :=
  match v.w.trap.sf with
  | some sf =>
    match frameRead v 0x30 with
    | .ok (x, d) => ereturn v d (eretSpill { sf with lanes := v.active } x)
    | .error f => memTrap v f
  | none =>
    if v.w.trap.trlvl = 0 then .trap (wordTrap v 0x25 v.active 0)
    else if v.p.depth ≠ v.w.trap.trdepth then .trap (wordTrap v 0x51 v.active 2)
    else
      match frameRead v 0 with
      | .ok (x, d) => ereturn v d (eretFrame x)
      | .error f => memTrap v f

/-- ERET (R207). -/
def jobEret (w : WordK) : Job :=
  controlJob 0x0D w .once (fun _ => kChecks w false false false ++ [kPlain w]) fun v _ => eretAct v
/-- ERET (R207): its step. -/
def execEret (w : WordK) (s : State) : Out State := runJob (jobEret w) s

/-- BKPT (R207, R211): a NOP unless the slot's DBG bit is set; then the wave halts after the word. -/
def jobBkpt (w : WordK) : Job :=
  controlJob 0x0E w .once (fun _ => kChecks w false false true ++ [kPlain w])
    fun v _ =>
      if (coreOf v.d v.core).dbg.getLsbD v.slot then
        .done (emit (v.put v.d dueHalt) v.src (.breakpoint (w.off.toNat % 256))) .onward
      else .done v.d .onward
/-- BKPT (R207): its step. -/
def execBkpt (w : WordK) (s : State) : Out State := runJob (jobBkpt w) s

/-- HALT (R208, R210): the wave stops after its clause. -/
def jobHalt (w : WordK) : Job :=
  controlJob 0x12 w .once (fun v => [c16 (!v.priv)] ++ kChecks w false false false ++ [kPlain w]) fun v _ =>
    .done (v.put v.d dueHalt) .onward
/-- HALT (R208): its step. -/
def execHalt (w : WordK) (s : State) : Out State := runJob (jobHalt w) s

end Sys2Proof.Machine
end

