-- ==== Sys2Proof/Machine/LoadStore.lean ====
section
/-! DEFINITION. Loads and stores of global memory, scratchpad and the constant path (R217 to R226), and what their words
share: addresses, sizes, orders and passes (R74, R127, R143). -/

namespace Sys2Proof.Machine

/-- A field that names an address base: an s register or the inline 0 (R217). -/
def baseCheck (op : Operand) (pos : Nat) : Check := c13 (!(isS op || isZeroCode op)) pos

/-- A field that names a per-lane offset: a vector register or the inline 0 (R217). -/
def indexCheck (op : Operand) (pos : Nat) : Check := c13 (!(isV op || isZeroCode op)) pos

/-- A field that names an s register (R217). -/
def sregCheck (op : Operand) (pos : Nat) : Check := c13 (!isS op) pos

/-- The address of a lane in the form of R218. -/
def addrOf (v : View) (a b : Operand) (off : BitVec 12) (l : Nat) : Nat :=
  ((src64 v a).setWidth 48 + (src v [] b l).setWidth 48 + off.signExtend 48 : VA).toNat

/-- The bytes of a size code (Table 7.4). -/
def szBytes (z : BitVec 3) : Nat := 2 ^ z.toNat

/-- The registers that hold a lane's data of a size (R219). -/
def dataRegs (n : Nat) : Nat := max 1 (n / 4)

/-- The checks of ORD, SCO and CH: the orders admitted, SCO zero with ORD 0 where the entry asks it, the highest CH. -/
def tailChecks (tl : MemTail) (ords : List Nat) (scoZero : Bool) (chMax : Nat) : List Check :=
  [c14 (!ords.contains tl.ord.toNat) 7,
   c14 (decide (4 < tl.sco.toNat) || (scoZero && decide (tl.ord = 0) && decide (tl.sco ≠ 0))) 5,
   c14 (decide (chMax < tl.ch.toNat)) 1]

/-- The checks of a group of vector registers (R219). -/
def groupCheck (op : Operand) (n pos : Nat) : Check := c14 (isV op && !vGroupOk (regNo op) n) pos

/-- Whether a word is an acquire at .hall or wider (R127, R129). -/
def acquires (tl : MemTail) : Bool := tl.ord.getLsbD 0 && decide (2 ≤ tl.sco.toNat)

/-- Whether a word is a release at .hall or wider (R127, R129). -/
def releases (tl : MemTail) : Bool := tl.ord.getLsbD 1 && decide (2 ≤ tl.sco.toNat)

/-- What holds a memory word at issue: 63 outstanding of its type (R143), or a release whose earlier stores, those of other
modules at .dom, are not all acknowledged (R128, R140). -/
def memHeld (v : View) (tl : MemTail) (ld st : Bool) : Bool :=
  (ld && decide (63 ≤ loadsOut v.w)) || (st && decide (63 ≤ storesOut v.w)) || (releases tl && decide (storesFor (decide (tl.sco = 4)) v.w ≠ 0))

/-- The device after an acquire: the core's L1 copies of global lines are gone (R129). -/
def acquired (v : View) (tl : MemTail) : Device := if acquires tl then l1Acquire v.d v.core else v.d

/-- The lanes of a word that access: the lowest active lane for a uniform word (R218), and no helper lane for a word
that stores (R220). -/
def accessLanes (v : View) (once : Bool) (ex : Mask) (store : Bool) : List Nat :=
  let ls := if once then [v.lane0] else lanesOf v.width ex
  if store then ls.filter fun l => !v.helpers.getLsbD l else ls

/-- MASK of a memory cause: every active lane for a uniform access (R398). -/
def onceMask (once : Bool) (ex : Mask) : Option Mask := if once then some ex else none

/-- The bytes that a lane's access gave. -/
def bytesOf (xs : List (Nat × List Byte)) (l : Nat) : List Byte := tblGet [] xs l

/-- The register values of loaded bytes (R219): fewer than 4 bytes are extended. -/
def loadWords (sx : Bool) (bs : List Byte) : List W32 :=
  let n := bs.length
  if n < 4 then [if sx then w32 (signed (8 * n) (leNat bs)) else BitVec.ofNat 32 (leNat bs)]
  else (List.range (n / 4)).map fun i => BitVec.ofNat 32 (leNat ((bs.drop (4 * i)).take 4))

/-- Results of lanes in a group of vector registers. -/
def groupWrites (v : View) (n k : Nat) (ls : List Nat) (x : Nat → List W32) : List (RegLoc × W64) :=
  (List.range k).flatMap fun i => vWrites v (n + i) ls fun l => (x l).getD i 0

/-- A load outstanding with its results (R131, R143, R149). -/
def loadDone (v : View) (ports : List RemotePart) (d : Device) (la : BitVec 4) (ws : List (RegLoc × W64)) : Eff :=
  .done (v.put d (pushOpTo ports .load (windowOf (some la)) ws none 0 v.place)) .onward

/-- A store outstanding until its acknowledgement (R143), by this module or by another. -/
def storeDone (v : View) (ports : List RemotePart) (d : Device) : Eff :=
  .done (v.put d (pushOpTo ports .store none [] none 0 [])) .onward

/-- A core's L1 without its copies of the lines that lanes name: the next read of them is L2's (R124). -/
def dropLines (core : Nat) (ls : List (Nat × List Piece)) (d : Device) : Device :=
  modCore d core fun k =>
    { k with l1 := (ls.flatMap fun e => e.2.flatMap fun p => unitsOf 128 p.pa p.len).foldl l1Drop k.l1 }

/-- Reads of lanes from global memory, all checked first (R398); `fresh` reads L2 and not an older copy (R124). -/
def globalRead (v : View) (once : Bool) (ex : Mask) (tl : MemTail) (r : Reader) (const fresh : Bool)
    (as : List (Nat × Nat × Nat)) (next : List RemotePart → List (Nat × List Byte) → Device → Eff) : Eff :=
  if memHeld v tl true false then .hold v.d
  else
    match checkLanes v { rd := true, w := false, x := false } r (onceMask once ex) as with
    | .wait d => .hold d
    | .trap t => .trap t
    | .ok ls =>
      let d := acquired v tl
      let x := loadLanes v r tl.ch const ls (if fresh then dropLines v.core ls d else d)
      next (lanesPorts v.d ls) x.1 x.2

/-- Stores of lanes to global memory, all checked first (R398). -/
def globalWrite (v : View) (once : Bool) (ex : Mask) (tl : MemTail) (r : Reader) (as : List (Nat × Nat × Nat))
    (data : Nat → List Byte) : Eff :=
  if memHeld v tl false true then .hold v.d
  else
    match checkLanes v { rd := false, w := true, x := false } r (onceMask once ex) as with
    | .wait d => .hold d
    | .trap t => .trap t
    | .ok ls => storeDone v (lanesPorts v.d ls) (storeLanes v r tl.ch data ls v.d)

/-- The lanes that receive a load's results. -/
def targets (v : View) (once : Bool) (ex : Mask) : List Nat := lanesOf v.width (if once then v.active else ex)

/-- The bytes that lane `l`'s load gives: those of the lowest active lane for a uniform word. -/
def laneBytes (v : View) (once : Bool) (xs : List (Nat × List Byte)) (l : Nat) : List Byte :=
  bytesOf xs (if once then v.lane0 else l)

/-- The checks that global loads share: A, B and D, the size, sign extension and the group. -/
def loadChecks (w : WordM) : List Check :=
  let n := szBytes w.sz
  [c13 (!isV w.d) 47, baseCheck w.a 39, indexCheck w.b 31, c14 (decide (4 < w.sz.toNat)) 11,
   c14 (w.sx && decide (4 ≤ n)) 8, groupCheck w.d (dataRegs n) 47]

/-- A load of global memory into vector registers (R221). `extra` acts on the device from the pieces read. -/
def loadJob (opc : BitVec 8) (w : WordM) (const fresh : Bool) (legal : List Check)
    (extra : View → List Nat → Device → Device) : Job :=
  let n := szBytes w.sz
  { code := w.toBits opc, g := w.hd.g, lanes := .each, u := w.tl.u, uniOk := true, mem := true
    refs := refsOf [w.a, w.b] ++ vRefs (regNo w.d) (dataRegs n)
    legal := fun _ => loadChecks w ++ legal
    act := fun v ex =>
      let once := w.tl.u || v.uni
      let ls := accessLanes v once ex false
      globalRead v once ex w.tl .plain const fresh (ls.map fun l => (l, addrOf v w.a w.b w.off l, n)) fun ports xs d =>
        loadDone v ports (extra v ls d) w.hd.md
          (groupWrites v (regNo w.d) (dataRegs n) (targets v once ex) fun l => loadWords w.sx (laneBytes v once xs l)) }

/-- LD (R221). -/
def jobLd (w : WordM) : Job :=
  loadJob 0x01 w false false (tailChecks w.tl [0, 1] true 2) fun _ _ d => d
/-- LD (R221): its step. -/
def execLd (w : WordM) (s : State) : Out State := runJob (jobLd w) s

/-- LDC (R226). -/
def jobLdc (w : WordM) : Job :=
  loadJob 0x06 w true false (tailChecks w.tl [0] true 0) fun _ _ d => d
/-- LDC (R226): its step. -/
def execLdc (w : WordM) (s : State) : Out State := runJob (jobLdc w) s

/-- The physical address of a byte that a wave's access has just reached, if a TLB holds it. -/
def reachedAt (v : View) (va : Nat) : Option Nat :=
  match tlbLookup v.d v.core v.w.ctx va with
  | some te => some (te.pa + (va - te.page))
  | none => none

/-- The reservation of a lane on the aligned 8 bytes that hold an address (R139). -/
def reserve (v : View) (d : Device) (l va : Nat) : Device :=
  match reachedAt v va with
  | some pa => v.put d fun w => { w with resv := tblSet w.resv l (pa / 8 * 8) }
  | none => d

/-- LDRSV (R232): it reads L2, so that the value is the write just before that of a STCND that succeeds (R124). -/
def jobLdrsv (w : WordM) : Job :=
  loadJob 0x13 w false true (c14 (!([2, 3].contains w.sz.toNat)) 11 :: tailChecks w.tl [0, 1] true 0) fun v ls d =>
    ls.foldl (fun d l => reserve v d l (addrOf v w.a w.b w.off l)) d
/-- LDRSV (R232): its step. -/
def execLdrsv (w : WordM) (s : State) : Out State := runJob (jobLdrsv w) s

/-- The data that lane `l` stores from a field (R219, R221). -/
def storeData (v : View) (op : Operand) (n l : Nat) : List Byte :=
  match op with
  | .v r => (groupBytes v l r (dataRegs n)).take n
  | .s r => leBytes n (sget v.w r).toNat
  | op => leBytes n (src v [] op l).toNat

/-- The checks that stores share (R221). -/
def storeChecks (w : WordM) : List Check :=
  let n := szBytes w.sz
  [c13 (!(isV w.d || (isS w.d && decide (n ≤ 8)) || (isInline w.d && decide (n ≤ 4)))) 47, baseCheck w.a 39,
   indexCheck w.b 31, c14 (decide (4 < w.sz.toNat)) 11, c14 w.sx 8, groupCheck w.d (dataRegs n) 47,
   c14 (decide (w.hd.md ≠ 0)) 51]

/-- The registers that a store reads. -/
def storeRefs (w : WordM) : List RegRef :=
  refsOf [w.a, w.b, w.d] ++ (if isV w.d then vRefs (regNo w.d) (dataRegs (szBytes w.sz)) else [])

/-- ST (R221). -/
def jobSt (w : WordM) : Job :=
  let n := szBytes w.sz
  { code := w.toBits 0x02, g := w.hd.g, lanes := .each, u := w.tl.u, uniOk := true, mem := true, refs := storeRefs w
    legal := fun _ => storeChecks w ++ tailChecks w.tl [0, 2] true 2
    act := fun v ex =>
      let once := w.tl.u || v.uni
      globalWrite v once ex w.tl .plain
        ((accessLanes v once ex true).map fun l => (l, addrOf v w.a w.b w.off l, n)) (storeData v w.d n) }
/-- ST (R221): its step. -/
def execSt (w : WordM) (s : State) : Out State := runJob (jobSt w) s

/-! ## Scratchpad -/

/-- The core and offset that a scratchpad word reaches (R223). -/
def spadPlace (v : View) (remote : Bool) (addr : Nat) : Nat × Nat :=
  if remote then (4 * v.hall + addr / 0x40000 % 4, addr % 0x40000) else (v.core, addr % 0x40000)

/-- The words of the bank that serves most, of a list of word indices (R74). -/
def busiestBank (ws : List Nat) : Nat :=
  (List.range 32).foldl (fun m b => max m (ws.filter fun w => decide (w % 32 = b)).length) 0

/-- The passes of a scratchpad word at one core over lanes and offsets (R74, R231): `n` bytes a lane; `merge` tells whether
lanes that name one word merge. -/
def passes (n : Nat) (once merge : Bool) (as : List (Nat × Nat)) : Nat :=
  if once then (as.map fun a => (unitsOf 4 a.2 n).length).foldl (· + ·) 0
  else
    let size := min 32 (128 / n)
    ((List.range (64 / size)).map fun g =>
      let ws := (as.filter fun a => decide (a.1 / size = g)).flatMap fun a => unitsOf 4 a.2 n
      busiestBank (if merge then listNub (fun x y => decide (x = y)) ws else ws)).foldl (· + ·) 0

/-- The passes of a scratchpad word: those at each core of the hall that it reaches (R223). -/
def corePasses (n : Nat) (once merge : Bool) (as : List (Nat × Nat × Nat × Nat)) : Nat :=
  ((List.range 4).map fun k =>
    passes n once merge ((as.filter fun a => decide (a.2.1 % 4 = k)).map fun a => (a.1, a.2.2.1))).foldl (· + ·) 0

/-- Passes counted for a wave (R201). -/
def addPasses (n : Nat) (w : Wave) : Wave := { w with cnt := { w.cnt with spass := w.cnt.spass + BitVec.ofNat 64 n } }

/-- CH of a scratchpad word selects the remote form (R223). -/
def isRc (tl : MemTail) : Bool := decide (tl.ch = 1)

/-- Scratchpad accesses of lanes, checked before any is made (R398): lane, core, offset and length of each. -/
def spadAccess (v : View) (once : Bool) (ex : Mask) (tl : MemTail) (n : Nat) (ld st merge : Bool)
    (as : List (Nat × Nat × Nat × Nat)) (next : Device → Eff) : Eff :=
  if memHeld v tl ld st then .hold v.d
  else
    match checkSpad v (isRc tl) st ld (onceMask once ex) as with
    | some t => .trap t
    | none =>
      next (v.put (acquired v tl) (addPasses (corePasses n once merge as)))

/-- The scratchpad accesses of the lanes of an M-format word. -/
def spadLanes (v : View) (w : WordM) (ls : List Nat) (n : Nat) : List (Nat × Nat × Nat × Nat) :=
  ls.map fun l => let p := spadPlace v (isRc w.tl) (addrOf v w.a w.b w.off l); (l, p.1, p.2, n)

/-- LDS (R223). -/
def jobLds (w : WordM) : Job :=
  let n := szBytes w.sz
  { code := w.toBits 0x03, g := w.hd.g, lanes := .each, u := w.tl.u, uniOk := true, mem := true
    refs := refsOf [w.a, w.b] ++ vRefs (regNo w.d) (dataRegs n)
    legal := fun _ => loadChecks w ++ tailChecks w.tl [0, 1, 2] false 1
    act := fun v ex =>
      let once := w.tl.u || v.uni
      let as := spadLanes v w (accessLanes v once ex false) n
      spadAccess v once ex w.tl n true false true as fun d =>
        let xs := as.map fun a => (a.1, spadRead v.d a.2.1 a.2.2.1 n)
        loadDone v [] d w.hd.md (groupWrites v (regNo w.d) (dataRegs n) (targets v once ex) fun l =>
          loadWords w.sx (laneBytes v once xs l)) }
/-- LDS (R223): its step. -/
def execLds (w : WordM) (s : State) : Out State := runJob (jobLds w) s

/-- STS (R223). -/
def jobSts (w : WordM) : Job :=
  let n := szBytes w.sz
  { code := w.toBits 0x04, g := w.hd.g, lanes := .each, u := w.tl.u, uniOk := true, mem := true, refs := storeRefs w
    legal := fun _ => storeChecks w ++ tailChecks w.tl [0, 1, 2] false 1
    act := fun v ex =>
      let once := w.tl.u || v.uni
      let as := spadLanes v w (accessLanes v once ex true) n
      spadAccess v once ex w.tl n false true true as fun d =>
        storeDone v [] (as.foldl (fun d a => spadWrite d a.2.1 a.2.2.1 (storeData v w.d n a.1)) d) }
/-- STS (R223): its step. -/
def execSts (w : WordM) (s : State) : Out State := runJob (jobSts w) s

/-- The scalar results of SLD (R225). -/
def sldWrites (r : Nat) (sx : Bool) (bs : List Byte) : List (RegLoc × W64) :=
  let n := bs.length
  if n = 16 then [(.sreg r, leW64 bs), (.sreg (r + 1), leW64 (bs.drop 8))]
  else [(.sreg r, if sx then wrap 64 (signed (8 * n) (leNat bs)) else BitVec.ofNat 64 (leNat bs))]

/-- SLD (R225): once for the wave, into one or two s registers. -/
def jobSld (w : WordM) : Job :=
  let n := szBytes w.sz
  { code := w.toBits 0x05, g := w.hd.g, lanes := .once, u := w.tl.u, mem := true
    refs := refsOf [w.a, w.d] ++ (if n = 16 then sRefs (regNo w.d) 2 else [])
    legal := fun _ => [sregCheck w.d 47, baseCheck w.a 39, c13 (!isZeroCode w.b) 31,
      c14 (decide (4 < w.sz.toNat)) 11, c14 (w.sx && decide (8 ≤ n)) 8,
      c14 (decide (n = 16) && decide (w.d = .s 63)) 47] ++ tailChecks w.tl [0, 1] true 2
    act := fun v ex =>
      globalRead v true ex w.tl .plain false false [(v.lane0, addrOf v w.a w.b w.off v.lane0, n)] fun ports xs d =>
        loadDone v ports d w.hd.md (sldWrites (regNo w.d) w.sx (bytesOf xs v.lane0)) }
/-- SLD (R225): its step. -/
def execSld (w : WordM) (s : State) : Out State := runJob (jobSld w) s

/-- LOAD_COMPLETE (R131, R143, R149): the results of an outstanding load are written and its destination released. -/
def execLoadComplete (core slot op : Nat) (s : State) : Out State :=
  runDevice (onHall (hallOfCore core) fun d => completeKind d core slot .load op) s

/-- The acknowledgement of a store or of a CWB (R143, R263). The operation of a QFLUSH's token, which is no store, waits for the stores
issued before it (R241). -/
def ackStore (d : Device) (core slot op : Nat) : Device :=
  match waveOf d core slot with
  | none => d
  | some w =>
    let waits := w.ops.any fun e => decide (e.kind = .store) && decide (e.id < op)
    if (findOp w .flush op).isSome && !waits then completeKind d core slot .flush op
    else if (findOp w .cwb op).isSome then completeKind d core slot .cwb op
    else completeKind d core slot .store op

/-- STORE_ACK (R143): the level that performs a store acknowledges it. -/
def execStoreAck (core slot op : Nat) (s : State) : Out State :=
  runDevice (onHall (hallOfCore core) fun d => ackStore d core slot op) s

end Sys2Proof.Machine
end

