-- ==== Sys2Proof/Machine/Sync.lean ====
section
/-! DEFINITION. FENCE, the words on arrival words, and TLBINV (R209, R234 to R238). -/

namespace Sys2Proof.Machine

/-- A field of format E that an entry leaves unused: zero bits (R147). -/
def unusedField (op : Operand) (pos : Nat) : Check := c14 (!isUnused op) pos

/-- The checks of TOK and TE: none may be named, or TOK is zero without TE (R147). -/
def tokChecks (w : WordE) (admits : Bool) : List Check :=
  [c14 (!w.te && decide (w.tok ≠ 0)) 15, c14 (!admits && w.te) 11]

/-- MOD is zero in a word of format E that is not long-latency (R147). -/
def eMod (w : WordE) : Check := c14 (decide (w.hd.md ≠ 0)) 51

/-- SCO is zero (R147). -/
def eSco (w : WordE) : Check := c14 (decide (w.sco ≠ 0)) 3

/-- The token of a word of format E. -/
def eTok (w : WordE) : Option (BitVec 4) := if w.te then some w.tok else none

/-- A token of a word of format E made pending (R68). -/
def eStart (w : WordE) (x : Wave) : Wave := if w.te then tokStart w.tok x else x

/-- A word of format E that executes once for the wave (R146, R235). -/
def eJob (opc : BitVec 8) (w : WordE) (regs : List Operand) (legal : View → List Check) (act : View → Mask → Eff) : Job :=
  { code := w.toBits opc, g := w.hd.g, lanes := .once, u := w.u, refs := refsOf regs, tok := eTok w, legal := legal,
    act := act, mem := true }

/-- FENCE (R128, R129, R140, R234): an acquire drops the core's L1 copies of global lines, a release holds the wave's later
words until its stores are acknowledged, those of other modules at .dom. Block registers still to be written come first. -/
def jobFence (w : WordM) : Job :=
  { code := w.toBits 0x18, g := w.hd.g, lanes := .each, u := w.tl.u
    legal := fun _ =>
      [c14 (!isUnused w.d) 47, c14 (!isUnused w.a) 39, c14 (!isUnused w.b) 31, c14 (decide (w.off ≠ 0)) 23,
       c14 (decide (w.sz ≠ 0)) 11, c14 w.sx 8, c14 (decide (w.tl.ord = 3)) 7,
       c14 (decide (4 < w.tl.sco.toNat)) 5, c14 (decide (w.tl.ch ≠ 0)) 1, c14 (decide (w.hd.md ≠ 0)) 51]
    mem := true
    act := fun v _ =>
      if v.w.ops.any fun o => o.regs.any fun r => match r with | .breg _ => true | _ => false then .hold v.d
      else
      let wide := decide (2 ≤ w.tl.sco.toNat)
      let d := if wide && decide (w.tl.ord ≠ 2) then l1Acquire v.d v.core else v.d
      let d1 := finish v d .onward
      .settled (if wide && decide (w.tl.ord ≠ 1) then v.put d1 fun x => { x with fenced := some (decide (w.tl.sco = 4)) } else d1) }
/-- FENCE (R128): its step. -/
def execFence (w : WordM) (s : State) : Out State := runJob (jobFence w) s

/-! ## Arrival words -/

/-- The operand of an arrival instruction, read from the s register of a field, is legal (R235). -/
def arvCheck (v : View) (op : Operand) : Check := c14 (isS op && decide (field (src64 v op) 0 3 ≠ 0)) 2

/-- Where the arrival word that an operand names stands for a wave's access (R78, R224, R398): its place, with the lane
access checked as a word's one access, or what the word does instead. -/
inductive ArFound where
  | at (loc : ArLoc)
  | stop (e : Eff)

/-- The arrival word that a wave's word reads or writes (R238, R398). -/
def arFind (v : View) (ex : Mask) (operand : W64) (rd wr : Bool) : ArFound :=
  if arvSpad operand then
    let off := arvAddr operand
    match checkSpad v false wr rd (some ex) [(v.lane0, v.core, off, 16)] with
    | some t => .stop (.trap t)
    | none => .at (.spad v.core off)
  else
    match checkLanes v { rd := rd, w := wr, x := false } .plain (some ex) [(v.lane0, arvAddr operand, 16)] with
    | .wait d => .stop (.hold d)
    | .trap t => .stop (.trap t)
    | .ok ls =>
      match ls.flatMap fun e => e.2 with
      | p :: _ => .at (.mem v.w.ctx p)
      | [] => .stop (.hold v.d)

/-- The requests that an access to an arrival word in another module's memory sends. -/
def arPorts (d : Device) (loc : ArLoc) : List RemotePart := match loc with | .spad _ _ => [] | .mem _ p => routeParts d 0 p.va p.pa p.len

/-- A wave's update of an arrival word: performed at its scratchpad or slice (R79), the core's own L1 copy dropped. -/
def arUpdate (v : View) (d : Device) (loc : ArLoc) (bs : List Byte) : Device :=
  match loc with
  | .spad c o => spadWrite d c o bs
  | .mem _ p => storePieces v .plain 2 [p] bs d

/-- The checks of an arrival word's fields X and Y, with Z, W and SCO unused. -/
def arChecks (w : WordE) (y : Check) (tok : Bool) : List Check :=
  [sregCheck w.x 47, y, unusedField w.z 31, unusedField w.w 23, eSco w, eMod w] ++ tokChecks w tok

/-- The 16 bytes that ARINIT writes (R236). -/
def arInitBytes (x : W64) : List Byte := leBytes 4 (field x 0 32) ++ leBytes 4 0 ++ leBytes 4 (field x 32 32) ++ leBytes 4 0

/-- ARINIT (R236): a plain store-type write of the whole word. -/
def jobArinit (w : WordE) : Job :=
  eJob 0x20 w [w.x, w.y] (fun v => arvCheck v w.x :: c14 (decide (w.sub ≠ 0)) 10 ::
      arChecks w (sregCheck w.y 39) false) fun v ex =>
    if 63 ≤ storesOut v.w then .hold v.d
    else
      match arFind v ex (src64 v w.x) false true with
      | .stop e => e
      | .at loc => storeDone v (arPorts v.d loc) (arUpdate v v.d loc (arInitBytes (src64 v w.y)))
/-- ARINIT (R236): its step. -/
def execArinit (w : WordE) (s : State) : Out State := runJob (jobArinit w) s

/-- A count code of ARRIVE: an inline integer 0 to 16 (R237). -/
def isCount : Operand → Bool
  | .pos _ => true
  | _ => false

/-- ARRIVE (R237): a raise as a release at the word's scope, which is .dom for a word of another module (R133, R140). The
raise is performed at the word, so a token is idle again at once. -/
def jobArrive (w : WordE) : Job :=
  eJob 0x21 w [w.x, w.y] (fun v => arvCheck v w.x :: c14 (decide (w.sub ≠ 0)) 10 ::
      arChecks w (c13 (!(isS w.y || isCount w.y)) 39) true) fun v ex =>
    if storesFor false v.w ≠ 0 then .hold v.d
    else
      match arFind v ex (src64 v w.x) true true with
      | .stop e => e
      | .at loc =>
        if storesFor (decide (arPorts v.d loc ≠ [])) v.w ≠ 0 then .hold v.d
        else
        let n := field (src64 v w.y) 0 32
        .done (emit (arUpdate v v.d loc (raiseBytes (arBytes v.d loc) n 0 0)) v.src (.raise (src64 v w.x))) .onward
/-- ARRIVE (R237): its step. -/
def execArrive (w : WordE) (s : State) : Out State := runJob (jobArrive w) s

/-- The `.gen` form of ARWAIT (R238). -/
def arGenForm (w : WordE) : Bool := w.sub.getLsbD 0

/-- The s register that ARWAIT writes the generation to. -/
def arDst (w : WordE) : Option Nat := if arGenForm w then some (regNo w.y) else none

/-- ARWAIT (R238): the generation is read once, as a load. While it does not differ the wave's later words are held; as
the first word of a longer clause the word itself is held, so that the clause does not begin. -/
def jobArwait (w : WordE) : Job :=
  eJob 0x22 w (if arGenForm w then [w.x, w.y] else [w.x]) (fun v => arvCheck v w.x ::
      c14 (decide (2 ≤ w.sub.toNat)) 10 ::
      arChecks w (if arGenForm w then sregCheck w.y 39 else unusedField w.y 39) false) fun v ex =>
    let op := src64 v w.x
    match arFind v ex op true false with
    | .stop e => e
    | .at loc =>
      let g := arGen v.d loc
      if g.extractLsb' 0 16 ≠ op.extractLsb' 48 16 then
        .done (v.put (arSeen v.core loc v.d) fun x => match arDst w with | some n => sput n (g.setWidth 64) x | none => x) .onward
      else if v.w.pos.clpos = 0 ∧ 0 < field v.hdr 56 4 then .hold v.d
      else .done (v.put v.d fun x => { x with arw := some { operand := op, dst := arDst w } }) .onward
/-- ARWAIT (R238): its step. -/
def execArwait (w : WordE) (s : State) : Out State := runJob (jobArwait w) s

/-! ## TLBINV -/

/-- Whether a translation is one that TLBINV names: form 0 every one, 1 the context's, 2 the one of a page (R209). -/
def tlbNamed (form ctx va : Nat) (e : TlbEntry) : Bool :=
  decide (form = 0) || (decide (e.ctx = ctx) && (decide (form = 1) || decide (e.page = va / 2 ^ e.bits * 2 ^ e.bits)))

/-- Whether a walk in flight is for a page that TLBINV names; its page may prove as large as 1 GiB (R92, R209). -/
def walkNamed (form ctx va : Nat) (w : Walk) : Bool :=
  decide (form = 0) ||
    (decide (w.ctx = ctx) && (decide (form = 1) || decide (w.va.toNat / 2 ^ 30 = va / 2 ^ 30)))

/-- Translations removed from every TLB of the module, and the sidecar copies they hold; walks in flight for them are
discarded when they complete (R209). -/
def invalidate (d : Device) (form ctx va : Nat) : Device :=
  let keep (l : List TlbEntry) : List TlbEntry := l.filter fun e => !tlbNamed form ctx va e
  { d with
    cores := tblMap (fun _ k => { k with tlb := keep k.tlb }) d.cores
    halls := tblMap (fun _ h => setTlb keep h) d.halls
    walks := tblMap (fun _ k => if walkNamed form ctx va k then { k with discard := true } else k) d.walks }

/-- TLBINV (R209): a fence at .dev, then the removal; its token falls idle when no TLB holds a matching entry. -/
def jobTlbinv (w : WordE) : Job :=
  eJob 0x11 w [w.x, w.y] (fun v => [c16 (!v.priv), sregCheck w.x 47, sregCheck w.y 39, unusedField w.z 31,
      unusedField w.w 23, eSco w, eMod w, c14 (!w.te) 11, c14 (decide (2 < w.sub.toNat)) 10]) fun v _ =>
    if storesFor false v.w ≠ 0 then .hold v.d
    else
      let d := invalidate (l1Acquire v.d v.core) w.sub.toNat (field (src64 v w.y) 0 6) (field (src64 v w.x) 0 48)
      .done (v.put d fun x => eStart w (pushOp .tlbinv none [] (some w.tok.toNat) 0 [] x)) .onward
/-- TLBINV (R209): its step. -/
def execTlbinv (w : WordE) (s : State) : Out State := runJob (jobTlbinv w) s

/-- What waves know of failed walks, and the gathered faults of queues, of contexts that TLBINV may name, forgotten: no replay
meets a failure from before it (R399). -/
def forgetWalks (d : Device) : Device :=
  { d with cores := tblMap (fun _ k => { k with
      waves := tblMap (fun _ w => { w with walkFaults := [] }) k.waves
      queues := tblMap (fun _ q => dropBad q) k.queues }) d.cores }

/-- TLBINV_COMPLETE (R209). -/
def execTlbinvComplete (core slot op : Nat) (s : State) : Out State :=
  runDevice (onHall (hallOfCore core) fun d =>
    if ((waveOf d core slot).bind fun w => findOp w .tlbinv op).isSome then completeKind (forgetWalks d) core slot .tlbinv op
    else d) s

end Sys2Proof.Machine
end

