-- ==== Sys2Proof/Machine/Alcoves.lean ====
section
/-! DEFINITION. Alcoves: the table, eviction and refill (R80 to R87, R405), and the alcove words (R254 to R260, R404). -/

namespace Sys2Proof.Machine

/-! ## The table and the granules of a core -/

/-- The entry of a context's name. -/
def alcFind (d : Device) (ctx : Nat) (name : W64) : Option Nat :=
  (d.alcoves.find? fun e => decide (e.2.owner.toNat = ctx) && decide (e.2.name = name) && decide (e.2.state ≠ 0)).map (·.1)

/-- The core that holds, or last held, an alcove (Table 9.4). -/
def alcCore (a : Alcove) : Nat := 4 * a.hall.toNat + a.core.toNat

/-- The granules of an alcove. -/
def alcSize (a : Alcove) : Nat := a.size.toNat + 1

/-- Whether a refill in progress holds granule `g` of core `c` (R86). -/
def targetAt (a : Alcove) (c g : Nat) : Bool :=
  match a.target with
  | some t => decide (t.1 = c) && decide (t.2 ≤ g) && decide (g < t.2 + alcSize a)
  | none => false

/-- Whether granule `g` of core `c` is taken: by a block, an alcove, or a refill. -/
def granuleTaken (d : Device) (c g : Nat) : Bool :=
  (d.blocks.any fun e => decide (e.2.core = c) && ownsGranule e.2 g) ||
    d.alcoves.any fun e => alcoveAt e.2 c g || targetAt e.2 c g

/-- The lowest runs of free granules for runs of the sizes given, such that all have room together. -/
def granulePlan (free : Nat → Bool) : List Nat → Option (List Nat)
  | [] => some []
  | n :: ns =>
    (List.range 65).findSome? fun g =>
      if g + n ≤ 64 ∧ (List.range n).all (fun i => free (g + i)) then
        (granulePlan (fun x => free x && !(decide (g ≤ x) && decide (x < g + n))) ns).map (g :: ·)
      else none

/-- Alcoves of a core, but for those in `keep`, that placement or a refill may evict, in the order of R85. -/
def evictOrder (d : Device) (c : Nat) (keep : List Nat) : List (Nat × Alcove) :=
  let owner := (hallOf d (hallOfCore c)).owner
  let rank (e : Nat × Alcove) : List Nat :=
    if owner ≠ some e.2.owner.toNat then [0, 0, e.1]
    else if e.2.life = 2 then [1, e.2.remain.toNat, e.1]
    else [2, e.2.lastUse, e.1]
  sortBy (fun a b => lexLt (rank a) (rank b)) (d.alcoves.filter fun e =>
    decide (e.2.state = 1) && decide (alcCore e.2 = c) && !e.2.busy && decide (e.2.attach = 0) && decide (e.2.life ≠ 3) &&
    !keep.contains e.1)

/-- The granules of a core that are free, or will be once the alcoves in `gone` and those on their way out have left. -/
def soonFree (d : Device) (c : Nat) (gone : List Nat) (g : Nat) : Bool :=
  !granuleTaken d c g ||
    d.alcoves.any fun x => (gone.contains x.1 || (x.2.busy && decide (x.2.state = 1))) && alcoveAt x.2 c g

/-- The alcoves to evict, in order, until runs of the sizes given would have room on a core; none where all would not do:
that nothing is then evicted is the model's choice (DESIGN CHOICE, log 111). -/
def evictFor (d : Device) (c : Nat) (ns held gone : List Nat) : List (Nat × Alcove) → Option (List Nat)
  | [] => none
  | e :: t =>
    match granulePlan (fun g => soonFree d c (gone ++ [e.1]) g && !held.contains g) ns with
    | some _ => some (gone ++ [e.1])
    | none => evictFor d c ns held (gone ++ [e.1]) t

/-- An eviction begins (R85). -/
def startEvict (d : Device) (i : Nat) : Device := modAlc d i fun a => { a with busy := true }

/-- Granules for runs on a core (R85): the runs, or the device with the evictions that they need begun. -/
inductive Granules where
  | runs (gs : List Nat)
  | wait (d : Device)

/-- Granules for a placement or a refill (R85, R86) of runs of the sizes `ns`: granules in `held` are not taken, alcoves in
`keep` not evicted. -/
def takeGranules (d : Device) (c : Nat) (ns held keep : List Nat) : Granules :=
  match granulePlan (fun g => !granuleTaken d c g && !held.contains g) ns with
  | some gs => .runs gs
  | none =>
    match granulePlan (fun g => soonFree d c [] g && !held.contains g) ns with
    | some _ => .wait d
    | none =>
      match evictFor d c ns held [] (evictOrder d c keep) with
      | some is => .wait (is.foldl startEvict d)
      | none => .wait d

/-- The refill of an alcove onto a core, at a granule, has begun (R86). -/
def refillAt (c g : Nat) (a : Alcove) : Alcove := { a with busy := true, target := some (c, g) }

/-- A refill of an evicted alcove onto a core begins, where granules outside `held` are free (R86). -/
def startRefill (d : Device) (i c : Nat) (held : List Nat) : Device :=
  match takeGranules d c [alcSize (alcOf d i)] held [] with
  | .runs gs => modAlc d i (refillAt c (gs.headD 0))
  | .wait d1 => d1

/-- Steps that bring an idle alcove to a core, outside granules `held`: a refill, or the eviction of a move (R84, R86). A PINNED
alcove is moved like any other (DESIGN CHOICE, log 112). -/
def bringAlcove (d : Device) (i c : Nat) (held : List Nat) : Device :=
  let a := alcOf d i
  if a.busy then d
  else if a.state = 2 then startRefill d i c held
  else if alcCore a ≠ c ∧ a.attach = 0 then startEvict d i
  else d

/-- Whether an alcove stands idle on a core. -/
def alcoveHere (d : Device) (i c : Nat) : Bool :=
  let a := alcOf d i
  decide (a.state = 1) && !a.busy && decide (alcCore a = c)

/-- A block attached to an alcove (R83, R84). -/
def attachBlock (d : Device) (bid i : Nat) (affinity : Bool) : Device :=
  let a := alcOf d i
  let d1 := modAlc { d with nextId := d.nextId + 1 } i fun a =>
    { a with attach := a.attach + 1, lastUse := d.nextId, remain := if a.life = 2 then a.lease else a.remain }
  modBlock d1 bid fun b => { b with attach := b.attach ++ [{ entry := i, name := a.name, gen := a.gen, affinity := affinity }] }

/-! ## Eviction and refill -/

/-- The offsets, among `n` bytes from an engine address, that are poisoned. -/
def poisonedAt (d : Device) (ctx : Nat) (g : Agent) (a : EAddr) (n : Nat) : List Nat :=
  (List.range n).filter fun i => match engByte d ctx g (a.plus i) with | .ok (_, p, _) => p | .error _ => false

/-- Units of 128 bytes that the hall's copy engine moves for an alcove from unit `k` on (R85): the device, the first unit that
has not landed, and the fault that stopped it there. -/
def moveUnits (ctx : Nat) (g : Agent) (src dst : EAddr) : Nat → Nat → Device → Device × Nat × Option MFault
  | 0, k, d => (d, k, none)
  | n + 1, k, d =>
    match engBytes ctx g src 128 d with
    | .error f => (walkFailed ctx f d, k, some f)
    | .ok (bs, bad, d1) =>
      match engPut d1 ctx ctx g dst bs with
      | .error f => (walkFailed ctx f d1, k, some f)
      | .ok d2 =>
        let d3 := if bad then (poisonedAt d1 ctx g src 128).foldl (fun d i => engPoison d ctx (dst.plus i)) d2 else d2
        moveUnits ctx g (src.plus 128) (dst.plus 128) n (k + 1) (charge d3 ctx .alcove 1)

/-- The units of an alcove's copy that have not landed, from one place to another (R85, R402). -/
def alcMove (a : Alcove) (hall : Nat) (src dst : EAddr) (d : Device) : Device × Nat × Option MFault :=
  let k := a.unit
  moveUnits a.owner.toNat (copyAgent hall true) (src.plus (128 * k)) (dst.plus (128 * k)) (32 * alcSize a - k) k d

/-- An operation of a wave whose token is orphaned (R393). -/
def orphanOp (o : LongOp) (w : Wave) : Wave :=
  let w1 := dropOp o.id w
  match o.tok with | some k => tokOrphan k w1 | none => w1

/-- The waiting ALCATT and ALCEVICT operations of an alcove that is lost (R405): those that attach learn of it, tokens of
those that evict are orphaned. -/
def tellLost (a : Alcove) (w : Wave) : Wave :=
  if w.ctx ≠ a.owner.toNat then w
  else
    let tell (o : LongOp) : LongOp :=
      if o.kind = .alcatt ∧ o.args.head? = some a.name ∧ o.args.getD 6 0 = BitVec.ofNat 64 a.made then
        { o with args := o.args ++ [3] } else o
    let w1 := { w with ops := w.ops.map tell }
    (w1.ops.filter fun o => decide (o.kind = .evict) && decide (o.args.head? = some a.name)).foldl (fun w o => orphanOp o w) w1

/-- Every wave of the die changed. -/
def mapWaves (d : Device) (f : Wave → Wave) : Device :=
  { d with cores := tblMap (fun _ k => { k with waves := tblMap (fun _ w => f w) k.waves }) d.cores }

/-- An alcove lost to a fault of its backing area (R405), with its record. -/
def loseAlcove (d : Device) (i : Nat) : Device :=
  let a := alcOf d i
  let c := match a.target with | some t => t.1 | none => alcCore a
  let d1 := mapWaves d (tellLost a)
  faultRecord (alcEnd d1 i) (.copyQueue (hallOfCore c) 4) a.owner.toNat 0x3D false 0 (BitVec.ofNat 64 i)
    { hdr := 0, word := 0, core := c, slot := 0, linear := 0 }

/-- A fault of an alcove's copy: parked on its page, or the alcove is lost (R402, R405, Table 19.3). -/
def alcFault (d : Device) (i : Nat) (f : MFault) : Device :=
  let a := alcOf d i
  let c := match a.target with | some t => t.1 | none => alcCore a
  if engParks d a.owner.toNat f then
    modAlc (parkEngine d (.copyQueue (hallOfCore c) 4) a.owner.toNat f
      { hdr := 0, word := 0, core := c, slot := 0, linear := 0 }) i fun a => { a with parked := some (f.addr.setWidth 48) }
  else loseAlcove d i

/-- The operations of a wave that wait for an alcove of a context to read evicted (R259). -/
def evictOps (ctx : Nat) (name : W64) (w : Wave) : List LongOp :=
  w.ops.filter fun o => decide (w.ctx = ctx) && decide (o.kind = .evict) && decide (o.args.head? = some name)

/-- The operations that wait for an alcove to read evicted complete (R259): what the eviction wrote is visible to their waves
without a fence, so their cores keep no older copy (R134). -/
def evictDone (ctx : Nat) (name : W64) (d : Device) : Device :=
  let done (w : Wave) : Wave := (evictOps ctx name w).foldl (fun w o =>
    let w1 := dropOp o.id w
    match o.tok with | some k => tokIdle k w1 | none => w1) w
  let cs := (d.cores.filter fun k => k.2.waves.any fun e => decide (evictOps ctx name e.2 ≠ [])).map (·.1)
  mapWaves (cs.foldl l1Acquire d) done

/-- ALCOVE_EVICT_DONE (R85): the copy to BACKING, after a parked fault from the unit that met it (Table 19.3), then STATE
evicted, the granules free and BUSY clear. -/
def evictStep (d : Device) (i : Nat) : Device :=
  let a := alcOf d i
  if a.state ≠ 1 ∨ !a.busy ∨ a.parked.isSome then d
  else
    let r := alcMove a a.hall.toNat (.spad (alcCore a) (4096 * a.offset.toNat)) (.virt a.backing.toNat) d
    match r.2.2 with
    | some f => alcFault (modAlc r.1 i fun a => { a with unit := r.2.1 }) i f
    | none => evictDone a.owner.toNat a.name (modAlc r.1 i fun a => { a with state := 2, busy := false, unit := 0 })

/-- ALCOVE_EVICT_DONE (R85). -/
def execAlcoveEvictDone (entry : Nat) (s : State) : Out State :=
  runDevice (fun d => onHall (alcOf d entry).hall.toNat (evictStep · entry) d) s

/-- ALCOVE_REFILL_DONE (R86): the copy from BACKING, after a parked fault from the unit that met it (Table 19.3), then the new
place, STATE resident and BUSY clear. -/
def refillStep (d : Device) (i : Nat) : Device :=
  let a := alcOf d i
  match a.target with
  | none => d
  | some (c, g) =>
    if a.state ≠ 2 ∨ a.parked.isSome then d
    else
      let r := alcMove a (hallOfCore c) (.virt a.backing.toNat) (.spad c (4096 * g)) d
      match r.2.2 with
      | some f => alcFault (modAlc r.1 i fun a => { a with unit := r.2.1 }) i f
      | none => modAlc r.1 i fun a =>
          { a with state := 1, busy := false, target := none, unit := 0, hall := BitVec.ofNat 7 (c / 4), core := BitVec.ofNat 2 (c % 4)
                   offset := BitVec.ofNat 6 g }

/-- ALCOVE_REFILL_DONE (R86). -/
def execAlcoveRefillDone (entry : Nat) (s : State) : Out State :=
  runDevice (fun d => onHall (match (alcOf d entry).target with | some t => hallOfCore t.1 | none => 0) (refillStep · entry) d) s

/-! ## The words -/

/-- The checks of an alcove word: the s registers it names, W unused, and its SUB (R254). -/
def alcChecks (w : WordE) (n : Nat) (subMax : Nat) (tok long : Bool) : List Check :=
  [sregCheck w.x 47, if 2 ≤ n then sregCheck w.y 39 else unusedField w.y 39,
   if 3 ≤ n then sregCheck w.z 31 else unusedField w.z 31, unusedField w.w 23, eSco w,
   c14 (!long && decide (w.hd.md ≠ 0)) 51, c14 (decide (subMax < w.sub.toNat)) 10] ++ tokChecks w tok

/-- A memory cause of a word that executes once, in every executing lane (R398). -/
def onceCause (ex : Mask) (cause : BitVec 8) (info : Nat) : Eff :=
  .trap { cause := cause, mask := ex, info := BitVec.ofNat 64 info, addr := 0 }

/-- The descriptor of ALCMAKE (R255): lease, lifetime, size and granule. -/
def alcDesc (x : W64) : Nat × Nat × Nat × Nat := (field x 48 16, field x 11 2, field x 6 5, field x 0 6)

/-- The legality of ALCMAKE's descriptor and backing address (R255). -/
def alcMakeChecks (v : View) (w : WordE) : List Check :=
  let x := src64 v w.y
  let t := alcDesc x
  if isS w.y && isS w.z then
    [c16 (decide (t.2.1 = 3) && !v.priv),
     c14 (decide (field x 13 35 ≠ 0) || decide (decide (t.2.1 = 2) ≠ decide (t.1 ≠ 0))) 39,
     c14 (decide (field (src64 v w.z) 0 12 ≠ 0) || decide (field (src64 v w.z) 48 16 ≠ 0)) 31]
  else []

/-- The alcove that ALCMAKE makes (R82, R255). -/
def newAlcove (v : View) (name x backing : W64) : Alcove :=
  let t := alcDesc x
  { blankAlcove with
    name := name, owner := BitVec.ofNat 6 v.w.ctx, hall := BitVec.ofNat 7 v.hall, core := BitVec.ofNat 2 (v.core % 4)
    offset := BitVec.ofNat 6 (v.blk.sgran + t.2.2.2), size := BitVec.ofNat 5 t.2.2.1, state := 1
    life := BitVec.ofNat 2 t.2.1, lease := BitVec.ofNat 16 t.1, remain := BitVec.ofNat 16 t.1
    backing := backing.setWidth 48, queue := BitVec.ofNat 8 v.grid.queue, grid := v.blk.grid, made := v.d.nextId }

/-- ALCMAKE (R82, R255). -/
def alcMake (v : View) (w : WordE) (ex : Mask) : Eff :=
  let name := src64 v w.x
  let x := src64 v w.y
  let t := alcDesc x
  if attWaits v.w then .hold v.d
  else
    match alcFind v.d v.w.ctx name with
    | some i => onceCause ex 0x39 i
    | none =>
      match leastFrom (fun i => (tblFind v.d.alcoves i).isNone) 4096 0 with
      | none => onceCause ex 0x3A 0
      | some i =>
        let gs := (List.range (t.2.2.1 + 1)).map fun k => v.blk.sgran + t.2.2.2 + k
        if v.blk.ngran ≤ t.2.2.2 + t.2.2.1 ∨ gs.any fun g => !ownsGranule v.blk g then onceCause ex 0x3B (field x 0 11)
        else
          let d1 := { v.d with alcoves := tblSet v.d.alcoves i (newAlcove v name x (src64 v w.z)) }
          let d2 := modBlock d1 v.w.block fun b => { b with freed := b.freed ++ gs }
          .done (attachBlock d2 v.w.block i false) .onward

/-- ALCMAKE (R255). -/
def jobAlcmake (w : WordE) : Job :=
  eJob 0x30 w [w.x, w.y, w.z] (fun v => alcChecks w 3 0 false false ++ alcMakeChecks v w) fun v ex => alcMake v w ex
/-- ALCMAKE (R255): its step. -/
def execAlcmake (w : WordE) (s : State) : Out State := runJob (jobAlcmake w) s

/-- The result of ALCATT (R256). -/
def attValue (a : Alcove) : W64 := BitVec.ofNat 64 (a.offset.toNat * 4096 + a.gen.toNat * 2 ^ 32)

/-- What an attempt to attach comes to: the result, a wait, or INFO of cause 0x38. -/
inductive Attach' where
  | done (d : Device) (x : W64)
  | wait (d : Device)
  | absent (info : Nat)

/-- An attempt to attach a block (R84, R256, R404). -/
def attachTry (d : Device) (bid : Nat) (b : Block) (name : W64) : Attach' :=
  match alcFind d b.ctx name with
  | none => .absent 0
  | some i =>
    if (alcOf d i).marked then .absent 2
    else if attachedTo b i then .done d (attValue (alcOf d i))
    else if alcoveHere d i b.core then .done (attachBlock d bid i false) (attValue (alcOf d i))
    else .wait (bringAlcove d i b.core [])

/-- The number of the making of the alcove of a context's name. -/
def madeOf (d : Device) (ctx : Nat) (name : W64) : Nat :=
  match alcFind d ctx name with | some i => (alcOf d i).made | none => 0

/-- Another attempt of an ALCATT that waits for an alcove by the number of its making (R404, R405): INFO 3 where it was lost,
1 where it has ended, be there another alcove of its name by now. -/
def attachAgain (d : Device) (bid : Nat) (b : Block) (name : W64) (made : Nat) (lost : Bool) : Attach' :=
  if lost then .absent 3
  else if (alcFind d b.ctx name).isNone ∨ madeOf d b.ctx name ≠ made then .absent 1
  else attachTry d bid b name

/-- An ALCATT issued: its register pending, its place kept for a trap that comes while it waits (R404). -/
def attOp (v : View) (w : WordE) (ex : Mask) (x : Option W64) (wv : Wave) : Wave :=
  { wv with
    ops := wv.ops ++ [{ id := wv.nextOp, kind := .alcatt, win := windowOf (some w.hd.md), regs := [.sreg (regNo w.y)]
                        writes := match x with | some y => [(.sreg (regNo w.y), y)] | none => []
                        tok := none, flags := 0, ports := []
                        args := match x with
                          | some _ => []
                          | none => [src64 v w.x, ex, v.p.pc.setWidth 64, v.w.pos.clpos.setWidth 64, w.toBits 0x31,
                                     BitVec.ofNat 64 (regNo w.y), BitVec.ofNat 64 (madeOf v.d v.w.ctx (src64 v w.x))] }]
    nextOp := wv.nextOp + 1 }

/-- ALCATT (R256): an attachment made at issue, or waited for. -/
def jobAlcatt (w : WordE) : Job :=
  eJob 0x31 w [w.x, w.y] (fun _ => alcChecks w 2 0 false true) fun v ex =>
    if attWaits v.w then .hold v.d
    else
      match attachTry v.d v.w.block v.blk (src64 v w.x) with
      | .absent info => onceCause ex 0x38 info
      | .done d x => .done (v.put (l1Acquire d v.core) (attOp v w ex (some x))) .onward
      | .wait d => .done (v.put d (attOp v w ex none)) .onward
/-- ALCATT (R256): its step. -/
def execAlcatt (w : WordE) (s : State) : Out State := runJob (jobAlcatt w) s

/-- ALCATT_COMPLETE (R256, R404): the register of an attachment made, or another attempt. An attempt that fails traps at
the ALCATT; a wave whose lanes have all left it by then takes no trap (R205). -/
def attComplete (d : Device) (core slot op : Nat) : Device :=
  match waveOf d core slot with
  | none => d
  | some w =>
    match findOp w .alcatt op, tblFind d.blocks w.block with
    | some o, some b =>
      match o.args with
      | [] => completeOp d core slot w o
      | name :: rest =>
        match attachAgain d w.block b name (rest.getD 5 0).toNat (decide (rest.length = 7)) with
        | .wait d1 => d1
        | .done d1 x => completeOp (l1Acquire d1 core) core slot w { o with writes := [(.sreg (rest.getD 4 0).toNat, x)] }
        | .absent info =>
          let d1 := modWave d core slot (dropOp op)
          match viewAt d1 core slot with
          | none => d1
          | some v1 =>
            takeFault v1 { cause := 0x38, mask := rest.getD 0 0, info := BitVec.ofNat 64 info, addr := 0 } (rest.getD 3 0)
              ((rest.getD 1 0).setWidth 48) ((rest.getD 2 0).setWidth 4)
    | _, _ => d

/-- ALCATT_COMPLETE (R256). -/
def execAlcattComplete (core slot op : Nat) (s : State) : Out State := runDevice (onHall (hallOfCore core) fun d => attComplete d core slot op) s

/-- ALCSEAL (R87, R257): the seal, as a release at .dev. Every earlier store of the wave stands in memory when its word has
issued (log 6), so later words need not wait. -/
def jobAlcseal (w : WordE) : Job :=
  eJob 0x32 w [w.x] (fun _ => alcChecks w 1 0 false false) fun v ex =>
    if attWaits v.w then .hold v.d
    else
      match alcFind v.d v.w.ctx (src64 v w.x) with
      | none => onceCause ex 0x35 0
      | some i =>
        if !attachedTo v.blk i then onceCause ex 0x35 1
        else if (alcOf v.d i).busy then .hold v.d
        else .done (modAlc v.d i fun a =>
          { a with sealed := true, gen := a.gen + 1, remain := if a.life = 2 then a.lease else a.remain }) .onward
/-- ALCSEAL (R87): its step. -/
def execAlcseal (w : WordE) (s : State) : Out State := runJob (jobAlcseal w) s

/-- ALCREL (R258). -/
def jobAlcrel (w : WordE) : Job :=
  eJob 0x33 w [w.x] (fun _ => alcChecks w 1 1 false false) fun v _ =>
    if attWaits v.w then .hold v.d
    else
      match alcFind v.d v.w.ctx (src64 v w.x) with
      | none => .done v.d .onward
      | some i =>
        if (alcOf v.d i).busy then .hold v.d
        else
          let d1 := if w.sub.getLsbD 0 then modAlc v.d i fun a => { a with marked := true } else v.d
          let d2 := if attachedTo v.blk i then
              modBlock (alcDetach d1 i) v.w.block fun b =>
                { b with attach := b.attach.filter fun a => decide (a.entry ≠ i) }
            else d1
          let a := alcOf d2 i
          .done (if a.state ≠ 0 ∧ a.marked ∧ a.attach = 0 then alcEnd d2 i else d2) .onward
/-- ALCREL (R258): its step. -/
def execAlcrel (w : WordE) (s : State) : Out State := runJob (jobAlcrel w) s

/-- ALCEVICT (R259). -/
def jobAlcevict (w : WordE) : Job :=
  eJob 0x34 w [w.x] (fun _ => alcChecks w 1 0 true false) fun v ex =>
    let name := src64 v w.x
    if attWaits v.w then .hold v.d
    else
      match alcFind v.d v.w.ctx name with
      | none => .done v.d .onward
      | some i =>
        let a := alcOf v.d i
        if a.busy then .hold v.d
        else if a.state = 2 then .done v.d .onward
        else if a.attach ≠ 0 then onceCause ex 0x3C a.attach.toNat
        else
          .done (v.put (startEvict v.d i) fun x =>
            if w.te then eStart w (pushOp .evict none [] (some w.tok.toNat) 0 [name] x) else x) .onward
/-- ALCEVICT (R259): its step. -/
def execAlcevict (w : WordE) (s : State) : Out State := runJob (jobAlcevict w) s

/-- The result of ALCQRY (Table 9.4). -/
def qryValue (a : Alcove) : W64 :=
  BitVec.ofNat 64 (a.gen.toNat * 2 ^ 48 + a.attach.toNat * 2 ^ 32 + a.remain.toNat * 2 ^ 16 + alcCore a * 64 +
    a.life.toNat * 16 + nat1 a.busy * 8 + nat1 a.sealed * 4 + a.state.toNat)

/-- ALCQRY (R260). -/
def jobAlcqry (w : WordE) : Job :=
  eJob 0x35 w [w.x, w.y] (fun _ => alcChecks w 2 0 false true) fun v _ =>
    if attWaits v.w then .hold v.d
    else
      let x := match alcFind v.d v.w.ctx (src64 v w.x) with | some i => qryValue (alcOf v.d i) | none => 0
      .done (v.put v.d (pushOp .query (windowOf (some w.hd.md)) [(.sreg (regNo w.y), x)] none 0 [])) .onward
/-- ALCQRY (R260): its step. -/
def execAlcqry (w : WordE) (s : State) : Out State := runJob (jobAlcqry w) s

end Sys2Proof.Machine
end

