-- ==== Sys2Proof/Machine/CrossLane.lean ====
section
/-! DEFINITION. Cross-lane words (R187 to R193): they read any lane of the wave and write executing lanes. -/

namespace Sys2Proof.Machine

/-- A source of a cross-lane word in a lane, an entry for a queue operand. -/
def laneSrc (v : View) (ents : List (List W32)) (i : Nat) (op : Operand) (l : Nat) : W32 := src v (ents.getD i []) op l

/-- A cross-lane word in format A with one result a lane: never uniform (R187). `f` gives the result from the value of
each source in each lane, the executing lanes and the lane. -/
def crossJob (opc : BitVec 8) (w : WordA) (n : Nat) (legal : View → List Check)
    (f : View → Mask → (Nat → Nat → W32) → Nat → W32 × Flags) : Job :=
  { code := w.toBits opc, g := w.hd.g, lanes := .each, u := w.u
    refs := refsOf (w.d :: aSrcs w n), pops := aSrcs w n
    legal := fun v => aOperands w n ++ legal v
    act := fun v ex => destEffect v false ex w.d none (aSrcs w n) fun ents =>
      f v ex fun i l => laneSrc v ents i ((aSrcs w n).getD i (.pos 0)) l }

/-- The lane that SHFL reads for a lane (R188). -/
def shflLane (mode w l : Nat) (b : W32) : Nat :=
  let i := l % w
  let t : Int := match mode with
    | 0 => (b.toNat % w : Nat)
    | 1 => (i : Int) - b.toNat
    | 2 => (i : Int) + b.toNat
    | _ => ((i ^^^ (b.toNat % w)) : Nat)
  if 0 ≤ t ∧ t < w then l - i + t.toNat else l

/-- SHFL (R188). -/
def jobShfl (w : WordA) : Job :=
  let seg := 2 ^ (w.sub.toNat / 16 % 8)
  crossJob 0x70 w 2 (fun v => aPlain w false ++
      [c14 (decide (v.width < seg) || w.sub.getLsbD 2 || w.sub.getLsbD 3 || w.sub.getLsbD 7) 15])
    fun _ _ x l => (x 0 (shflLane (w.sub.toNat % 4) seg l (x 1 l)), 0)
/-- SHFL (R188): its step. -/
def execShfl (w : WordA) (s : State) : Out State := runJob (jobShfl w) s

/-- The lane whose push stands in lane `t` (R189): the highest executing lane that sends to it. -/
def pushedBy (width : Nat) (ex : Mask) (b : Nat → W32) (t : Nat) : Option Nat :=
  ((lanesOf width ex).filter fun l => decide ((b l).toNat % width = t)).getLast?

/-- LPUSH (R189): the lanes that receive a push are the destination's. R189 writes V(D, t) alone; an s or b register takes the
value of the highest of them, and a queue an entry with zeros elsewhere (log 113). -/
def jobLpush (w : WordA) : Job :=
  { code := w.toBits 0x71, g := w.hd.g, lanes := .each, u := w.u
    refs := refsOf [w.d, w.a, w.b], pops := [w.a, w.b]
    legal := fun _ => aOperands w 2 ++ aPlain w false ++ subZero w
    act := fun v ex =>
      match popWalk v [w.a, w.b] [] with
      | (_, some bad) => .trap (popTrap bad)
      | (ents, none) =>
        let from' := pushedBy v.width ex (laneSrc v ents 1 w.b)
        let m := maskOf ((lanesOf v.width ex).filter fun l => (from' l).isSome)
        destEffect v false m w.d none [w.a, w.b] fun es l => (laneSrc v es 0 w.a ((from' l).getD l), 0) }
/-- LPUSH (R189): its step. -/
def execLpush (w : WordA) (s : State) : Out State := runJob (jobLpush w) s

/-- The executing lanes in which the predicate of a field is true (R190). -/
def ballotMask (v : View) (ex : Mask) (op : Operand) : Mask :=
  maskOf ((lanesOf v.width ex).filter fun l => predFieldOf v.w op l)

/-- BALLOT (R190). -/
def jobBallot (w : WordA) : Job :=
  { code := w.toBits 0x72, g := w.hd.g, lanes := .each, u := w.u, refs := refsOf [w.d]
    legal := fun _ => [c13 (!isAluDst w.d) 47, c13 (predField w.a).isNone 39] ++ srcCheck false w.b 31 ++
      srcCheck false w.c 23 ++ [c14 w.low 0] ++ aPlain w false ++
      [c14 (decide (w.sub.toNat / 2 ≠ 0) || (isS w.d && w.sub.getLsbD 0)) 15]
    act := fun v ex =>
      let m := ballotMask v ex w.a
      match w.d with
      | .s n => .done (putWrites v v.d [(.sreg n, m)]) .onward
      | d => destEffect v false ex d none [] fun _ _ => (m.extractLsb' (32 * nat1 (w.sub.getLsbD 0)) 32, 0) }
/-- BALLOT (R190): its step. -/
def execBallot (w : WordA) (s : State) : Out State := runJob (jobBallot w) s

/-- The outcome of a vote over the executing lanes (R190). -/
def voteOf (mode : Nat) (ex m : Mask) : Bool :=
  match mode with
  | 0 => decide (m = ex)
  | 1 => decide (m ≠ 0)
  | _ => decide (m = ex) || decide (m = 0)

/-- VOTE (R190). -/
def jobVote (w : WordP) : Job :=
  { code := w.toBits 0x73, g := w.hd.g, lanes := .each, u := w.u
    legal := fun _ => [c13 (predField w.a).isNone 39] ++ srcCheck false w.b 31 ++ pPlain w ++
      [c14 (decide (2 < w.sub.toNat)) 15]
    act := fun v ex =>
      let t := voteOf w.sub.toNat ex (ballotMask v ex w.a)
      .done (v.put v.d (predResult v ex w fun _ => t)) .onward }
/-- VOTE (R190): its step. -/
def execVote (w : WordP) (s : State) : Out State := runJob (jobVote w) s

/-- The FP32 combination of values in lane order (R191). -/
def reduceFp (m : Rm) (k : Nat) (xs : List FVal) : FVal × Flags :=
  match xs with
  | [] => (match k with | 0 => .num false 0 | 1 => .inf false | _ => .inf true, 0)
  | [x] => (x, sigFlag x)
  | x :: t =>
    match k with
    | 0 =>
      let r := sumF m xs
      let q := roundF fp32 m r.1
      (q.1, q.2 ||| r.2 ||| orFlags (xs.map sigFlag))
    | 1 => t.foldl (fun a y => let r := minF a.1 y; (r.1, a.2 ||| r.2)) (x, 0)
    | _ => t.foldl (fun a y => let r := maxF a.1 y; (r.1, a.2 ||| r.2)) (x, 0)

/-- The integer combination of values in lane order (R191). -/
def reduceInt (sg sat : Bool) (k : Nat) (xs : List W32) : W32 × Flags :=
  let iv (x : W32) : Int := intOf 32 sg x.toNat
  let b := intBounds 32 sg
  match k with
  | 0 => let r := narrowInt 32 sg sat (xs.foldl (fun a x => a + iv x) 0); (w32 r.1, r.2)
  | 1 => (w32 (xs.foldl (fun a x => min a (iv x)) b.2), 0)
  | 2 => (w32 (xs.foldl (fun a x => max a (iv x)) b.1), 0)
  | 3 => (xs.foldl (· &&& ·) (BitVec.allOnes 32), 0)
  | 4 => (xs.foldl (· ||| ·) 0, 0)
  | _ => (xs.foldl (· ^^^ ·) 0, 0)

/-- The combination of the values of some lanes (R191). -/
def reduceLanes (v : View) (w : WordA) (xs : List W32) : W32 × Flags :=
  let k := subHi w.sub % 8
  if subLo w.sub = 8 then fres v.w.fmode (reduceFp (aRm v w) k (xs.map (aFsrc v w 0)))
  else reduceInt (decide (subLo w.sub = 2)) (satField w.hd.md) k xs

/-- The checks of WRED and WSCAN (R191): RM with an FP32 sum, SAT with an integer sum, NEG and ABS with FP32. -/
def reduceChecks (w : WordA) (scan : Bool) : List Check :=
  let fp := decide (subLo w.sub = 8)
  let add := decide (subHi w.sub % 8 = 0)
  let k := subHi w.sub % 8
  [c14 (!([2, 6, 8].contains (subLo w.sub))) 11,
   c14 (decide (5 < k) || (fp && decide (2 < k)) || (!scan && decide (8 ≤ subHi w.sub))) 15,
   c14 (decide ((if fp && add then 4 else 0) < rmField w.hd.md)) 50,
   c14 (satField w.hd.md && (fp || !add)) 51,
   c14 (decide (w.neg.toNat % 4 ≠ 0) || (!fp && decide (w.neg ≠ 0))) 6,
   c14 (decide (w.abs.toNat % 4 ≠ 0) || (!fp && decide (w.abs ≠ 0))) 3]

/-- The value of A that WRED and WSCAN combine: an FP32 source where T is FP32 (R164). -/
def reduceSrc (v : View) (w : WordA) (ents : List (List W32)) (l : Nat) : W32 :=
  aluVal v (ents.headD []) (w.a, decide (subLo w.sub = 8)) l l

/-- WRED or WSCAN (R191). -/
def reduceJob (opc : BitVec 8) (w : WordA) (scan : Bool) : Job :=
  { crossJob opc w 1 (fun _ => reduceChecks w scan) (fun _ _ _ _ => (0, 0)) with
    act := fun v ex => destEffect v false ex w.d none [w.a] fun ents l =>
      let ls := (lanesOf v.width ex).filter fun i =>
        !scan || decide (i < l) || (decide (i = l) && !w.sub.getLsbD 7)
      reduceLanes v w (ls.map (reduceSrc v w ents)) }

/-- WRED (R191). -/
def jobWred (w : WordA) : Job :=
  reduceJob 0x74 w false
/-- WRED (R191): its step. -/
def execWred (w : WordA) (s : State) : Out State := runJob (jobWred w) s
/-- WSCAN (R191). -/
def jobWscan (w : WordA) : Job :=
  reduceJob 0x75 w true
/-- WSCAN (R191): its step. -/
def execWscan (w : WordA) (s : State) : Out State := runJob (jobWscan w) s

/-- BCAST (R192). -/
def jobBcast (w : WordA) : Job :=
  crossJob 0x76 w 2 (fun _ => aPlain w false ++ subZero w) fun v ex x _ =>
    (x 0 ((x 1 ((lowLane v.width ex).getD 0)).toNat % v.width), 0)
/-- BCAST (R192): its step. -/
def execBcast (w : WordA) (s : State) : Out State := runJob (jobBcast w) s

/-- MATCH (R192): its destination is a vector register. -/
def jobMatchLanes (w : WordA) : Job :=
  crossJob 0x77 w 1 (fun _ => [c13 (!isV w.d) 47] ++ aPlain w false ++ [c14 (decide (w.sub.toNat / 2 ≠ 0)) 15])
    fun v ex x l =>
      ((maskOf ((lanesOf v.width ex).filter fun i => decide (x 0 i = x 0 l))).extractLsb'
        (32 * nat1 (w.sub.getLsbD 0)) 32, 0)
/-- MATCH (R192): its step. -/
def execMatchLanes (w : WordA) (s : State) : Out State := runJob (jobMatchLanes w) s

/-- The bytes that BSEL chooses, lowest first, given the byte below (R193). -/
def bselBytes (x : W64) (c : W32) : Nat → Nat → Nat → List Byte
  | 0, _, _ => []
  | n + 1, i, prev =>
    let k := c.toNat / 2 ^ (4 * i) % 16
    let y := if k < 8 then x.toNat / 2 ^ (8 * k) % 256
      else if k = 9 then 255
      else if k = 10 then (if 128 ≤ prev then 255 else 0)
      else if k = 11 then prev else 0
    BitVec.ofNat 8 y :: bselBytes x c n (i + 1) y

/-- BSEL (R193). -/
def jobBsel (w : WordA) : Job :=
  crossJob 0x78 w 3 (fun _ => aPlain w false ++ subZero w) fun _ _ x l =>
    (BitVec.ofNat 32 (leNat (bselBytes (x 1 l ++ x 0 l) (x 2 l) 4 0 0)), 0)
/-- BSEL (R193): its step. -/
def execBsel (w : WordA) (s : State) : Out State := runJob (jobBsel w) s

end Sys2Proof.Machine
end

