-- ==== Sys2Proof/Machine/Geometry.lean ====
section
/-! DEFINITION. Geometry and pixel words: INTERP, DDX, DDY, EXPC, EXPZ, DISCARD, EMITV and EMITP (R325 to R330, R391). -/

namespace Sys2Proof.Machine

/-- The scratchpad reads of INTERP for vertex `k` (R325): lane, core, offset and length. -/
def attrReads (v : View) (ents : List (List W32)) (w : WordA) (ex : Mask) (k : Nat) : List (Nat × Nat × Nat × Nat) :=
  (lanesOf v.width ex).map fun l =>
    (l, v.core, (laneSrc v ents 0 w.a l).toNat + 64 * k + 4 * (w.sub.toNat % 16), 4)

/-- The attribute of vertex `k` that INTERP reads in a lane. -/
def attrOf (v : View) (ents : List (List W32)) (w : WordA) (l k : Nat) : W32 :=
  BitVec.ofNat 32 (leNat (spadRead v.d v.core
    ((laneSrc v ents 0 w.a l).toNat + 64 * k + 4 * (w.sub.toNat % 16)) 4))

/-- The negative of a value. -/
def negVal : FVal → FVal
  | .num s x => .num (!s) (-x)
  | .inf s => .inf (!s)
  | x => x

/-- a0 + b1 (a1 − a0) + b2 (a2 − a0), exact, rounded once (R325). -/
def interpF (a0 a1 a2 b1 b2 : FVal) : FVal × Flags :=
  let d1 := sumF .rne [a1, negVal a0]
  let d2 := sumF .rne [a2, negVal a0]
  let p1 := mulF b1 d1.1
  let p2 := mulF b2 d2.1
  let t := sumF .rne [a0, p1.1, p2.1]
  let r := roundF fp32 .rne t.1
  (r.1, r.2 ||| d1.2 ||| d2.2 ||| p1.2 ||| p2.2 ||| t.2 ||| orFlags ([a0, a1, a2, b1, b2].map sigFlag))

/-- The result of INTERP in a lane. -/
def interpLane (v : View) (w : WordA) (ents : List (List W32)) (l : Nat) : W32 × Flags :=
  let a (k : Nat) : W32 := attrOf v ents w l k
  if w.sub.getLsbD 4 then (a 0, 0)
  else
    let b1 := f32 (aluVal v (ents.getD 1 []) (w.b, true) l l)
    let b2 := f32 (aluVal v (ents.getD 2 []) (w.c, true) l l)
    let r := interpF (f32 (a 0)) (f32 (a 1)) (f32 (a 2)) b1 b2
    (f32Bits r.1, r.2)

/-- INTERP (R325). -/
def jobInterp (w : WordA) : Job :=
  { crossJob 0x18 w 3 (fun _ => aPlain w false ++ [c14 (decide (32 ≤ w.sub.toNat)) 15]) (fun _ _ _ _ => (0, 0)) with
    act := fun v ex =>
      match popWalk v [w.a, w.b, w.c] [] with
      | (_, some bad) => .trap (popTrap bad)
      | (ents, none) =>
        let ks := if w.sub.getLsbD 4 then [0] else [0, 1, 2]
        match checkSpad v false false true none (ks.flatMap (attrReads v ents w ex)) with
        | some t => .trap t
        | none =>
          let n := (ks.map fun k => passes 4 false true ((attrReads v ents w ex k).map fun a => (a.1, a.2.2.1))).sum
          (destEffect v false ex w.d none [w.a, w.b, w.c] (interpLane v w)).after fun d => v.put d (addPasses n) }
/-- INTERP (R325): its step. -/
def execInterp (w : WordA) (s : State) : Out State := runJob (jobInterp w) s

/-- DDX or DDY (R326): the difference of the values of A in two lanes of the quad, the second subtracted from the first; an
inline integer gives the FP32 value of that integer (R164). -/
def derivJob (opc : BitVec 8) (w : WordA) (hi lo : Nat → Nat) : Job :=
  crossJob opc w 1 (fun _ => modsZero w 0 ++ rmUpTo w 4 ++
      [c14 (satField w.hd.md) 51, c14 (decide (subLo w.sub ≠ 8)) 11, c14 (decide (2 ≤ subHi w.sub)) 15])
    fun v _ x l =>
      let a (l : Nat) : W32 :=
        match w.a with
        | .pos _ => srcFp v [] w.a l
        | .neg _ => srcFp v [] w.a l
        | _ => x 0 l
      fres v.w.fmode (addF fp32 (aRm v w) (aFsrc v w 0 (a (hi l))) (negVal (aFsrc v w 0 (a (lo l)))))

/-- DDX (R326). -/
def jobDdx (w : WordA) : Job :=
  let r (l : Nat) : Nat := if w.sub.getLsbD 4 then 0 else l % 4 / 2
  derivJob 0x19 w (fun l => l / 4 * 4 + 2 * r l + 1) (fun l => l / 4 * 4 + 2 * r l)
/-- DDX (R326): its step. -/
def execDdx (w : WordA) (s : State) : Out State := runJob (jobDdx w) s

/-- DDY (R326). -/
def jobDdy (w : WordA) : Job :=
  let c (l : Nat) : Nat := if w.sub.getLsbD 4 then 0 else l % 2
  derivJob 0x1A w (fun l => l / 4 * 4 + 2 + c l) (fun l => l / 4 * 4 + c l)
/-- DDY (R326): its step. -/
def execDdy (w : WordA) (s : State) : Out State := runJob (jobDdy w) s

/-- The cause of R391 of a pixel word in a wave that no raster unit formed. -/
def pixelOnly (v : View) (ex : Mask) : Option Trap :=
  if v.w.gfx.pix.isNone then some (wordTrap v 0x19 ex 3) else none

/-- A change of a wave's graphics state. -/
def modGfx (f : WaveGfx → WaveGfx) (w : Wave) : Wave := { w with gfx := f w.gfx }

/-- A change of the inputs of a pixel wave. -/
def modPix (f : PixWave → PixWave) (w : Wave) : Wave := modGfx (fun g => { g with pix := g.pix.map f }) w

/-- A lane's pixel data, from lanes not in the table zeros. -/
def blankLane : PixLane := { x := 0, y := 0, tri := 0, depth := 0, b1 := 0, b2 := 0, exports := 0 }

/-- The fragment that a lane exports to a target (R303, R327), with the geometry grid of its draw. -/
def exportOf (v : View) (p : PixWave) (a t l : Nat) : Option (Nat × Fragment) :=
  let k := tblGet blankLane p.lanes l
  match p.tris[k.tri]? with
  | none => none
  | some tr => some (tr.grid,
      { grid := v.blk.grid, order := tr.order ++ [k.exports], state := tr.state, target := t, x := k.x, y := k.y,
        depth := k.depth, colour := (List.range 4).map fun i => vget v.d v.core v.w l (a + i) })

/-- A change of the draw of a grid. -/
def modDraw (d : Device) (g : Nat) (f : Draw → Draw) : Device := modGrid d g fun x => { x with draw := f x.draw }

/-- A fragment delivered to the back ends of its draw. -/
def deliver (d : Device) (e : Nat × Fragment) : Device := modDraw d e.1 fun w => { w with frags := w.frags ++ [e.2] }

/-- One more EXPC counted in some lanes. -/
def countExports (ls : List Nat) (p : PixWave) : PixWave :=
  { p with lanes := ls.foldl (fun t l =>
      let k := tblGet blankLane t l
      tblSet t l { k with exports := k.exports + 1 }) p.lanes }

/-- EXPC (R327): store-type. -/
def jobExpc (w : WordA) : Job :=
  { code := w.toBits 0x20, g := w.hd.g, lanes := .each, u := w.u, refs := vRefs (regNo w.a) 4
    legal := fun _ => [c14 (!isUnused w.d) 47, c13 (!isV w.a) 39, groupCheck w.a 4 39, c14 (!isUnused w.b) 31,
      c14 (!isUnused w.c) 23, c14 w.low 0, c14 (decide (8 ≤ w.sub.toNat)) 15] ++ aPlain w false
    early := pixelOnly
    act := fun v ex =>
      if 63 ≤ storesOut v.w then .hold v.d
      else
        match v.w.gfx.pix with
        | none => .hold v.d
        | some p =>
          let ls := (lanesOf v.width ex).filter fun l => !v.helpers.getLsbD l
          let fs := ls.filterMap (exportOf v p (regNo w.a) w.sub.toNat)
          storeDone v [] (v.put (fs.foldl deliver v.d) (modPix (countExports ls))) }
/-- EXPC (R327): its step. -/
def execExpc (w : WordA) (s : State) : Out State := runJob (jobExpc w) s

/-- A depth clamped to [0, 1], NaN taken as 0 (R327). -/
def clampDepth (x : W32) : W32 :=
  match f32 x with
  | .nan _ => 0
  | .inf neg => if neg then 0 else 0x3F800000
  | .num _ r => if r < 0 then 0 else if 1 < r then 0x3F800000 else x

/-- The depths that EXPZ records in some lanes. -/
def recordDepths (xs : List (Nat × W32)) (p : PixWave) : PixWave :=
  { p with lanes := xs.foldl (fun t e =>
      let k := tblGet blankLane t e.1
      tblSet t e.1 { k with depth := clampDepth e.2 }) p.lanes }

/-- EXPZ (R327): store-type. -/
def jobExpz (w : WordA) : Job :=
  { code := w.toBits 0x21, g := w.hd.g, lanes := .each, u := w.u, refs := refsOf [w.a], pops := [w.a]
    legal := fun _ => [c14 (!isUnused w.d) 47] ++ srcCheck true w.a 39 ++ srcCheck false w.b 31 ++
      srcCheck false w.c 23 ++ [c14 w.low 0] ++ aPlain w false ++ subZero w
    early := pixelOnly
    act := fun v ex =>
      if 63 ≤ storesOut v.w then .hold v.d
      else
        match popWalk v [w.a] [] with
        | (_, some bad) => .trap (popTrap bad)
        | (ents, none) =>
          let ls := (lanesOf v.width ex).filter fun l => !v.helpers.getLsbD l
          let xs := ls.map fun l => (l, aluVal v (ents.headD []) (w.a, true) l l)
          storeDone v [] (v.put (popApply v v.d [w.a]) (modPix (recordDepths xs))) }
/-- EXPZ (R327): its step. -/
def execExpz (w : WordA) (s : State) : Out State := runJob (jobExpz w) s

/-- DISCARD (R328). -/
def jobDiscard (w : WordA) : Job :=
  { code := w.toBits 0x22, g := w.hd.g, lanes := .each, u := w.u
    legal := fun _ => [c14 (!isUnused w.d) 47, c14 (!isUnused w.a) 39, c14 (!isUnused w.b) 31,
      c14 (!isUnused w.c) 23, c14 w.low 0] ++ aPlain w false ++ subZero w
    early := pixelOnly
    act := fun v ex => .done (v.put v.d (modGfx fun g => { g with helper := g.helper ||| ex })) .onward }
/-- DISCARD (R328): its step. -/
def execDiscard (w : WordA) (s : State) : Out State := runJob (jobDiscard w) s

/-- The vertex that EMITV appends for a lane (R329). -/
def vertexOf (v : View) (w : WordA) (l : Nat) : Vertex :=
  { pos := (List.range 4).map fun i => vget v.d v.core v.w l (regNo w.a + i)
    attrs := (List.range w.sub.toNat).map fun i => vget v.d v.core v.w l (regNo w.b + i) }

/-- EMITV (R329). -/
def jobEmitv (w : WordA) : Job :=
  { code := w.toBits 0x28, g := w.hd.g, lanes := .each, u := w.u
    refs := refsOf [w.d] ++ vRefs (regNo w.a) 4 ++ (if isV w.b then vRefs (regNo w.b) w.sub.toNat else [])
    legal := fun _ => [c13 (!isAluDst w.d) 47, c13 (!isV w.a) 39, groupCheck w.a 4 39,
      c13 (decide (w.sub ≠ 0) && !isV w.b) 31, c14 (decide (w.sub = 0) && !isUnused w.b) 31,
      c14 (decide (w.sub ≠ 0) && decide (w.sub.toNat ≤ 16) && isV w.b && !vGroupOk (regNo w.b) w.sub.toNat) 31,
      c14 (!isUnused w.c) 23, c14 w.low 0, c14 (decide (32 ≤ w.sub.toNat)) 15,
      c14 (decide (16 < w.sub.toNat % 32)) 12] ++ aPlain w false
    early := fun v ex =>
      if 256 < v.w.gfx.verts.length + (lanesOf v.width ex).length then some (wordTrap v 0x19 ex 1) else none
    act := fun v ex =>
      let ls := lanesOf v.width ex
      let n := v.w.gfx.verts.length
      let rank (l : Nat) : Nat := (ls.filter fun i => decide (i < l)).length
      (destEffect v false ex w.d none [] fun _ l => (BitVec.ofNat 32 (n + rank l), 0)).after fun d =>
        v.put d (modGfx fun g => { g with verts := g.verts ++ ls.map (vertexOf v w) }) }
/-- EMITV (R329): its step. -/
def execEmitv (w : WordA) (s : State) : Out State := runJob (jobEmitv w) s

/-- The grid that holds the draw of a grid's waves: its own, or a pixel kernel's geometry grid (R294). -/
def drawGrid (v : View) : Nat := (v.grid.parent).getD v.blk.grid

/-- The triangle that EMITP emits for a lane (R297, R330); `ix` gives its vertex indices. -/
def triangleOf (v : View) (w : WordA) (ix : Nat → Nat → Nat) (l : Nat) : Triangle :=
  { grid := drawGrid v, gallery := v.hall / 16, order := [v.blk.linear.toNat, v.w.widx, v.w.gfx.triangles, l]
    dsb := v.w.gfx.dsb, state := []
    verts := (List.range 3).map fun k => v.w.gfx.verts.getD (ix k l) { pos := [], attrs := [] }
    prim := vget v.d v.core v.w l (regNo w.d) }

/-- The misuse that an EMITP meets before any fault of an entry that it pops (R391, R395): a bad sr.dsb, or lanes in which an
index whose operand can be read names no vertex. -/
def emitMisuse (v : View) (w : WordA) (ex : Mask) : Option Trap :=
  let ops := [w.a, w.b, w.c]
  let ents := (popWalk v ops []).1
  let known (k : Nat) : Bool := (queueOfOp (ops.getD k (.pos 0))).isNone || decide (ents.getD k [] ≠ [])
  let bad := (lanesOf v.width ex).filter fun l => (List.range 3).any fun k =>
    known k && decide (v.w.gfx.verts.length ≤ (laneSrc v ents k (ops.getD k (.pos 0)) l).toNat)
  if v.w.gfx.dsb = 0 ∨ v.w.gfx.dsb.toNat % 128 ≠ 0 then some (wordTrap v 0x19 ex 4)
  else if bad ≠ [] then some (wordTrap v 0x19 (maskOf bad) 2)
  else none

/-- EMITP (R330): D is a source. -/
def jobEmitp (w : WordA) : Job :=
  let ops := [w.a, w.b, w.c]
  { code := w.toBits 0x29, g := w.hd.g, lanes := .each, u := w.u, refs := refsOf (w.d :: ops), pops := ops
    legal := fun _ => [c13 (!isV w.d) 47] ++ aOperands w 3 ++ aPlain w false ++ subZero w
    early := fun v ex => emitMisuse v w ex
    act := fun v ex =>
      match popWalk v ops [] with
      | (_, some bad) => .trap (popTrap bad)
      | (ents, none) =>
        let ix (k l : Nat) : Nat := (laneSrc v ents k (ops.getD k (.pos 0)) l).toNat
        let ls := lanesOf v.width ex
        let d := modDraw (popApply v v.d ops) (drawGrid v) fun x =>
          { x with tris := x.tris ++ ls.map (triangleOf v w ix) }
        .done (v.put d (modGfx fun g => { g with triangles := g.triangles + 1 })) .onward }
/-- EMITP (R330): its step. -/
def execEmitp (w : WordA) (s : State) : Out State := runJob (jobEmitp w) s

end Sys2Proof.Machine
end

