-- ==== Sys2Proof/Machine/Lpb.lean ====
section
/-! DEFINITION. Launch parameter blocks as the DFE and the raster units read them (R32, R296, R431, R433). -/

namespace Sys2Proof.Machine

/-- A launch parameter block from its 256 bytes (Table 2.1). -/
def lpbOf (va : Nat) (bs : List Byte) : Lpb :=
  let q (off : Nat) : W64 := leW64 (bs.drop off)
  { va := BitVec.ofNat 48 va, entry := BitVec.ofNat 48 (field (q 0) 0 48), gx := field (q 8) 0 32, gy := field (q 8) 48 16
    gz := field (q 8) 32 16, wavew := BitVec.ofNat 2 (field (q 16) 30 2), nwaves := field (q 16) 26 4
    order := BitVec.ofNat 3 (field (q 16) 23 3), swz := field (q 16) 20 3, prio := field (q 16) 18 2
    perf := BitVec.ofNat 3 (field (q 16) 15 3), acct := field (q 16) 11 4, stack := field (q 16) 56 8
    frame0 := field (q 16) 52 4, scratch := field (q 16) 32 11, grains := BitVec.ofNat 32 (field (q 24) 0 32)
    current := BitVec.ofNat 32 (field (q 24) 48 16), naff := field (q 24) 45 3, recn := field (q 24) 32 13
    recbase := q 32, wstbase := q 40, args := q 48, sigaddr := q 56
    aff := (List.range 4).map fun i => q (64 + 8 * i) }

/-- Bytes that the DFE or a raster unit reads for a context (R433): poisoned bytes are a fault. -/
def dfeRead (d : Device) (ctx va n : Nat) : Except MFault (List Byte × Device) :=
  match engineRead d ctx (ctxOf d ctx).sysctx .plain va n with
  | .error f => .error f
  | .ok (bs, d1) => if enginePoisoned d1 ctx va n then .error (xlateFault 0x44 va va) else .ok (bs, d1)

/-- A launch parameter block read from memory. -/
def readLpb (d : Device) (ctx va : Nat) : Except MFault (Lpb × Device) :=
  match dfeRead d ctx va 256 with
  | .error f => .error f
  | .ok (bs, d1) => .ok (lpbOf va bs, d1)

/-- The wave width of a launch (Table 2.1). -/
def Lpb.width (l : Lpb) : Nat := 16 * 2 ^ l.wavew.toNat

/-- The blocks of a launch. -/
def Lpb.total (l : Lpb) : Nat := l.gx * l.gy * l.gz

/-- The halls that a context owns (R38). -/
def ownedHalls (d : Device) (ctx : Nat) : List Nat :=
  (List.range Config.halls).filter fun h => decide ((hallOf d h).owner = some ctx)

/-- A value that the LPB's table reserves (R431, reason 2); a pixel kernel's LPB is read under R296. An address field that is not
aligned as Table 2.1 asks is none: the address is used as it stands (DESIGN CHOICE, log 138). -/
def lpbReserved (pixel : Bool) (l : Lpb) : Bool :=
  decide (l.wavew = 3) || decide (12 < l.acct) || decide (l.stack < 16) || decide (128 < l.stack) ||
  decide (l.frame0 < 1) || decide (14 < l.frame0) || decide (1024 < l.scratch) || decide (4 < l.naff) ||
  decide (4096 < l.recn) ||
  (if pixel then decide (l.nwaves ≠ 0) || decide (l.scratch < ceilDiv (48 * l.width) 256)
   else decide (l.gx = 0) || decide (l.gy = 0) || decide (l.gz = 0) || decide (4 ≤ l.order.toNat))

/-- The register words that a block of a launch takes (R55, R431). -/
def Lpb.regWords (l : Lpb) : Nat := l.width * (8 + 8 * l.stack) * (l.nwaves + 1)

/-- Why the DFE refuses a launch of a context (R431). -/
def refuseReason (d : Device) (ctx : Nat) (pixel : Bool) (l : Lpb) : Option Nat :=
  let hs := ownedHalls d ctx
  if hs = [] then some 1
  else if lpbReserved pixel l then some 2
  else if Config.rfWords < l.regWords then some 3
  else if hs.all fun h => decide ((hallOf d h).pw.ebud.toNat < l.grains.toNat) then some 4
  else if hs.all fun h => decide ((hallOf d h).pw.ibud.toNat < l.current.toNat) then some 5
  else none

/-- The gallery of a hall (Table 1.2). -/
def galleryOf (hall : Nat) : Nat := hall / 16

/-- The place of a grid's first block in a record that concerns no wave (R416). -/
def gridWhere (g : Grid) : Where :=
  { hdr := 0, word := 0, core := g.cores.headD 0, slot := 0, linear := 0 }

/-- A record of a launch or a grid on its queue (R416). -/
def queueRecord (d : Device) (q ctx : Nat) (cause : BitVec 8) (info : Nat) (p : Where) : Device :=
  faultRecord d (.launch q) ctx cause false 0 (BitVec.ofNat 64 info) p

end Sys2Proof.Machine
end

