-- ==== Sys2Proof/Machine/Raster.lean ====
section
/-! DEFINITION. Raster units: triangles to quads and pixel waves (R295 to R300, R432). -/

namespace Sys2Proof.Machine

/-! ## Draw state (Table 11.1) -/

/-- A field of a draw state block: word, lowest bit, width. -/
def dsbField (s : List W64) (word lo n : Nat) : Nat := field (s.getD word 0) lo n

/-- The rectangle of pixels that the viewport and the scissor admit: left, top, right, bottom, the last two exclusive. -/
def dsbRect (s : List W64) : Nat × Nat × Nat × Nat :=
  let vx := dsbField s 1 0 16
  let vy := dsbField s 1 16 16
  (max vx (dsbField s 2 0 16), max vy (dsbField s 2 16 16), min (vx + dsbField s 1 32 16) (dsbField s 2 32 16),
    min (vy + dsbField s 1 48 16) (dsbField s 2 48 16))

/-! ## Vertices and clipping (R298) -/

/-- A vertex of a triangle or of a part of it: clip-space position and barycentrics in the triangle. -/
structure ClipVert where
  x : Rat
  y : Rat
  z : Rat
  w : Rat
  bar : List Rat

/-- The rational of a finite FP32 word. -/
def word? (x : W32) : Option Rat :=
  match f32 x with
  | .num _ r => some r
  | _ => none

/-- The `k`-th vertex of a triangle; none where a component is a NaN or an infinity. -/
def clipVert (k : Nat) (v : Vertex) : Option ClipVert :=
  match v.pos.map word? with
  | [some x, some y, some z, some w] =>
    some { x := x, y := y, z := z, w := w, bar := (List.range 3).map fun i => if i = k then 1 else 0 }
  | _ => none

/-- The three vertices of a triangle, where every component is finite. -/
def clipVerts (t : Triangle) : Option (List ClipVert) :=
  let vs := ((List.range t.verts.length).zip t.verts).map fun e => clipVert e.1 e.2
  if vs.all Option.isSome then some (vs.filterMap id) else none

/-- The least w that is not clipped, 2^-20. -/
def clipW : Rat := 1 / 1048576

/-- The point of an edge at the clipping plane. -/
def clipPoint (p q : ClipVert) : ClipVert :=
  let t := (clipW - p.w) / (q.w - p.w)
  let mix (a b : Rat) : Rat := a + t * (b - a)
  { x := mix p.x q.x, y := mix p.y q.y, z := mix p.z q.z, w := clipW, bar := (p.bar.zip q.bar).map fun e => mix e.1 e.2 }

/-- The polygon that clipping leaves, edge by edge from `p`; `first` closes the ring. -/
def clipEdges (first : ClipVert) : List ClipVert → List ClipVert
  | [] => []
  | p :: t =>
    let q := t.headD first
    let inP := decide (clipW ≤ p.w)
    (if inP then [p] else []) ++ (if inP != decide (clipW ≤ q.w) then [clipPoint p q] else []) ++ clipEdges first t

/-- The triangles of a convex polygon: a fan. -/
def fanOf : List ClipVert → List (List ClipVert)
  | a :: t => ((List.range (t.length - 1)).map fun i => a :: (t.drop i).take 2)
  | [] => []

/-- The parts of a triangle that are rasterised: itself, or what clipping leaves. -/
def partsOf (vs : List ClipVert) : List (List ClipVert) :=
  match vs with
  | [] => []
  | v :: _ => if vs.all fun p => decide (clipW ≤ p.w) then [vs] else fanOf (clipEdges v vs)

/-- A vertex in the viewport: screen position in units of 1/256 pixel, zn, w and barycentrics. -/
structure SnapVert where
  x : Int
  y : Int
  z : Rat
  w : Rat
  bar : List Rat

/-- A vertex projected and snapped (R298). -/
def snapVert (s : List W64) (v : ClipVert) : SnapVert :=
  let at' (org ext : Nat) (c : Rat) : Int := roundInt .rne (256 * ((org : Rat) + (c / v.w + 1) * (ext : Rat) / 2))
  { x := at' (dsbField s 1 0 16) (dsbField s 1 32 16) v.x, y := at' (dsbField s 1 16 16) (dsbField s 1 48 16) v.y
    z := v.z / v.w, w := v.w, bar := v.bar }

/-- A part of a triangle in the viewport. -/
structure Part where
  a : SnapVert
  b : SnapVert
  c : SnapVert

/-- A part as snapped. -/
def snapPart (s : List W64) (vs : List ClipVert) : Option Part :=
  match vs.map (snapVert s) with
  | [a, b, c] => some { a := a, b := b, c := c }
  | _ => none

/-- The edge function of two vertices at a point. -/
def edgeAt (a b : SnapVert) (px py : Int) : Int := (b.x - a.x) * (py - a.y) - (b.y - a.y) * (px - a.x)

/-- The doubled signed area of a part; positive is a front face (R298). -/
def Part.area (p : Part) : Int := edgeAt p.a p.b p.c.x p.c.y

/-- Whether a part yields pixels under CULL (R298); code 3 is reserved and culls nothing. -/
def Part.kept (p : Part) (cull : Nat) : Bool :=
  decide (p.area ≠ 0) && !(decide (cull = 1) && decide (p.area < 0)) && !(decide (cull = 2) && decide (0 < p.area))

/-- Whether a point lies on the inner side of an edge of a triangle of positive area, by the top-left rule. -/
def edgeIn (a b : SnapVert) (px py : Int) : Bool :=
  let e := edgeAt a b px py
  decide (0 < e) || (decide (e = 0) && (decide (b.y < a.y) || (decide (b.y = a.y) && decide (a.x < b.x))))

/-- The centre of a pixel in units of 1/256. -/
def centre (n : Nat) : Int := 256 * (n : Int) + 128

/-- The edge functions of a part at a pixel's centre, one per vertex. -/
def Part.edges (p : Part) (x y : Nat) : List Int :=
  [edgeAt p.b p.c (centre x) (centre y), edgeAt p.c p.a (centre x) (centre y), edgeAt p.a p.b (centre x) (centre y)]

/-- The exact depth of a part at a pixel: the screen-linear interpolation of zn (R300). -/
def Part.depth (p : Part) (x y : Nat) : Rat :=
  let s := ((p.edges x y).zip [p.a.z, p.b.z, p.c.z]).map fun e => (e.1 : Rat) * e.2
  s.sum / (p.area : Rat)

/-- Whether a part covers a pixel (R298). -/
def Part.covers (p : Part) (s : List W64) (x y : Nat) : Bool :=
  let r := dsbRect s
  let q := if 0 < p.area then p else { a := p.a, b := p.c, c := p.b }
  let z := p.depth x y
  edgeIn q.a q.b (centre x) (centre y) && edgeIn q.b q.c (centre x) (centre y) && edgeIn q.c q.a (centre x) (centre y) &&
  decide (r.1 ≤ x) && decide (r.2.1 ≤ y) && decide (x < r.2.2.1) && decide (y < r.2.2.2) && decide (0 ≤ z) && decide (z ≤ 1)

/-- An exact value rounded once, RNE, to FP32. -/
def f32Of (x : Rat) : W32 := f32Bits (roundF fp32 .rne (.num (decide (x < 0)) x)).1

/-- The perspective-correct barycentric of vertex `k` of the triangle at a pixel (R300); the canonical NaN where the
weights sum to zero. -/
def Part.bary (p : Part) (x y k : Nat) : W32 :=
  let vs := [p.a, p.b, p.c]
  let qs := ((p.edges x y).zip vs).map fun e => ((e.1 : Rat) / e.2.w, e.2.bar.getD k 0)
  let total := (qs.map (·.1)).sum
  if total = 0 then 0x7FC00000 else f32Of ((qs.map fun q => q.1 * q.2).sum / total)

/-! ## Quads (R299) -/

/-- A quad of a triangle: for each of its four pixels the lane's data and whether the triangle covers it. -/
abbrev Quad := List (PixLane × Bool)

/-- The pixels of a quad in lane order. -/
def quadAt (qx qy : Nat) : List (Nat × Nat) := [(2 * qx, 2 * qy), (2 * qx + 1, 2 * qy), (2 * qx, 2 * qy + 1), (2 * qx + 1, 2 * qy + 1)]

/-- A pixel's lane data for a part. -/
def laneAt (p : Part) (x y : Nat) : PixLane :=
  { x := x, y := y, tri := 0, depth := f32Of (p.depth x y), b1 := p.bary x y 1, b2 := p.bary x y 2, exports := 0 }

/-- A quad of a triangle's parts, where one of them covers one of its pixels: each pixel from the part that covers it,
a helper's from the lowest part that covers another pixel of the quad. -/
def quadOf (ps : List Part) (s : List W64) (qx qy : Nat) : Option Quad :=
  let cov (e : Nat × Nat) : Option Part := ps.find? fun p => p.covers s e.1 e.2
  let px := quadAt qx qy
  match ps.find? fun p => px.any fun e => p.covers s e.1 e.2 with
  | none => none
  | some main => some (px.map fun e => (laneAt ((cov e).getD main) e.1 e.2, (cov e).isSome))

/-- The least and the greatest pixel of a coordinate that the parts can cover, within bounds. -/
def spanOf (f : SnapVert → Int) (ps : List Part) (lo hi : Nat) : Nat × Nat :=
  let xs := ps.flatMap fun p => [f p.a, f p.b, f p.c]
  let a := xs.foldl min (centre hi)
  let b := xs.foldl max 0
  (max lo (a / 256).toNat, min hi ((b / 256).toNat + 1))

/-- The quads of a triangle, row by row (R299); none where a vertex is not finite or nothing is covered. -/
def quadsOf (t : Triangle) (s : List W64) : List Quad :=
  match clipVerts t with
  | none => []
  | some vs =>
    let ps := ((partsOf vs).filterMap (snapPart s)).filter fun p => p.kept (dsbField s 3 16 2)
    if ps = [] then []
    else
      let r := dsbRect s
      let xs := spanOf (·.x) ps r.1 r.2.2.1
      let ys := spanOf (·.y) ps r.2.1 r.2.2.2
      let range (e : Nat × Nat) : List Nat := (List.range (e.2 / 2 + 1 - e.1 / 2)).map fun i => e.1 / 2 + i
      if xs.2 ≤ xs.1 ∨ ys.2 ≤ ys.1 then []
      else (range ys).flatMap fun qy => (range xs).filterMap fun qx => quadOf ps s qx qy

/-! ## Pixel waves -/

/-- A pixel wave with no quads, for a pixel kernel's grid and a gallery. -/
def emptyPixel (grid gallery : Nat) : PixPending :=
  { grid := grid, gallery := gallery, mask := 0, helper := 0, wave := { tris := [], lanes := [] } }

/-- A quad of a triangle in the next slot of a wave. -/
def addQuad (t : Triangle) (q : Quad) (p : PixPending) : PixPending :=
  let n := p.wave.lanes.length
  let tris := if (p.wave.tris.getLast?).map (·.order) = some t.order then p.wave.tris else p.wave.tris ++ [t]
  let lanes := ((List.range 4).zip q).map fun e => (n + e.1, { e.2.1 with tri := tris.length - 1 })
  let helpers := ((List.range 4).zip q).filterMap fun e => if e.2.2 then none else some (n + e.1)
  { p with mask := p.mask ||| maskOf (lanes.map (·.1)), helper := p.helper ||| maskOf helpers
           wave := { tris := tris, lanes := lanes.foldl (fun t e => tblSet t e.1 e.2) p.wave.lanes } }

/-- Whether a waiting wave can take a quad of a triangle: of the same kernel and gallery, with a slot free, and no
triangle later in primitive order (R299). -/
def takesQuad (grid gallery width : Nat) (t : Triangle) (p : PixPending) : Bool :=
  decide (p.grid = grid) && decide (p.gallery = gallery) && decide (p.wave.lanes.length + 4 ≤ width) &&
  (match p.wave.tris.getLast? with | some u => !lexLt t.order u.order | none => true)

/-- A quad put into the last waiting wave, or into a new one. -/
def packQuad (grid gallery width : Nat) (t : Triangle) (ps : List PixPending) (q : Quad) : List PixPending :=
  match ps.getLast? with
  | some p =>
    if takesQuad grid gallery width t p then ps.dropLast ++ [addQuad t q p]
    else ps ++ [addQuad t q (emptyPixel grid gallery)]
  | none => ps ++ [addQuad t q (emptyPixel grid gallery)]

/-! ## The raster unit's step -/

/-- The report of R432, once per draw; the grid's signal carries bit 63. -/
def rasterRefuse (d : Device) (geo : Nat) (g : Grid) (reason : Nat) : Device :=
  if g.draw.reported then d
  else
    modGrid (queueRecord d g.queue g.ctx 0x59 (6 + 256 * reason) (gridWhere g)) geo fun x =>
      { x with bad := true, draw := { x.draw with reported := true } }

/-- The grid of a geometry grid's pixel kernel, made at its first use (R296). -/
def pixelGrid (d : Device) (geo : Nat) (g : Grid) (l : Lpb) : Nat × Device :=
  match d.grids.find? fun e => decide (e.2.parent = some geo) && decide (e.2.lpb.va = l.va) with
  | some e => (e.1, d)
  | none =>
    let k : Grid :=
      { queue := g.queue, ctx := g.ctx, seq := g.seq, lpb := l, nextPos := 0, undone := [], retired := 0, bad := false
        refCore := g.refCore, cores := [], shadow := [], waited := 0, refused := false, tried := none
        draw := { tris := [], pending := [], pixelBlocks := 0, frags := [], changed := [], reported := false, tried := false }
        parent := some geo }
    (d.nextId, { d with grids := tblSet d.grids d.nextId k, nextId := d.nextId + 1 })

/-- The triangle that a raster unit takes next: the least in primitive order of a geometry grid's, grids in order. -/
def nextTriangle (d : Device) (gallery : Nat) : Option (Nat × Grid × Triangle) :=
  d.grids.findSome? fun e =>
    ((leastBy (fun a b => lexLt a.order b.order) (e.2.draw.tris.filter fun t => decide (t.gallery = gallery))).map
      fun t => (e.1, e.2, t))

/-- A triangle whose draw state block has been read (R295, R296, R432). -/
def rasterise (d : Device) (geo : Nat) (g : Grid) (t : Triangle) (s : List W64) : Device :=
  match readLpb d g.ctx (dsbField s 0 0 48) with
  | .error _ => rasterRefuse d geo g 0xFF
  | .ok (l, d1) =>
    match refuseReason d1 g.ctx true l with
    | some r => rasterRefuse d1 geo g r
    | none =>
      let p := pixelGrid d1 geo g l
      let tri := { t with state := s }
      modDraw p.2 geo fun x =>
        { x with pending := (quadsOf tri s).foldl (packQuad p.1 t.gallery l.width tri) x.pending }

/-- Whether a gallery's raster unit may take its next triangle (R308, R427). -/
def rasterReady (d : Device) (gallery : Nat) : Bool :=
  match nextTriangle d gallery with
  | none => false
  | some (_, g, _) => unitReady d 1 gallery g.ctx

/-- RASTER_TRIANGLE (R295 to R300, R432): the raster unit of a gallery takes its next triangle. -/
def rasterStep (d : Device) (gallery : Nat) : Device :=
  match nextTriangle d gallery with
  | none => d
  | some (geo, g, t) =>
    let d0 := modDraw d geo fun x => { x with tris := x.tris.filter fun u => decide (u.order ≠ t.order) }
    match dfeRead d0 g.ctx t.dsb.toNat 128 with
    | .error _ => rasterRefuse d0 geo g 0xFE
    | .ok (bs, d1) => rasterise d1 geo g t ((List.range 16).map fun i => leW64 (bs.drop (8 * i)))

/-- RASTER_TRIANGLE. -/
def execRasterTriangle (gallery : Nat) (s : State) : Out State :=
  runDevice (fun d => if rasterReady d gallery then unitStepped 1 gallery (rasterStep d gallery) else d) s

end Sys2Proof.Machine
end

