-- ==== Sys2Proof/Machine/Convert.lean ====
section
/-! DEFINITION. CVT (R115, R185, R186). -/

namespace Sys2Proof.Machine

/-- The width of a type of Table 7.4. -/
def typeWidth (t : Nat) : Nat :=
  match intType t with
  | some p => p.1
  | none => match floatType t with | some f => fmtWidth f | none => 0

/-- The value of the bits of a floating-point type, or of an integer type as a number. -/
def typeVal (t : Nat) (x : Nat) : FVal :=
  match floatType t with
  | some f => decodeF f x
  | none =>
    match intType t with
    | some p => let y := intOf p.1 p.2 x; .num (decide (y < 0)) (y : Rat)
    | none => .num false 0

/-- cv(x) of R185: the result bits, its flags and whether it took a step of the generator. `gen` holds the 16 bits of
that step where RM is `.sr`; to an integer type R115's M, lo and hi are the type's bounds and the integers around x (DESIGN CHOICE,
log 141). -/
def cvtElem (t t2 : Nat) (sat : Bool) (m : Rm) (gen : Option Nat) (x : Nat) : Nat × Flags :=
  match intType t, intType t2 with
  | some p, some q =>
    let r := narrowInt q.1 q.2 sat (intOf p.1 p.2 x)
    ((wrap q.1 r.1).toNat, r.2)
  | none, some q =>
    let v := typeVal t x
    let b := intBounds q.1 q.2
    let round (y : Rat) : Int := match gen with
      | some g => if y < (b.1 : Rat) ∨ (b.2 : Rat) < y then roundInt .rne y else roundIntSr g y
      | none => roundInt m y
    let r := toInt q.1 q.2 round v
    ((wrap q.1 r.1).toNat, r.2)
  | _, none =>
    match floatType t2 with
    | none => (0, 0)
    | some f =>
      let v := typeVal t x
      let r := match gen with
        | some g => convSr f (sat || decide (t2 = 13)) g v
        | none => convF f m (sat || decide (t2 = 13)) v
      (encodeF f r.1, r.2 ||| (if (intType t).isSome then 0 else sigFlag v))

/-- The result of cv placed in 64 bits: I8 and I16 sign-extended to 32 bits, all others zero-extended (R185). -/
def cvtPlace (t2 : Nat) (x : Nat) : W64 :=
  if t2 = 0 then ((BitVec.ofNat 8 x).signExtend 32).setWidth 64
  else if t2 = 1 then ((BitVec.ofNat 16 x).signExtend 32).setWidth 64
  else BitVec.ofNat 64 x

/-- Whether CVT packs two elements (R186). -/
def cvtPk (w : WordA) : Bool := w.neg.getLsbD 0

/-- The packed result of two elements over the operand c (R186). -/
def cvtPack (w : Nat) (c : W32) (lo hi : Nat) : W32 :=
  if w = 16 then BitVec.ofNat 32 (hi * 2 ^ 16 + lo)
  else BitVec.ofNat 32 (c.toNat * 2 ^ (2 * w) + hi * 2 ^ w + lo)

/-- A source operand of CVT in a lane as 64 bits: a register pair or an s register whole for a 64-bit type, else the
32-bit value with ABS and NEG where the type is floating-point (R148, R185). A q source under a 64-bit type is its entry's 32 bits
zero-extended (DESIGN CHOICE, log 144). -/
def cvtSource (v : View) (w : WordA) (ent : List W32) (i : Nat) (op : Operand) (t l lq : Nat) : Nat :=
  if t = 3 ∨ t = 7 then
    match op with
    | .v n => (vget v.d v.core v.w l (n + 1)).toNat * 2 ^ 32 + (vget v.d v.core v.w l n).toNat
    | .s n => (sget v.w n).toNat
    | .q _ => (ent.getD lq 0).toNat
    | .laneId => l
    | op => (src64 v op).toNat
  else
    let x := aluVal v ent (op, decide (t = 8)) l lq
    match floatType t with
    | none => x.toNat
    | some f =>
      let n := fmtWidth f
      let y := x.toNat % 2 ^ (n - 1)
      let s := decide (x.toNat / 2 ^ (n - 1) % 2 = 1) && !absOf w i
      y + nat1 (s != negOf w i) * 2 ^ (n - 1)

/-- The type, mode and modifier checks of CVT (R185, R186). -/
def cvtChecks (w : WordA) : List Check :=
  let t := subLo w.sub
  let t2 := subHi w.sub
  let ints := (intType t).isSome && (intType t2).isSome
  let rm := rmField w.hd.md
  let pair (op : Operand) (pos : Nat) (wide : Bool) : Check :=
    c14 (wide && (match op with | .v n => !vGroupOk n 2 | _ => false)) pos
  let mods := w.neg.toNat / 2 + w.abs.toNat / 2
  [c14 (decide (13 < t)) 11, c14 (decide (13 < t2)) 15,
   c14 (decide (5 < rm) || (decide (rm = 5) && decide (16 < typeWidth t2)) || (ints && decide (rm ≠ 0))) 50,
   c14 (satField w.hd.md && (intType t2).isSome && !ints) 51,
   pair w.a 39 (decide (t = 3 ∨ t = 7)), pair w.d 47 (decide (t2 = 3 ∨ t2 = 7)),
   c14 (cvtPk w && decide (32 ≤ typeWidth t2)) 4,
   c14 (decide (w.neg.toNat / 2 ≠ 0) && (intType t).isSome) 6,
   c14 (!cvtPk w && decide (w.neg.toNat / 2 % 2 ≠ 0)) 5,
   c14 ((decide (w.abs.toNat / 2 ≠ 0) && (intType t).isSome) || w.abs.getLsbD 0 ||
     (!cvtPk w && decide (w.abs.toNat / 2 % 2 ≠ 0)) || (decide (mods = 0) && false)) 3] ++
  (if cvtPk w then [pair w.b 31 (decide (t = 3 ∨ t = 7))] else [])

/-- The sources of CVT: a, and with PK b and c (R186). -/
def cvtSrcs (w : WordA) : List Operand := if cvtPk w then [w.a, w.b, w.c] else [w.a]

/-- One lane's CVT (R185, R186): the result, its flags, and the generator's state after it. -/
def cvtLane (v : View) (w : WordA) (ents : List (List W32)) (l lq : Nat) (g : W32) : W64 × Flags × W32 :=
  let t := subLo w.sub
  let t2 := subHi w.sub
  let sr := decide (rmField w.hd.md = 5)
  let m := aRm v w
  let sat := satField w.hd.md
  let s1 := lfsrStep g
  let a := cvtSource v w (ents.headD []) 0 w.a t l lq
  let ra := cvtElem t t2 sat m (if sr then some s1.2 else none) a
  if cvtPk w then
    let s2 := lfsrStep s1.1
    let b := cvtSource v w ((ents.drop 1).headD []) 1 w.b t l lq
    let rb := cvtElem t t2 sat m (if sr then some s2.2 else none) b
    let c := aluVal v ((ents.drop 2).headD []) (w.c, false) l lq
    ((cvtPack (typeWidth t2) c ra.1 rb.1).setWidth 64, ra.2 ||| rb.2, if sr then s2.1 else g)
  else (cvtPlace t2 ra.1, ra.2, if sr then s1.1 else g)

/-- The destination writes of CVT: a pair for a 64-bit type (R185). A b or q register takes the low 32 bits of one (DESIGN CHOICE,
log 144). -/
def cvtWrites (v : View) (w : WordA) (ex : Mask) (x : Nat → W64) : List (RegLoc × W64) :=
  let wide := decide (subHi w.sub = 3 ∨ subHi w.sub = 7)
  match w.d with
  | .s n => match highLane v.width ex with | some l => [(.sreg n, x l)] | none => []
  | .v n =>
    dstWrites v (.v n) ex (fun l => (x l).setWidth 32) ++
      (if wide then dstWrites v (.v (n + 1)) ex (fun l => ((x l) >>> 32).setWidth 32) else [])
  | op => dstWrites v op ex fun l => (x l).setWidth 32

/-- CVT (R185, R186). -/
def jobCvt (w : WordA) : Job :=
  { code := w.toBits 0x60, g := w.hd.g, lanes := .each, u := w.u, uniOk := true
    refs := refsOf (w.d :: cvtSrcs w) ++
      (if subHi w.sub = 3 ∨ subHi w.sub = 7 then (match w.d with | .v n => [.v (n + 1)] | _ => []) else []) ++
      (if subLo w.sub = 3 ∨ subLo w.sub = 7 then
        ((cvtSrcs w).take 2).flatMap fun op => match op with | .v n => [.v (n + 1)] | _ => []
      else [])
    pops := cvtSrcs w
    legal := fun _ => aOperands w (if cvtPk w then 3 else 1) ++ cvtChecks w
    act := fun v ex =>
      match popWalk v (cvtSrcs w) [] with
      | (_, some bad) => .trap (popTrap bad)
      | (ents, none) =>
        let once := w.u || v.uni
        let gl (l : Nat) : Nat := if once then 0 else l
        let res (l : Nat) : W64 × Flags × W32 :=
          if once then cvtLane v w ents v.lane0 0 (tblGet 0#32 v.w.lfsr 0)
          else cvtLane v w ents l l (tblGet 0#32 v.w.lfsr l)
        let ls := lanesOf v.width ex
        let fl := orFlags (ls.map fun l => (res l).2.1)
        let step (wv : Wave) : Wave :=
          if rmField w.hd.md = 5 then
            { wv with lfsr := ls.foldl (fun t l => tblSet t (gl l) (res l).2.2) wv.lfsr }
          else wv
        let d0 := v.put (popApply v v.d (cvtSrcs w)) fun wv => addFlags fl (step wv)
        match w.d with
        | .q j =>
          match pushEntry v d0 j (fun l => if ex.getLsbD l then (res l).1.setWidth 32 else 0) with
          | .done d1 => .done d1 .onward
          | .wait d1 => .hold d1
          | .trap t => .trap t
        | _ => .done (putWrites v d0 (cvtWrites v w ex fun l => (res l).1)) .onward }
/-- CVT (R185): its step. -/
def execCvt (w : WordA) (s : State) : Out State := runJob (jobCvt w) s

end Sys2Proof.Machine
end

