-- ==== Sys2Proof/Machine/Records.lean ====
section
/-! DEFINITION. Buffer records (R88 to R91), their element conversions, and LDB and STB (R227 to R229). -/

namespace Sys2Proof.Machine

/-- A buffer record (Table 4.6). -/
structure BufRec where
  base : Nat
  sbase : Nat
  ext0 : Nat
  ext1 : Nat
  ext2 : Nat
  stride1 : Nat
  stride2 : Nat
  scale : W32
  clear : W32
  fmt : Nat
  enc : Nat
  ilv : Nat
  dims : Nat
  cmpa : Bool
  swz : List Nat
  blk : Nat
  deriving DecidableEq, Repr

/-- A record from its 40 bytes (Table 4.6). -/
def recordOf (bs : List Byte) : BufRec :=
  let w (i : Nat) : W64 := leW64 (bs.drop (8 * i))
  { base := field (w 0) 0 48, ext1 := field (w 0) 48 16, sbase := field (w 1) 0 48, ext2 := field (w 1) 48 16,
    ext0 := field (w 2) 0 32, stride1 := field (w 2) 32 32, scale := (w 3).setWidth 32, stride2 := field (w 3) 32 32,
    clear := (w 4).extractLsb' 32 32, fmt := field (w 4) 26 6, enc := field (w 4) 23 3, ilv := field (w 4) 21 2,
    dims := field (w 4) 19 2, cmpa := (w 4).getLsbD 18,
    swz := (List.range 4).map fun j => field (w 4) (6 + 3 * j) 3, blk := field (w 4) 4 2 }

/-- The widths in bits of the channels of an element layout (Table 4.7). -/
def channelWidths (fmt : Nat) : List Nat :=
  match fmt with
  | 0 => [8]
  | 1 => [16]
  | 2 => [32]
  | 3 => [64]
  | 4 => [8, 8]
  | 5 => [8, 8, 8, 8]
  | 6 => [16, 16]
  | 7 => [16, 16, 16, 16]
  | 8 => [32, 32]
  | 9 => [32, 32, 32, 32]
  | 10 => [10, 10, 10, 2]
  | 11 => [8]
  | 12 => [8]
  | 13 => [4]
  | _ => []

/-- The size of an element in half bytes (Table 4.7). -/
def halfBytes (fmt : Nat) : Nat := (channelWidths fmt).foldl (· + ·) 0 / 4

/-- The bytes that hold an element: an X4 element shares its byte (R90). -/
def elemBytes (fmt : Nat) : Nat := max 1 (halfBytes fmt / 2)

/-- INFO of an illegal record (R88): none for a legal one. -/
def recordIllegal (r : BufRec) : Option Nat :=
  let mx := decide (6 ≤ r.enc)
  if 14 ≤ r.fmt ∨ (r.enc = 4 ∨ r.enc = 5) ∧ [0, 3, 4, 5, 10, 13].contains r.fmt ∨ mx ∧ r.fmt ≠ 11 ∧ r.fmt ≠ 13 then
    some (65536 + 287)
  else if r.ilv = 3 then some (65536 + 278)
  else if r.dims = 3 then some (65536 + 276)
  else if r.swz.any fun s => decide (6 ≤ s) then some (65536 + 273)
  else if mx ∧ 2 ≤ r.blk then some (65536 + 261)
  else none

/-- INFO of a record that the byte-offset form does not admit (R229). -/
def byteFormIllegal (r : BufRec) : Option Nat :=
  if r.fmt = 13 then some (65536 + 287)
  else if 6 ≤ r.enc then some (65536 + 281)
  else if r.ilv ≠ 0 then some (65536 + 278)
  else none

/-- How accesses through a record meet compressed pages (R407, R452). -/
def recordReader (r : BufRec) : Reader := if r.cmpa then .aware (clearBytes (halfBytes r.fmt) r.clear) else .unaware

/-- The place of an element: its byte address, the nibble of an X4 element, and whether it is in extent. -/
structure Elem where
  va : Nat
  nib : Nat
  inside : Bool
  index : Nat
  deriving DecidableEq, Repr

/-- Element (x, y, z) of a record (R90). -/
def elemAt (r : BufRec) (x y z : Nat) : Elem :=
  let p := match r.ilv with
    | 0 => (y * r.stride1, x)
    | 1 => (y / 8 * r.stride1, x / 8 * 64 + (y % 8 * 8 + x % 8))
    | _ => (0, morton 32 x y)
  let off := if r.fmt = 13 then p.2 / 2 else p.2 * elemBytes r.fmt
  { va := vaNat (r.base + z * r.stride2 + p.1 + off), nib := if r.fmt = 13 then p.2 % 2 else 0
    inside := decide (x < r.ext0) && decide (y ≤ r.ext1) && decide (z ≤ r.ext2)
    index := x + r.ext0 * (y + (r.ext1 + 1) * z) }

/-- The element at a byte offset (R229). -/
def elemAtByte (r : BufRec) (off : Nat) : Elem :=
  let e := elemBytes r.fmt
  let lim := match r.dims with
    | 0 => r.ext0 * e
    | 1 => (r.ext1 + 1) * r.stride1
    | _ => (r.ext2 + 1) * r.stride2
  { va := vaNat (r.base + off), nib := 0, inside := decide (off + e ≤ lim), index := 0 }

/-- The address and number of the scale bytes of an element under ENC 6 and 7 (R90). -/
def scaleAt (r : BufRec) (e : Elem) : Nat × Nat :=
  let i := e.index / (if r.blk = 0 then 32 else 16)
  if r.enc = 6 then (vaNat (r.sbase + i), 1) else (vaNat (r.sbase + 2 * i), 2)

/-! ## Conversions -/

/-- The floating-point format of a channel under ENC 4 and 5 (R91). -/
def channelFmt (r : BufRec) (n : Nat) : Fmt :=
  if r.fmt = 11 then e4m3
  else if r.fmt = 12 then e5m2
  else if n = 32 then fp32
  else if r.enc = 4 then fp16 else bf16

/-- A product rounded RNE to FP32 bits; loads raise no flag. -/
def scaled (v : FVal) (k : W32) : W32 := f32Bits (roundF fp32 .rne (mulF v (f32 k)).1).1

/-- The largest `k` below 2^n for which `p` holds, where `p` holds below some bound and at 0. -/
def lastTrue (p : Nat → Bool) : Nat → Nat → Nat
  | 0, k => k
  | n + 1, k => lastTrue p n (if p (k + 2 ^ n) then k + 2 ^ n else k)

/-- The IEC 61966-2-1 decoding of a code fraction, rounded RNE to FP32 (R91). -/
def srgbDecode (u : Rat) : FVal :=
  if u ≤ mkRat 4045 100000 then (roundTo fp32 .rne false (u * mkRat 100 1292)).1
  else
    let x := (u + mkRat 55 1000) * mkRat 1000 1055
    let x12 := x ^ 12
    let e := ratLog2 x12 / 5
    let below (q : Rat) : Bool := decide (q ^ 5 ≤ x12)
    let k := lastTrue (fun k => below ((k : Rat) * pow2 (e - 23))) 25 0
    let up := below (((2 * k + 1 : Nat) : Rat) * pow2 (e - 24))
    .num false (((if up then k + 1 else k : Nat) : Rat) * pow2 (e - 23))

/-- Whether the IEC 61966-2-1 encoding of a linear value in [0, 1] is above a bound in (0, 1), or equal to it. -/
def srgbAtLeast (x m : Rat) (orEqual : Bool) : Bool :=
  let test (a b : Rat) : Bool := decide (b < a) || (orEqual && decide (a = b))
  if x ≤ mkRat 31308 10000000 then test (x * mkRat 1292 100) m
  else if m + mkRat 55 1000 ≤ 0 then true
  else test (x ^ 5) (((m + mkRat 55 1000) * mkRat 1000 1055) ^ 12)

/-- The nearest code of n bits to the encoding of a linear value, ties to even (R91). -/
def srgbEncode (n : Nat) (x : Rat) : Nat :=
  let top : Rat := ((2 ^ n - 1 : Nat) : Rat)
  lastTrue (fun k => srgbAtLeast x (((2 * k - 1 : Nat) : Rat) / (2 * top)) (decide (k % 2 = 0))) n 0

/-- A loaded channel as register words (R91): channel index, code of `n` bits, and the element's scale bytes. Under ENC 3 SCALE
applies to W alone (DESIGN CHOICE, log 43). -/
def channelLoad (r : BufRec) (ch n c : Nat) (sc : List Byte) : List W32 :=
  match r.enc with
  | 0 => if n = 64 then [BitVec.ofNat 32 c, BitVec.ofNat 32 (c / 2 ^ 32)] else [BitVec.ofNat 32 c]
  | 1 => [scaled (.num false ((c : Rat) / ((2 ^ n - 1 : Nat) : Rat))) r.scale]
  | 2 =>
    let x := (signed n c : Rat) / ((2 ^ (n - 1) - 1 : Nat) : Rat)
    let y := if x < -1 then -1 else x
    [scaled (.num (decide (y < 0)) y) r.scale]
  | 3 =>
    let u := (c : Rat) / ((2 ^ n - 1 : Nat) : Rat)
    if ch = 3 then [scaled (.num false u) r.scale] else [f32Bits (srgbDecode u)]
  | 6 =>
    let v := decodeF (if r.fmt = 13 then e2m1 else e4m3) c
    [f32Bits (roundF fp32 .rne (mulF v (e8m0 (sc.getD 0 0))).1).1]
  | 7 => [f32Bits (roundF fp32 .rne (tsValue (decide (r.fmt = 11)) c (sc.getD 0 0) (sc.getD 1 0))).1]
  | _ => [scaled (decodeF (channelFmt r n) c) r.scale]

/-- x / SCALE exactly, with its flags (R91). -/
def divF (a b : FVal) : FVal × Flags :=
  let sg := sigFlag a ||| sigFlag b
  match a, b with
  | .nan _, _ => (.nan false, sg)
  | _, .nan _ => (.nan false, sg)
  | .inf _, .inf _ => (.nan false, flInvalid)
  | .inf n, .num k _ => (.inf (n != k), 0)
  | .num n _, .inf k => (.num (n != k) 0, 0)
  | .num n x, .num k y =>
    if y = 0 then (if x = 0 then (.nan false, flInvalid) else (.inf (n != k), flDivZero)) else (.num (n != k) (x / y), 0)

/-- A value clamped to an interval, with the flag of the clamp (R91); none for a NaN. -/
def clampF (lo : Rat) (v : FVal) : Option (Rat × Flags) :=
  match v with
  | .nan _ => none
  | .inf n => some (if n then lo else 1, flSaturated)
  | .num _ x => some (if x < lo then (lo, flSaturated) else if 1 < x then (1, flSaturated) else (x, 0))

/-- How an STB rounds to a floating-point format (R227): a mode, or the 16 bits of the generator. -/
structure StRound where
  m : Rm
  gen : Option Nat
  sat : Bool

/-- A conversion as an STB's rounding makes it. -/
def stConv (k : StRound) (sat : Bool) (f : Fmt) (v : FVal) : FVal × Flags :=
  match k.gen with
  | some t => convSr f sat t v
  | none => convF f k.m sat v

/-- A stored channel's code of `n` bits (R91) from an exact value, or under ENC 0 from bits: its flags follow. Those of an sRGB
channel are the model's choice (DESIGN CHOICE, log 139). -/
def channelStoreV (r : BufRec) (ch n : Nat) (k : StRound) (x : FVal) (bits : Nat) (sc : List Byte) : Nat × Flags :=
  let norm (v : FVal) (lo : Rat) (top : Nat) : Int × Flags :=
    match clampF lo v with
    | none => (0, flInvalid)
    | some (y, fl) =>
      let z := y * ((top : Nat) : Rat)
      let q := roundInt .rne z
      (q, fl ||| flagIf (decide ((q : Rat) ≠ z)) flInexact)
  let unorm (q : FVal × Flags) : Nat × Flags := let c := norm q.1 0 (2 ^ n - 1); (c.1.toNat, q.2 ||| c.2)
  match r.enc with
  | 0 => (bits % 2 ^ n, 0)
  | 1 => unorm (divF x (f32 r.scale))
  | 2 =>
    let q := divF x (f32 r.scale)
    let c := norm q.1 (-1) (2 ^ (n - 1) - 1)
    ((wrap n c.1).toNat, q.2 ||| c.2)
  | 3 =>
    if ch = 3 then unorm (divF x (f32 r.scale))
    else
      match clampF 0 x with
      | none => (0, flInvalid)
      | some (y, fl) =>
        let c := srgbEncode n y
        (c, fl ||| flagIf (decide (y ≠ 0 ∧ y ≠ 1)) flInexact)
  | 6 =>
    let f := if r.fmt = 13 then e2m1 else e4m3
    let q : FVal := match x, e8m0 (sc.getD 0 0) with
      | .num s y, .num _ z => .num s (y / z)
      | .inf s, .num _ _ => .inf s
      | _, _ => .nan false
    let c := stConv k true f q
    (encodeF f c.1, c.2 ||| sigFlag x)
  | 7 =>
    let c := toTs (decide (r.fmt = 11)) (stConv k true) x (sc.getD 0 0) (sc.getD 1 0)
    (c.1, c.2 ||| sigFlag x)
  | _ =>
    let q := divF x (f32 r.scale)
    let f := channelFmt r n
    let c := stConv k k.sat f q.1
    (encodeF f c.1, q.2 ||| c.2)

/-- A stored channel's code of `n` bits from register words (R91): its flags follow. -/
def channelStore (r : BufRec) (ch n : Nat) (k : StRound) (xs : List W32) (sc : List Byte) : Nat × Flags :=
  channelStoreV r ch n k (f32 (xs.getD 0 0)) ((xs.getD 0 0).toNat + (xs.getD 1 0).toNat * 2 ^ 32) sc

/-- The bit offset of channel `ch` within an element. -/
def channelOff (fmt ch : Nat) : Nat := ((channelWidths fmt).take ch).foldl (· + ·) 0

/-- The words of component `j` of an element read as a number (R90, R91, R228). -/
def componentLoad (r : BufRec) (raw j : Nat) (inside : Bool) (sc : List Byte) : List W32 :=
  let s := r.swz.getD j 4
  match (channelWidths r.fmt)[s]? with
  | some n =>
    let c := raw / 2 ^ channelOff r.fmt s % 2 ^ n
    if inside then channelLoad r s n c sc else if r.enc = 0 ∧ n = 64 then [0, 0] else [0]
  | none => if s = 5 then [if r.enc = 0 then 1 else 0x3F800000#32] else [0]

/-- The registers that component `j` occupies (R228). -/
def componentRegs (r : BufRec) (j : Nat) : Nat :=
  if r.enc = 0 ∧ (channelWidths r.fmt)[r.swz.getD j 4]? = some 64 then 2 else 1

/-- The enabled components (R228). -/
def enabled (cm : BitVec 4) : List Nat := (List.range 4).filter fun j => cm.getLsbD j

/-- The registers of a word's data group (R228). -/
def recordRegs (r : BufRec) (cm : BitVec 4) : Nat := ((enabled cm).map (componentRegs r)).foldl (· + ·) 0

/-- What reading an instruction's record comes to: the record with the pieces it was read from, or what the word does instead. -/
inductive RecRead where
  | ok (r : BufRec) (ps : List Piece)
  | stop (e : Eff)

/-- The effect of a word with the lines that its record's read moves (R96, R98), where it is done. -/
def Eff.readMoved (v : View) (ps : List Piece) (e : Eff) : Eff := e.after (loadTouch v.core v.w.ctx 0 false ps)

/-- The record that a word names, read through the wave's translations when the word executes (R88). -/
def readRecord (v : View) (rc : Nat) (ex : Mask) : RecRead :=
  let va := vaNat (v.grid.lpb.recbase.toNat + 40 * rc)
  match checkLanes v { rd := true, w := false, x := false } .plain (some ex) [(v.lane0, va, 40)] with
  | .wait d => .stop (.hold d)
  | .trap t => .stop (.trap t)
  | .ok ls =>
    let ps := ls.flatMap (·.2)
    let r := recordOf (peekPieces v.d v.core v.w.ctx .plain ps)
    match recordIllegal r with
    | some info => .stop (.trap (wordTrap v 0x14 ex info))
    | none => .ok r ps

/-- The element of a lane of a B-format word (R227, R229). -/
def laneElem (v : View) (w : WordB) (r : BufRec) (l : Nat) : Elem :=
  let c (i : Nat) : Nat := if i ≤ r.dims then (vget v.d v.core v.w l (regNo w.a + i)).toNat else 0
  if w.am = 1 then elemAtByte r (vget v.d v.core v.w l (regNo w.a)).toNat else elemAt r (c 0) (c 1) (c 2)

/-- The checks of a record word that need its record: the byte-offset form and the register groups. -/
def recordChecks (w : WordB) (r : BufRec) : List Check :=
  let a := if w.am = 1 then 1 else r.dims + 1
  [c14 (decide (w.am = 1) && (byteFormIllegal r).isSome) ((byteFormIllegal r).getD 0),
   groupCheck w.d (recordRegs r w.cm) 47, groupCheck w.a a 39]

/-- The checks of LDB and STB that need no record (R227). -/
def bChecks (w : WordB) : List Check :=
  [c13 (!isV w.d) 47, c13 (!isV w.a) 39, c14 (decide (w.cm = 0)) 19, c14 (decide (2 ≤ w.am.toNat)) 15]

/-- The registers that LDB and STB may name. -/
def bRefs (w : WordB) : List RegRef :=
  vRefs (regNo w.a) (if w.am = 1 then 1 else 3) ++ vRefs (regNo w.d) (2 * (enabled w.cm).length)

/-- The accesses of lanes to the scale bytes of their elements. -/
def scaleAccess (r : BufRec) (es : List (Nat × Elem)) : List (Nat × Nat × Nat) :=
  if 6 ≤ r.enc then (es.filter fun e => e.2.inside).map fun e => let s := scaleAt r e.2; (e.1, s.1, s.2) else []

/-- The number that an element's bytes hold: a nibble of X4's byte. -/
def elemRaw (r : BufRec) (e : Elem) (bs : List Byte) : Nat :=
  if r.fmt = 13 then leNat bs / 16 ^ e.nib % 16 else leNat bs

/-- The effect of LDB, and of TEXLD, on a record (R227 to R229, R323). -/
def ldbAct (v : View) (w : WordB) (rc : Nat) (ex : Mask) : Eff :=
  match readRecord v rc ex with
  | .stop e => e
  | .ok r ps =>
    match firstBad (recordChecks w r) with
    | some c => .trap (wordTrap v c.cause ex c.info)
    | none =>
      let once := w.tl.u || v.uni
      let es := (accessLanes v once ex false).map fun l => (l, laneElem v w r l)
      let ins := es.filter fun e => e.2.inside
      Eff.readMoved v ps <| globalRead v once ex w.tl (recordReader r) false false
        (ins.map (fun e => (e.1, e.2.va, elemBytes r.fmt)) ++ scaleAccess r es) fun ports xs d =>
          let elems := xs.take ins.length
          let scales := xs.drop ins.length
          let words (l : Nat) : List W32 :=
            let src := if once then v.lane0 else l
            let e := (es.find? fun e => decide (e.1 = src)).map (·.2)
            match e with
            | none => []
            | some e => (enabled w.cm).flatMap fun j =>
                componentLoad r (elemRaw r e (bytesOf elems src)) j e.inside (bytesOf scales src)
          loadDone v ports d w.hd.md (groupWrites v (regNo w.d) (recordRegs r w.cm) (targets v once ex) words)

/-- LDB (R227 to R229). -/
def jobLdb (w : WordB) : Job :=
  { code := w.toBits 0x07, g := w.hd.g, lanes := .each, u := w.tl.u, uniOk := true, mem := true, refs := bRefs w
    legal := fun _ => bChecks w ++ tailChecks w.tl [0, 1] true 2 ++ [c14 (decide (w.sub ≠ 0)) 13]
    act := fun v ex => ldbAct v w w.rc.toNat ex }
/-- LDB (R227): its step. -/
def execLdb (w : WordB) (s : State) : Out State := runJob (jobLdb w) s

/-- An element with a channel's code put in its place. -/
def putChannel (r : BufRec) (raw ch code : Nat) : Nat :=
  let n := (channelWidths r.fmt).getD ch 0
  let o := 2 ^ channelOff r.fmt ch
  raw % o + code * o + raw / (o * 2 ^ n) * (o * 2 ^ n)

/-- The codes that a lane's components give, in order: channel and code; with the flags and the generator after them
(R228, R115). Under ENC 0 to 3, where R91 fixes the code, `.sr` takes no step of the generator (DESIGN CHOICE, log 140). -/
def laneCodes (v : View) (w : WordB) (r : BufRec) (sc : List Byte) (l : Nat) :
    List Nat → Nat → W32 → List (Nat × Nat) × Flags × W32
  | [], _, g => ([], 0, g)
  | j :: js, n, g =>
    let ch := r.swz.getD j 4
    match (channelWidths r.fmt)[ch]? with
    | none => laneCodes v w r sc l js (n + 1) g
    | some bits =>
      let sr := decide (w.sub.toNat % 8 = 5) && decide (4 ≤ r.enc)
      let st := lfsrStep g
      let k : StRound := { m := rmOf v.w.fmode (w.sub.toNat % 8), gen := if sr then some st.2 else none,
                           sat := w.sub.getLsbD 3 }
      let xs := (List.range (componentRegs r j)).map fun i => vget v.d v.core v.w l (regNo w.d + n + i)
      let c := channelStore r ch bits k xs sc
      let t := laneCodes v w r sc l js (n + componentRegs r j) (if sr then st.1 else g)
      ((ch, c.1) :: t.1, c.2 ||| t.2.1, t.2.2)

/-- A lane's element read, modified and written as one update (R228). -/
def storeElem (v : View) (w : WordB) (r : BufRec) (e : Elem) (codes : List (Nat × Nat)) (ps : List Piece) (d : Device) :
    Device :=
  if codes = [] then d
  else
    let old := piecesRead d v.w.ctx (recordReader r) ps
    let new := codes.foldl (fun x c => putChannel r x c.1 c.2) (elemRaw r e old)
    let byte := if r.fmt = 13 then
      (if e.nib = 0 then leNat old / 16 * 16 + new else leNat old % 16 + new * 16) else new
    storePieces v (recordReader r) w.tl.ch ps (leBytes (elemBytes r.fmt) byte) d

/-- The stores of the lanes of an STB, in ascending order. -/
def storeElems (v : View) (w : WordB) (r : BufRec) (codes : Nat → List (Nat × Nat)) (elem : Nat → Elem) :
    List (Nat × List Piece) → Device → Device
  | [], d => d
  | (l, ps) :: t, d => storeElems v w r codes elem t (storeElem v w r (elem l) (codes l) ps d)

/-- The bytes that a list of lane accesses holds for the core, lane by lane. -/
def peekLanes (v : View) (rd : Reader) (ls : List (Nat × List Piece)) : List (Nat × List Byte) :=
  ls.map fun e => (e.1, peekPieces v.d v.core v.w.ctx rd e.2)

/-- The bytes that stand in memory at a virtual address, read through the page tables with no check that could fault; none
where it has no translation. -/
def tablePeek (d : Device) (ctx : Nat) (rd : Reader) (va len : Nat) : List Byte :=
  match engineParts ctx { rd := false, w := false, x := false } true false rd (pageCuts va len) d with
  | .error _ => []
  | .ok (ps, d1) => piecesRead d1 ctx rd ps

/-- The scale bytes of helper lanes' elements, which their conversions count flags with (R118, R301): a helper lane makes no
access that could trap, and finds the bytes that stand in memory (log 45). -/
def helperScales (v : View) (r : BufRec) (ls : List Nat) (elem : Nat → Elem) : List (Nat × List Byte) :=
  (scaleAccess r (ls.map fun l => (l, elem l))).map fun a =>
    match laneAccess v.d v.core v.w.ctx v.w.walkFaults { rd := true, w := false, x := false } v.priv (recordReader r) a.2.1 a.2.2 with
    | .ok ps => (a.1, peekPieces v.d v.core v.w.ctx (recordReader r) ps)
    | _ => (a.1, tablePeek v.d v.w.ctx (recordReader r) a.2.1 a.2.2)

/-- STB (R227 to R229): conversions first, then each lane's update. -/
def stbAct (v : View) (w : WordB) (ex : Mask) (r : BufRec) : Eff :=
  let once := w.tl.u || v.uni
  let all := accessLanes v once ex false
  let elem (l : Nat) : Elem := laneElem v w r l
  let ins := all.filter fun l => (elem l).inside
  let live := ins.filter fun l => !v.helpers.getLsbD l
  if memHeld v w.tl false true then .hold v.d
  else
    match checkLanes v { rd := false, w := true, x := false } (recordReader r) (onceMask once ex)
        (live.map fun l => (l, (elem l).va, elemBytes r.fmt)) with
    | .wait d => .hold d
    | .trap t => .trap t
    | .ok ls =>
      match checkLanes v { rd := true, w := false, x := false } (recordReader r) (onceMask once ex)
          (scaleAccess r (live.map fun l => (l, elem l))) with
      | .wait d => .hold d
      | .trap t => .trap t
      | .ok sls =>
        let scales := peekLanes v (recordReader r) sls ++ helperScales v r (ins.filter fun l => v.helpers.getLsbD l) elem
        let res (l : Nat) : List (Nat × Nat) × Flags × W32 :=
          laneCodes v w r (bytesOf scales l) l (enabled w.cm) 0 (tblGet 0#32 v.w.lfsr (if once then 0 else l))
        let fl := orFlags (ins.map fun l => (res l).2.1)
        let gens (wv : Wave) : Wave :=
          putLfsr (if once then [0] else ins) (fun l => (res (if once then v.lane0 else l)).2.2) wv
        let d1 := storeElems v w r (fun l => (res l).1) elem ls v.d
        storeDone v (lanesPorts v.d ls) (v.put d1 fun wv => addFlags fl (if w.sub.toNat % 8 = 5 ∧ ins ≠ [] then gens wv else wv))

/-- Whether RM 5 is admitted to an element (R115, R227): channels of 8 or 16 bits, and X4's E2M1 and TS4 under ENC 6 and 7. -/
def srAdmits (r : BufRec) : Bool := [0, 1, 4, 5, 6, 7, 11, 12].contains r.fmt || (decide (r.fmt = 13) && decide (6 ≤ r.enc))

/-- STB (R227). -/
def jobStb (w : WordB) : Job :=
  { code := w.toBits 0x08, g := w.hd.g, lanes := .each, u := w.tl.u, uniOk := true, mem := true, refs := bRefs w
    legal := fun _ => bChecks w ++ tailChecks w.tl [0, 2] true 2 ++
      [c14 (decide (w.sub.toNat / 16 ≠ 0)) 13, c14 (decide (5 < w.sub.toNat % 8)) 10,
       c14 (decide (w.hd.md ≠ 0)) 51]
    act := fun v ex =>
      match readRecord v w.rc.toNat ex with
      | .stop e => e
      | .ok r ps =>
        match firstBad (recordChecks w r ++ [c14 (decide (w.sub.toNat % 8 = 5) && !srAdmits r) 10]) with
        | some c => .trap (wordTrap v c.cause ex c.info)
        | none => (stbAct v w ex r).readMoved v ps }
/-- STB (R227): its step. -/
def execStb (w : WordB) (s : State) : Out State := runJob (jobStb w) s

end Sys2Proof.Machine
end

