-- ==== Sys2Proof/Machine/BackEnd.lean ====
section
/-! DEFINITION. Pixel back ends: depth, blending, stores and colour compression of a draw (R302 to R307, R408, R411). -/

namespace Sys2Proof.Machine

/-- How a back end reads a record's blocks: it decodes every mode, and takes a fast clear from the record (R305, R408, R452). -/
def backReader (r : BufRec) : Reader := .aware (clearBytes (halfBytes r.fmt) r.clear)

/-- What a step of a back end comes to: the device, or the fault that the fragment meets. -/
abbrev BackRes := Except MFault Device

/-- The physical address of a byte for a back end, with the page's leaf. -/
def backPlace (d : Device) (ctx va : Nat) : Option (Nat × TlbEntry) :=
  match walkNow d ctx va false with
  | .error _ => none
  | .ok (te, _) => some (te.pa + (vaNat va - te.page), te)

/-- The block that the back end of its slice still holds raw, by its virtual address (R307). -/
def backImage (d : Device) (ctx va : Nat) : Option (List Byte) :=
  (backPlace d ctx (va / 256 * 256)).bind fun p => if p.2.kind = 1 then tblFind d.st.back (p.1 / 256) else none

/-- A malformed block made raw, reading as zero, for a fragment written over it (R408). -/
def forceRaw (d : Device) (ctx va : Nat) : Device :=
  match backPlace d ctx (va / 256 * 256), sidecarAt d none ctx (va / 256 * 256) with
  | some p, .ok sp => memWrite (memWrite d ctx p.1 (List.replicate 256 0)) ctx sp [0x0F]
  | _, _ => d

/-- Some bytes of one block that a back end reads for a draw: what it still holds itself, else what memory does; a malformed
block reads as zero, with a record on the draw's queue (R408). -/
def backCut (g : Grid) (r : Reader) (c : Nat × Nat × Nat) (d : Device) : Except MFault (List Byte × Device) :=
  let held := (backImage d g.ctx c.1).map fun bs => (bs.drop c.2.1).take c.2.2
  match engineRead d g.ctx (ctxOf d g.ctx).sysctx r c.1 c.2.2 with
  | .ok (bs, d1) => .ok (held.getD bs, d1)
  | .error f =>
    if f.cause ≠ 0x41 then .error f
    else
      match held with
      | some bs => .ok (bs, d)
      | none => .ok (List.replicate c.2.2 0, faultRecord d (.launch g.queue) g.ctx 0x41 false 0 f.info (gridWhere g))

/-- Bytes that a back end reads block by block. -/
def backCuts (g : Grid) (r : Reader) : List (Nat × Nat × Nat) → Device → Except MFault (List Byte × Device)
  | [], d => .ok ([], d)
  | c :: t, d =>
    match backCut g r c d with
    | .error f => .error f
    | .ok (bs, d1) =>
      match backCuts g r t d1 with
      | .error f => .error f
      | .ok (cs, d2) => .ok (bs ++ cs, d2)

/-- Bytes that a back end reads for a draw. -/
def backRead (g : Grid) (r : Reader) (va n : Nat) (d : Device) : Except MFault (List Byte × Device) :=
  backCuts g r (blockCuts va n) d

/-- The poison of an element that a back end writes over is gone (R411). -/
def backClean (d : Device) (ctx va n : Nat) : Device :=
  match backPlace d ctx va with
  | some p => { d with st := { d.st with poison := poisonClear d.st.poison 2 16 (p.1 / 16 * 16) (16 * ceilDiv (p.1 % 16 + n) 16) } }
  | none => d

/-- A record of a draw's pixel kernel; none where it is illegal. -/
def backRecord (d : Device) (g : Grid) (l : Lpb) (i : Nat) : Except MFault (Option BufRec × Device) :=
  match dfeRead d g.ctx (vaNat (l.recbase.toNat + 40 * i)) 40 with
  | .error f => .error f
  | .ok (bs, d1) =>
    let r := recordOf bs
    .ok (if (recordIllegal r).isSome then none else some r, d1)

/-- An element of a target: its bytes as a number, and its scale bytes; zeros out of extent. -/
def backElem (d : Device) (g : Grid) (r : BufRec) (e : Elem) : Except MFault (List Byte × List Byte × Device) :=
  if e.inside = false then .ok ([], [], d)
  else
    match backRead g (backReader r) e.va (elemBytes r.fmt) d with
    | .error f => .error f
    | .ok (bs, d1) =>
      if r.enc < 6 then .ok (bs, [], d1)
      else
        let s := scaleAt r e
        match backRead g .plain s.1 s.2 d1 with
        | .error f => .error f
        | .ok (sc, d2) => .ok (bs, sc, d2)

/-- The value of component `j` of an element as FP32. -/
def backComp (r : BufRec) (e : Elem) (bs sc : List Byte) (j : Nat) : W32 :=
  (componentLoad r (elemRaw r e bs) j e.inside sc).headD 0

/-- Whether a record is a compressible colour target (R305). -/
def isColour (r : BufRec) : Bool := decide (r.fmt = 5) && (decide (r.enc = 1) || decide (r.enc = 3)) && decide (r.ilv = 1) && r.cmpa

/-- The raw contents of a block on a compressed page for a back end: what it still holds, else what the block expands to, and
zeros where it is malformed (R305, R408). -/
def backBlock (d : Device) (ctx : Nat) (te : TlbEntry) (r : Reader) (va pa : Nat) : List Byte :=
  match tblFind d.st.back (pa / 256) with
  | some bs => bs
  | none =>
    match blockRead d none ctx te r va with
    | .ok b => b.2.1
    | .error _ => List.replicate 256 0

/-- Some bytes of one block written by a back end of a draw (R305, R307): a block of a compressed target is held raw until the
draw is flushed; any other write is performed at once. -/
def backPut (geo : Nat) (g : Grid) (r : BufRec) (c : Nat × Nat × Nat) (bs : List Byte) (d : Device) : BackRes :=
  let priv := (ctxOf d g.ctx).sysctx
  let b := c.1 / 256 * 256
  match engineParts g.ctx { rd := false, w := true, x := false } priv true (backReader r) [(c.1, c.2.2)] d with
  | .ok (p :: _, d1) =>
    if isColour r ∧ p.te.kind = 1 then
      let pa := p.pa / 256 * 256
      let new := patchBytes (backBlock d1 g.ctx p.te (backReader r) b pa) c.2.1 bs
      .ok (modDraw { d1 with st := { d1.st with back := tblSet d1.st.back (pa / 256) new } } geo fun w =>
        { w with changed := if w.changed.contains b then w.changed else w.changed ++ [b] })
    else .ok (pieceWrite d1 g.ctx g.ctx (backReader r) p bs)
  | .ok ([], d1) => .ok d1
  | .error f =>
    if f.cause ≠ 0x41 then .error f
    else
      match engineWrite (forceRaw d g.ctx c.1) g.ctx g.ctx priv (backReader r) c.1 bs with
      | .error x => .error x
      | .ok d1 => .ok d1

/-- Bytes written by a back end block by block. -/
def backPuts (geo : Nat) (g : Grid) (r : BufRec) : List (Nat × Nat × Nat) → List Byte → Device → BackRes
  | [], _, d => .ok d
  | c :: t, bs, d =>
    match backPut geo g r c (bs.take c.2.2) d with
    | .error f => .error f
    | .ok d1 => backPuts geo g r t (bs.drop c.2.2) d1

/-- The code that an exact component value stores into its channel, with the channel (R303, R91). -/
def backCode (r : BufRec) (sc : List Byte) (j : Nat) (x : FVal) (bits : W32) : Option (Nat × Nat) :=
  let ch := r.swz.getD j 4
  match (channelWidths r.fmt)[ch]? with
  | none => none
  | some n => some (ch, (channelStoreV r ch n { m := .rne, gen := none, sat := false } x bits.toNat sc).1)

/-- Components written to an element (R303). -/
def backWrite (d : Device) (geo : Nat) (g : Grid) (r : BufRec) (e : Elem) (bs sc : List Byte)
    (xs : List (Nat × FVal × W32)) : BackRes :=
  let codes := xs.filterMap fun x => backCode r sc x.1 x.2.1 x.2.2
  if e.inside = false ∨ codes = [] then .ok d
  else
    let new := codes.foldl (fun k c => putChannel r k c.1 c.2) (elemRaw r e bs)
    let byte := if r.fmt = 13 then (if e.nib = 0 then leNat bs / 16 * 16 + new else leNat bs % 16 + new * 16) else new
    match backPuts geo g r (blockCuts e.va (elemBytes r.fmt)) (leBytes (elemBytes r.fmt) byte) d with
    | .error f => .error f
    | .ok d1 => .ok (backClean d1 g.ctx e.va (elemBytes r.fmt))

/-- Whether a fragment's depth passes against the stored depth (Table 11.1). -/
def depthPasses (func : Nat) (a z : FVal) : Bool :=
  match func with
  | 0 => false
  | 1 => ltF a z
  | 2 => eqF a z
  | 3 => ltF a z || eqF a z
  | 4 => ltF z a
  | 5 => !eqF a z
  | 6 => ltF z a || eqF a z
  | _ => true

/-- The depth test and write of a fragment of target 0 (R303): the device and whether the fragment goes on. -/
def depthStep (d : Device) (geo : Nat) (g : Grid) (l : Lpb) (f : Fragment) : Except MFault (Bool × Device) :=
  let rec' := dsbField f.state 3 0 12
  if f.target ≠ 0 ∨ rec' = 0xFFF then .ok (true, d)
  else
    match backRecord d g l rec' with
    | .error x => .error x
    | .ok (none, d1) => .ok (false, d1)
    | .ok (some r, d1) =>
      let e := elemAt r f.x f.y 0
      match backElem d1 g r e with
      | .error x => .error x
      | .ok (bs, sc, d2) =>
        if !depthPasses (dsbField f.state 3 12 3) (f32 f.depth) (f32 (backComp r e bs sc 0)) then .ok (false, d2)
        else if dsbField f.state 3 15 1 = 0 then .ok (true, d2)
        else
          match backWrite d2 geo g r e bs sc [(0, f32 f.depth, f.depth)] with
          | .error x => .error x
          | .ok d3 => .ok (true, d3)

/-- 1 − x. -/
def oneMinus (x : FVal) : FVal := (sumF .rne [.num false 1, negVal x]).1

/-- A blend factor (Table 11.1): source and destination components, and the component in hand. -/
def blendFactor (code : Nat) (s d : Nat → FVal) (c : Nat) : FVal :=
  match code with
  | 0 => .num false 0
  | 1 => .num false 1
  | 2 => s 3
  | 3 => oneMinus (s 3)
  | 4 => d 3
  | 5 => oneMinus (d 3)
  | 6 => s c
  | _ => oneMinus (s c)

/-- r(c) of a blend (R303), exact; codes 5 to 7 of OP are reserved and give none. -/
def blendValue (op sf df : Nat) (s d : Nat → FVal) (c : Nat) : Option FVal :=
  let a := (mulF (s c) (blendFactor sf s d c)).1
  let b := (mulF (d c) (blendFactor df s d c)).1
  match op with
  | 0 => some (sumF .rne [a, b]).1
  | 1 => some (sumF .rne [a, negVal b]).1
  | 2 => some (sumF .rne [b, negVal a]).1
  | 3 => some (minF (s c) (d c)).1
  | 4 => some (maxF (s c) (d c)).1
  | _ => none

/-- The components that a fragment writes to its target (R303): component, exact value, and FP32 bits. -/
def colourOf (t : W64) (f : Fragment) (d : Nat → W32) : List (Nat × FVal × W32) :=
  let s (c : Nat) : FVal := f32 (f.colour.getD c 0)
  ((List.range 4).filter fun c => t.getLsbD (22 + c)).filterMap fun c =>
    if t.getLsbD 12 then
      (blendValue (field t 19 3) (field t 13 3) (field t 16 3) s (fun i => f32 (d i)) c).map fun v =>
        (c, v, f32Bits (roundF fp32 .rne v).1)
    else some (c, s c, f.colour.getD c 0)

/-- The colour write of a fragment (R303). -/
def colourStep (d : Device) (geo : Nat) (g : Grid) (l : Lpb) (f : Fragment) : BackRes :=
  let t := f.state.getD (4 + f.target) 0
  if field t 0 12 = 0xFFF then .ok d
  else
    match backRecord d g l (field t 0 12) with
    | .error x => .error x
    | .ok (none, d1) => .ok d1
    | .ok (some r, d1) =>
      let e := elemAt r f.x f.y 0
      match backElem d1 g r e with
      | .error x => .error x
      | .ok (bs, sc, d2) => backWrite d2 geo g r e bs sc (colourOf t f (backComp r e bs sc))

/-- A fragment's depth test, depth write and colour write, one update (R303). -/
def fragmentStep (d : Device) (geo : Nat) (g : Grid) (f : Fragment) : BackRes :=
  match tblFind d.grids f.grid with
  | none => .ok d
  | some k =>
    match depthStep d geo g k.lpb f with
    | .error x => .error x
    | .ok (false, d1) => .ok d1
    | .ok (true, d1) => colourStep d1 geo g k.lpb f

/-- Whether every wave of a draw has retired and every triangle is rasterised, so that its fragments are all there. -/
def drawSettled (g : Grid) : Bool :=
  decide (g.retired = g.lpb.total) && decide (g.draw.tris = []) && decide (g.draw.pending = []) &&
  decide (g.draw.pixelBlocks = 0)

/-- Whether an earlier fragment stands at a fragment's pixel and target (R303). -/
def fragmentWaits (fs : List Fragment) (f : Fragment) : Bool :=
  fs.any fun k => decide (k.target = f.target) && decide (k.x = f.x) && decide (k.y = f.y) && lexLt k.order f.order

/-- FRAGMENT_PROCESS (R303, R408, R411): the `index`-th fragment of a draw. A fault is parked where the context parks
faults; else the fragment is dropped, with a record on the draw's queue. -/
def fragmentProcess (d : Device) (grid index : Nat) : Device :=
  match tblFind d.grids grid with
  | none => d
  | some g =>
    match g.draw.frags[index]? with
    | none => d
    | some f =>
      if !drawSettled g || fragmentWaits g.draw.frags f then d
      else
        let drop (d : Device) : Device := modDraw d grid fun w => { w with frags := listDrop w.frags index }
        match fragmentStep d grid g f with
        | .ok d1 => drop d1
        | .error x =>
          if engParks d g.ctx x then parkEngine d (.launch g.queue) g.ctx x (gridWhere g)
          else drop (faultRecord d (.launch g.queue) g.ctx x.cause false 0 (engInfo x) (gridWhere g))

/-- The block of a fragment's target (R302): that of its colour element, or of its depth where the draw gives its target no
colour. -/
def fragmentBlock (d : Device) (g : Grid) (f : Fragment) : Option Nat :=
  let colour := field (f.state.getD (4 + f.target) 0) 0 12
  let n := if colour = 0xFFF then dsbField f.state 3 0 12 else colour
  match (tblFind d.grids f.grid).map fun k => backRecord d g k.lpb n with
  | some (.ok (some r, _)) => (backPlace d g.ctx (elemAt r f.x f.y 0).va).map fun p => p.1 / 256 * 256
  | _ => none

/-- The pixel back end of a fragment: that of the slice that holds its target block, in the hall of the same number (R14,
R302). -/
def fragmentUnit (d : Device) (g : Grid) (f : Fragment) : Nat := sliceOf ((fragmentBlock d g f).getD 0)

/-- Whether the pixel back end that a fragment goes to may take it (R302, R308, R427). -/
def fragmentReady (d : Device) (grid index : Nat) : Bool :=
  match tblFind d.grids grid with
  | none => false
  | some g =>
    match g.draw.frags[index]? with
    | none => false
    | some f => unitReady d 3 (fragmentUnit d g f) g.ctx

/-- The back end of a fragment has made a step (R427). -/
def fragmentStepped (d0 : Device) (grid index : Nat) (d : Device) : Device :=
  match (tblFind d0.grids grid).bind fun g => (g.draw.frags[index]?).map fun f => fragmentUnit d0 g f with
  | some u => unitStepped 3 u d
  | none => d

/-- FRAGMENT_PROCESS. -/
def execFragmentProcess (grid index : Nat) (s : State) : Out State :=
  runDevice (fun d => if fragmentReady d grid index then fragmentStepped d grid index (fragmentProcess d grid index) else d) s

/-- A block that a draw changed written in its smallest mode (R307): the mode's bytes and the sidecar byte; bytes past LEN
keep the values they held (R371). -/
def flushBlock (ctx : Nat) (d : Device) (va : Nat) : Device :=
  match backPlace d ctx va, sidecarAt d none ctx va with
  | some p, .ok sp =>
    let c := packColour (backBlock d ctx p.2 .plain va p.1)
    let d1 := { d with st := { d.st with back := tblErase d.st.back (p.1 / 256) } }
    memWrite (memWrite d1 ctx p.1 c.2) ctx sp [c.1]
  | _, _ => d

/-- DRAW_FLUSH (R294, R307): the writes of a draw's back ends are flushed. -/
def drawFlush (d : Device) (grid : Nat) : Device :=
  match tblFind d.grids grid with
  | none => d
  | some g =>
    if !drawSettled g || decide (g.draw.frags ≠ []) then d
    else modDraw (g.draw.changed.foldl (flushBlock g.ctx) d) grid fun w => { w with changed := [] }

/-- DRAW_FLUSH. -/
def execDrawFlush (grid : Nat) (s : State) : Out State := runDevice (fun d => drawFlush d grid) s

/-! ## Microcoded units (R308) -/

/-- The context of a ray query in flight in a hall. -/
def rayWork (d : Device) (hall : Nat) : Option Nat :=
  (List.range 4).findSome? fun i =>
    (coreOf d (4 * hall + i)).waves.findSome? fun e =>
      if e.2.gfx.rays.any fun r => r.2.flying then some e.2.ctx else none

/-- The context of the work that waits for a unit: kind and number of R308; texture filtering serves its hall's owner, a pixel
back end the fragments of its slice (R302). -/
def unitWork (d : Device) (kind unit : Nat) : Option Nat :=
  match kind with
  | 0 => rayWork d unit
  | 1 => (nextTriangle d unit).map fun t => t.2.1.ctx
  | 2 => (hallOf d unit).owner
  | 3 => d.grids.findSome? fun e =>
    if e.2.draw.frags.any fun f => decide (fragmentUnit d e.2 f = unit) then some e.2.ctx else none
  | _ => (hallOf d unit).staging.head?.map fun s => s.ctx

/-- Whether a unit is in the midst of work that it has begun (R308): a ray query, or a regroup pass at its activations. The
others finish what they take in one step. -/
def unitBusy (d : Device) (kind unit : Nat) : Bool :=
  match kind with
  | 0 => (List.range 4).any fun i =>
    (coreOf d (4 * unit + i)).waves.any fun e => e.2.gfx.rays.any fun r => r.2.flying && r.2.begun
  | 4 => (hallOf d unit).mat.any fun e => e.staging.isSome && e.granted
  | _ => false

/-- A change of a microcoded unit's state. -/
def modUnit (d : Device) (kind unit : Nat) (f : UnitRun → UnitRun) : Device :=
  let is (u : UnitRun) : Bool := decide (u.kind = kind) && decide (u.unit = unit)
  if d.units.any is then { d with units := d.units.map fun u => if is u then f u else u }
  else { d with units := d.units ++ [f { kind := kind, unit := unit, image := none, reloading := false, idle := 0 }] }

/-- UNIT_IMAGE_SWITCH (R308): a unit comes to run the image of the context whose work waits for it, once the work begun under
its previous image is finished. -/
def unitSwitch (d : Device) (kind unit : Nat) : Device :=
  match unitWork d kind unit with
  | none => d
  | some c =>
    if unitBusy d kind unit || unitStopped d kind unit then d
    else modUnit d kind unit fun u => { u with image := imageOf d kind c, idle := 0 }

/-- UNIT_IMAGE_SWITCH. -/
def execUnitImageSwitch (kind unit : Nat) (s : State) : Out State := runDevice (fun d => unitSwitch d kind unit) s

end Sys2Proof.Machine
end

