-- ==== Sys2Proof/Machine/Launches.lean ====
section
/-! DEFINITION. Appending to launch queues (R347, R348), LAUNCH (R47, R261, R390), and PREF, CWB and CINV (R262 to R264). -/

namespace Sys2Proof.Machine

/-- The entry word of a launch queue (R348). -/
def entryWord (e : QEntry) : W64 := BitVec.ofNat 64 ((if e.wait then 2 else 1) * 2 ^ 60 + e.va.toNat)

/-- An entry's place among those of a queue (R348): in order of arrival, and for one fabric cycle by rank. -/
def insertEntry (e : QEntry) : List QEntry → List QEntry
  | [] => [e]
  | x :: t => if x.cyc = e.cyc ∧ e.rank < x.rank then e :: x :: t else x :: insertEntry e t

/-- An entry appended to a queue in the present fabric cycle, the entries' words held in the queue's ring in device memory
(R347, R348). -/
def appendEntry (d : Device) (q : Nat) (e : QEntry) : Device :=
  let k := queueOf d q
  let es := insertEntry { e with cyc := d.fcycle } k.entries
  let first := k.tail - k.entries.length
  let put (d : Device) (x : Nat × QEntry) : Device :=
    memWrite d k.ctx.toNat (domainAddr d (k.rbase.toNat + 8 * ((first + x.1) % 4096))) (leBytes 8 (entryWord x.2).toNat)
  let moved := ((List.range es.length).zip es).filter fun x => decide (k.entries[x.1]? ≠ some x.2)
  modQueue (moved.foldl put d) q fun k => { k with entries := es, tail := k.tail + 1 }

/-- A child of a LAUNCH: its lane, its queue and its LPB's address. -/
structure Child where
  lane : Nat
  queue : Nat
  va : Nat

/-- Why a child cannot be appended (R390), with the children of its word before it. -/
def childBad (d : Device) (before : List Child) (c : Child) : Option Nat :=
  let k := queueOf d c.queue
  let mine := (before.filter fun b => decide (b.queue = c.queue)).length
  if c.va % 256 ≠ 0 then some 1
  else if !k.en then some 2
  else if 4096 ≤ k.entries.length + mine then some 0
  else none

/-- The children that fail, in creation order (R390). -/
def badChildren (d : Device) (before : List Child) : List Child → List (Child × Nat)
  | [] => []
  | c :: t =>
    let r := badChildren d (before ++ [c]) t
    match childBad d before c with
    | some x => (c, x) :: r
    | none => r

/-- LAUNCH (R47, R261): a release at .dev; one child for each lane, in ascending order. -/
def jobLaunch (w : WordE) : Job :=
  { code := w.toBits 0x38, g := w.hd.g, lanes := .each, u := w.u, uniOk := true, refs := refsOf [w.x, w.y, w.z]
    tok := eTok w, mem := true
    legal := fun _ => [sregCheck w.x 47, c13 (!isV w.y) 39, c13 (!(isV w.z || isS w.z || isInline w.z)) 31,
      unusedField w.w 23, eSco w, eMod w, c14 (decide (w.sub ≠ 0)) 10] ++ tokChecks w true
    act := fun v ex =>
      let once := w.u || v.uni
      let cs := (accessLanes v once ex true).map fun l =>
        ({ lane := l, queue := (src v [] w.z l).toNat % 256
           va := vaNat ((src64 v w.x).toNat + (src v [] w.y l).toNat) } : Child)
      if storesFor false v.w ≠ 0 then .hold v.d
      else
        match badChildren v.d [] cs with
        | (c, r) :: t =>
          .trap (wordTrap v 0x23 (if once then ex else maskOf (((c, r) :: t).map fun e => e.1.lane)) (r * 256 + c.queue))
        | [] =>
          let entry (c : Child) : QEntry :=
            { wait := false, va := BitVec.ofNat 48 c.va, ctx := v.w.ctx, cyc := 0, rank := v.core }
          .done (cs.foldl (fun d c => appendEntry d c.queue (entry c)) v.d) .onward }
/-- LAUNCH (R47): its step. -/
def execLaunch (w : WordE) (s : State) : Out State := runJob (jobLaunch w) s

/-- The checks that PREF, CWB and CINV share: D, SZ, SX, ORD and MOD zero. -/
def cacheChecks (w : WordM) : List Check :=
  [c14 (!isUnused w.d) 47, c14 (decide (w.sz ≠ 0)) 11, c14 w.sx 8, c14 (decide (w.tl.ord ≠ 0)) 7, c14 (decide (w.hd.md ≠ 0)) 51]

/-- The address operands of PREF, CWB and CINV (R217). -/
def cacheAddress (w : WordM) : List Check := [baseCheck w.a 39, indexCheck w.b 31]

/-- A line asked for by PREF where it translates and may be read (R262): with CH 0 into the core's L1, where the page's type and
kind let it stand there, and into L2; with CH 1 into L2 alone. -/
def prefetch (v : View) (ch : BitVec 2) (d0 : Device) (va : Nat) : Device :=
  match walkTables d0 v.w.ctx va with
  | .ok te _ _ =>
    let d := if (tlbLookup d0 v.core v.w.ctx va).isSome then d0 else tableReads d0 v.w.ctx va
    let p : Piece := { va := va, len := 1, te := te, hall := some v.hall }
    if (permFault te { rd := true, w := false, x := false } v.priv va).isSome || !waveReach d p.pa then d
    else if te.kind ≠ 0 then blockTouch v.w.ctx p d va
    else
      let l1 := decide (ch = 0) && usesL1 d te.mt p.pa true
      let d1 := if l1 then l1Line d v.core v.w.ctx (p.pa / 128) false false else d
      if l1 && (tblFind d1.st.l2 (p.pa / 128)).isSome then d1 else l2AccessMt d1 te.mt v.w.ctx p.pa 1
  | _ => tableReads d0 v.w.ctx va

/-- PREF (R262). -/
def jobPref (w : WordM) : Job :=
  { code := w.toBits 0x39, g := w.hd.g, lanes := .each, u := w.tl.u, uniOk := true, refs := refsOf [w.a, w.b], mem := true
    legal := fun _ => cacheChecks w ++ cacheAddress w ++ [c14 (decide (w.tl.sco ≠ 0)) 5, c14 (decide (2 ≤ w.tl.ch.toNat)) 1]
    act := fun v ex =>
      let ls := accessLanes v (w.tl.u || v.uni) ex false
      .done (ls.foldl (fun d l => prefetch v w.tl.ch d (addrOf v w.a w.b w.off l)) v.d) .onward }
/-- PREF (R262): its step. -/
def execPref (w : WordM) (s : State) : Out State := runJob (jobPref w) s

/-- The lines that lanes of a cache word name, translated and checked. -/
def cacheLines (v : View) (w : WordM) (ex : Mask) : Checked :=
  checkLanes v { rd := false, w := false, x := false, bare := true } .plain none
    ((lanesOf v.width ex).map fun l => (l, addrOf v w.a w.b w.off l, 1))

/-- The physical lines of checked lanes. -/
def linesOf (ls : List (Nat × List Piece)) : List Nat := ls.flatMap fun e => e.2.map fun p => p.pa / 128

/-- CWB (R263): ordered as a store, though none of the store-type instructions that waits and limits count (R143). -/
def jobCwb (w : WordM) : Job :=
  { code := w.toBits 0x3A, g := w.hd.g, lanes := .each, u := w.tl.u, refs := refsOf [w.a, w.b], mem := true
    legal := fun _ => cacheChecks w ++ cacheAddress w ++
      [c14 (decide (w.tl.sco ≠ 3 ∧ w.tl.sco ≠ 4)) 5, c14 (decide (w.tl.ch ≠ 0)) 1]
    act := fun v ex =>
      match cacheLines v w ex with
      | .wait d => .hold d
      | .trap t => .trap t
      | .ok ls =>
        .done (v.put ((linesOf ls).foldl cleanLine v.d) (pushOpTo (lanesPorts v.d ls) .cwb none [] none 0 [])) .onward }
/-- CWB (R263): its step. -/
def execCwb (w : WordM) (s : State) : Out State := runJob (jobCwb w) s

/-- CINV (R264). -/
def jobCinv (w : WordM) : Job :=
  let all := decide (w.tl.ch = 1)
  { code := w.toBits 0x3B, g := w.hd.g, lanes := .each, u := w.tl.u, refs := refsOf [w.a, w.b], mem := true
    legal := fun _ => cacheChecks w ++ [c14 (decide (w.tl.sco ≠ 0)) 5, c14 (decide (2 ≤ w.tl.ch.toNat)) 1] ++
      (if all then [c14 (!isUnused w.a) 39, c14 (!isUnused w.b) 31, c14 (decide (w.off ≠ 0)) 23] else cacheAddress w)
    act := fun v ex =>
      if all then .done (modCore v.d v.core fun k => { k with l1 := [] }) .onward
      else
        match cacheLines v w ex with
        | .wait d => .hold d
        | .trap t => .trap t
        | .ok ls =>
          .done (modCore v.d v.core fun k => { k with l1 := (linesOf ls).foldl l1Drop k.l1 }) .onward }
/-- CINV (R264): its step. -/
def execCinv (w : WordM) (s : State) : Out State := runJob (jobCinv w) s

end Sys2Proof.Machine
end

