-- ==== Sys2Proof/Machine/Copy.lean ====
section
/-! DEFINITION. Copy-engine commands (R243 to R253, R429) and the steps of a hall's copy engine (R246, R247, Table 19.3). -/

namespace Sys2Proof.Machine

/-! ## Fields and shapes -/

/-- The variant, SUB[9:8] (R243). -/
def cpVar (w : WordE) : Nat := w.sub.toNat / 16 % 4

/-- The ARV bit (R243). -/
def cpArv (w : WordE) : Bool := w.sub.getLsbD 6

/-- The queue, SUB[5:4] (R243). -/
def cpQueue (w : WordE) : Nat := w.sub.toNat % 4

/-- The traffic class, SUB[7:6] (R243). -/
def cpClass (w : WordE) : Nat := w.sub.toNat / 4 % 4

/-- Bytes per row (R245). -/
def shLen (sh0 : W64) : Nat := field sh0 0 32

/-- Rows (R245). -/
def shRows (sh0 : W64) : Nat := field sh0 32 16 + 1

/-- The destination pitch (R245). -/
def shDp (sh1 : W64) : Nat := field sh1 0 32

/-- The source pitch (R245). -/
def shSp (sh1 : W64) : Nat := field sh1 32 32

/-- The element size of a transposing copy, 0 for a plain one (R248). -/
def trSize (opc : BitVec 8) (var : Nat) : Nat := if opc = 0x30 then var else 0

/-- Source and destination element sizes of CPYR (R249). -/
def reduceSizes (var : Nat) : Nat × Nat := if var = 0 then (4, 4) else if var = 1 then (2, 4) else (2, 2)

/-- Equal pieces at a pitch: how many, how far apart, how long. -/
structure Shape where
  count : Nat
  pitch : Nat
  len : Nat

/-- Where the destination bytes of a copy lie from its destination address (R245, R248 to R252). -/
def dstShape (opc : BitVec 8) (var : Nat) (sh0 sh1 : W64) : Shape :=
  let l := shLen sh0
  let e := trSize opc var
  if opc = 0x34 then { count := 1, pitch := 0, len := 8 }
  else if opc = 0x33 then { count := 1, pitch := 0, len := l }
  else if opc = 0x31 then
    let s := reduceSizes var
    { count := shRows sh0, pitch := shDp sh1, len := l / s.1 * s.2 }
  else if 0 < e then { count := l / e, pitch := shDp sh1, len := e * shRows sh0 }
  else { count := shRows sh0, pitch := shDp sh1, len := l }

/-- Where the source bytes of a copy lie from its source address. -/
def srcShape (sh0 sh1 : W64) : Shape := { count := shRows sh0, pitch := shSp sh1, len := shLen sh0 }

/-- The last byte of a shape, counted from its address. -/
def Shape.last (s : Shape) : Nat := (s.count - 1) * s.pitch + s.len - 1

/-- The last piece that begins at or before an offset. -/
def Shape.piece (s : Shape) (off : Nat) : Nat := if s.pitch = 0 then s.count - 1 else min (s.count - 1) (off / s.pitch)

/-- Whether a shape holds the byte at an offset. -/
def Shape.holds (s : Shape) (off : Nat) : Bool := decide (off < s.piece off * s.pitch + s.len)

/-- The first byte of a shape at or after an offset. -/
def Shape.next (s : Shape) (off : Nat) : Option Nat :=
  if s.holds off then some off
  else if s.pitch ≠ 0 ∧ s.piece off + 1 < s.count then some ((s.piece off + 1) * s.pitch)
  else none

/-- How many bytes of a shape lie below an offset. -/
def Shape.below (s : Shape) (off : Nat) : Nat :=
  if s.pitch < s.len ∨ s.count ≤ 1 then min off (s.last + 1)
  else min s.count (off / s.pitch) * s.len + (if off / s.pitch < s.count then min (off % s.pitch) s.len else 0)

/-- The source offset of the byte of a CPY's destination at an offset (R248); where rows of the destination overlap, the
last row's. -/
def copySource (var : Nat) (sh0 sh1 : W64) (off : Nat) : Nat :=
  let dp := shDp sh1
  if var = 0 then
    let r := (dstShape 0x30 0 sh0 sh1).piece off
    r * shSp sh1 + (off - r * dp)
  else
    let s := dstShape 0x30 var sh0 sh1
    let c := if dp = 0 then s.count - 1 else if off < s.len then 0 else (off - s.len) / dp + 1
    let k := off - c * dp
    k / var * shSp sh1 + c * var + k % var

/-! ## The words -/

/-- The engine address that an s register holds, or the check that fails: illegal bits in the field, or a physical
address outside privileged mode (R244, R386). -/
def eaChecks (v : View) (op : Operand) (pos : Nat) : List Check :=
  if isS op then
    match engAddr v.hall (src64 v op) with
    | none => [c16 ((src64 v op).getLsbD 63 && (src64 v op).getLsbD 60 && !v.priv), c14 true pos]
    | some (.phys _) => [c16 (!v.priv)]
    | some _ => []
  else []

/-- The engine address in a field is a virtual one (R251, R252). -/
def eaVirtual (v : View) (op : Operand) (pos : Nat) : Check := c14 (isS op && (src64 v op).getLsbD 63) pos

/-- The engine address of a field. -/
def eaOf (v : View) (op : Operand) : EAddr := (engAddr v.hall (src64 v op)).getD (.virt 0)

/-- The checks that copy words share (R243, R245). -/
def cpChecks (v : View) (w : WordE) : List Check :=
  [c16 (decide (cpClass w = 3) && !v.priv), sregCheck w.x 47, sregCheck w.y 39, eMod w,
   if cpArv w then sregCheck w.w 23 else unusedField w.w 23,
   c14 (cpArv w && isS w.w && decide (field (src64 v w.w) 0 3 ≠ 0)) 2] ++ tokChecks w true

/-- The checks of a word with a shape (R243, R245). -/
def cpShaped (v : View) (w : WordE) : List Check :=
  [sregCheck w.z 31, c14 (decide (w.z = .s 63)) 31, c14 (isS w.z && decide (field (src64 v w.z) 48 16 ≠ 0)) 31,
   eSco w]

/-- The registers of a copy word. -/
def cpRegs (w : WordE) : List Operand :=
  [w.x, w.y, w.w, w.z] ++ match w.z with | .s n => [.s (n + 1)] | _ => []

/-- The first shape register. -/
def cpSh0 (v : View) (w : WordE) : W64 := src64 v w.z

/-- The second shape register. -/
def cpSh1 (v : View) (w : WordE) : W64 := src64 v (.s (regNo w.z + 1))

/-- Where the region of Table 1.4 that holds a module-local address ends (R429). -/
def regionEnd (a : Nat) : Nat :=
  (([0x6000000000, 0x10000000000, 0x18000000000, 0x200000000000, 0x200008000000, 0x200010000000, 0x200018000000,
    0x200020000000, 0x200030000000].find? fun e => decide (a < e)).getD (2 ^ 46))

/-- Whether a span from an address runs past its space (R429, INFO 6). -/
def spanBad (a : EAddr) (last : Nat) : Bool :=
  match a with
  | .virt va => decide (2 ^ 48 ≤ va + last)
  | .spad _ o => decide (2 ^ 18 ≤ o + last)
  | .phys pa => decide (regionEnd (localOf pa) ≤ localOf pa + last)

/-- A span of an operation's bytes: its address, the offset of its last byte, and whether it is written. -/
structure Span where
  at' : EAddr
  last : Nat
  dest : Bool

/-- The range lock of a span (R132, R246). -/
def spanLock (v : View) (id : Nat) (queue : Option Nat) (s : Span) : RangeLock :=
  let l := s.at'.lock v.d
  { op := id, queue := queue, block := v.w.block, dest := s.dest, space := l.1
    ctx := if l.1 = 0 then v.w.ctx else 0, lo := l.2 / 128, hi := (l.2 + s.last) / 128, voided := false }

/-- The scratchpad range of a span must be the issuing block's (R224, R244). -/
def spanRange (v : View) (s : Span) : Option MFault :=
  match s.at' with
  | .spad c o => if spadReach v.d v.blk (decide (c ≠ v.core)) c o (s.last + 1) then none else some (spadFault c o)
  | _ => none

/-- A breach of a range lock by a span of an engine word (R400). -/
def spanBreach (v : View) (exempt : RangeLock → Bool) (s : Span) : Option MFault :=
  let l := s.at'.lock v.d
  (lockHit v.d v.hall exempt l.1 v.w.ctx (l.2 / 128) ((l.2 + s.last) / 128) s.dest).map fun e =>
    lockFault e s.dest true (s.at'.base / 128 * 128)

/-- The first fault of a list of spans. -/
def firstFault (f : Span → Option MFault) : List Span → Option MFault
  | [] => none
  | s :: t => match f s with | some x => some x | none => firstFault f t

/-- The operations of a copy queue. -/
def cqOf (h : Hall) (q : Nat) : List CopyOp := tblGet [] h.cq q

/-- A copy operation as its word issues it. -/
def newCopy (v : View) (opc : BitVec 8) (w : WordE) (clear : List Byte) : CopyOp :=
  { id := v.d.nextId, born := v.d.nextId, core := v.core, slot := v.slot, block := v.w.block, ctx := v.w.ctx, priv := v.priv, opc := opc
    word := w, x := src64 v w.x, y := src64 v w.y, sh0 := if opc = 0x34 then 0 else cpSh0 v w
    sh1 := if opc = 0x34 then 0 else cpSh1 v w, arv := if cpArv w then some (src64 v w.w) else none, clear := clear
    begun := false, unit := 0, owed := 0, finished := false, flags := 0, estat := 0, parked := none, moved := 0 }

/-- An operation appended to its queue with its range locks (R246). -/
def queueCopy (v : View) (d : Device) (o : CopyOp) (spans : List Span) : Device :=
  let q := cpQueue o.word
  modHall { d with nextId := d.nextId + 1 } v.hall fun h =>
    lockAll (spans.map (spanLock v o.id (some q))) { h with cq := tblSet h.cq q (cqOf h q ++ [o]) }

/-- The issue of a copy word: its shape (R429), room in its queue and the lock table, its scratchpad ranges, then the
locks of other operations. -/
def issueCopy (v : View) (opc : BitVec 8) (w : WordE) (ex : Mask) (bad : Nat) (clear : List Byte) (spans : List Span) : Eff :=
  let q := cpQueue w
  let h := hallOf v.d v.hall
  if bad ≠ 0 then .trap (wordTrap v 0x53 ex bad)
  else if spans.any fun s => spanBad s.at' s.last then .trap (wordTrap v 0x53 ex 6)
  else if 16 ≤ (cqOf h q).length ∨ !lockRoom h spans.length then .hold v.d
  else
    match orFault (firstFault (spanRange v) spans)
        (firstFault (spanBreach v fun l => decide (l.queue = some q)) spans) with
    | some f =>
      match trapOfFaults (some ex) [(v.lane0, f)] with
      | some t => .trap t
      | none => .hold v.d
    | none => .done (v.put (queueCopy v v.d (newCopy v opc w clear) spans) (eStart w)) .onward

/-- A copy word with a shape and a source span. -/
def copySpans (v : View) (opc : BitVec 8) (w : WordE) : List Span :=
  let d : Span := { at' := eaOf v w.x, last := (dstShape opc (cpVar w) (cpSh0 v w) (cpSh1 v w)).last, dest := true }
  if opc = 0x32 then [d]
  else [d, { at' := eaOf v w.y, last := (srcShape (cpSh0 v w) (cpSh1 v w)).last, dest := false }]

/-- CPY (R248). -/
def jobCpy (w : WordE) : Job :=
  eJob 0x30 w (cpRegs w) (fun v => cpChecks v w ++ cpShaped v w ++ eaChecks v w.x 47 ++ eaChecks v w.y 39 ++
      [c14 (decide (cpVar w = 3)) 10]) fun v ex =>
    let l := shLen (cpSh0 v w)
    let e := cpVar w
    issueCopy v 0x30 w ex (if l = 0 then 1 else if 0 < e ∧ l % e ≠ 0 then 2 else 0) [] (copySpans v 0x30 w)
/-- CPY (R248): its step. -/
def execCpy (w : WordE) (s : State) : Out State := runJob (jobCpy w) s

/-- CPYR (R249). -/
def jobCpyr (w : WordE) : Job :=
  eJob 0x31 w (cpRegs w) (fun v => cpChecks v w ++ cpShaped v w ++ eaChecks v w.x 47 ++ eaChecks v w.y 39 ++
      [c14 (decide (cpVar w = 3)) 10]) fun v ex =>
    let l := shLen (cpSh0 v w)
    let z := reduceSizes (cpVar w)
    let off := [l, shSp (cpSh1 v w), shDp (cpSh1 v w), (eaOf v w.x).base, (eaOf v w.y).base].any fun x => decide (x % z.1 ≠ 0)
    let bad := off || [shDp (cpSh1 v w), (eaOf v w.x).base].any fun x => decide (x % z.2 ≠ 0)
    issueCopy v 0x31 w ex (if l = 0 then 1 else if bad then 3 else 0) [] (copySpans v 0x31 w)
/-- CPYR (R249): its step. -/
def execCpyr (w : WordE) (s : State) : Out State := runJob (jobCpyr w) s

/-- CPYF (R250). -/
def jobCpyf (w : WordE) : Job :=
  eJob 0x32 w (cpRegs w) (fun v => cpChecks v w ++ cpShaped v w ++ eaChecks v w.x 47) fun v ex =>
    issueCopy v 0x32 w ex (if shLen (cpSh0 v w) = 0 then 1 else 0) [] (copySpans v 0x32 w)
/-- CPYF (R250): its step. -/
def execCpyf (w : WordE) (s : State) : Out State := runJob (jobCpyf w) s

/-- CPYX (R251): the record's CLEAR is read at issue. -/
def jobCpyx (w : WordE) : Job :=
  eJob 0x33 w (cpRegs w) (fun v => cpChecks v w ++ cpShaped v w ++ eaChecks v w.x 47 ++
      [eaVirtual v w.x 47, c14 (decide (cpVar w ≠ 0)) 10]) fun v ex =>
    let l := shLen (cpSh0 v w)
    let va := (eaOf v w.x).base
    let bad := if l = 0 then 1 else if va % 256 ≠ 0 ∨ l % 256 ≠ 0 ∨ shRows (cpSh0 v w) ≠ 1 then 4 else 0
    if bad ≠ 0 then .trap (wordTrap v 0x53 ex bad)
    else
      match readRecord v (field (src64 v w.y) 0 12) ex with
      | .stop e => e
      | .ok r ps =>
        Eff.readMoved v ps <| issueCopy v 0x33 w ex 0 (clearBytes (halfBytes r.fmt) r.clear)
          [{ at' := .virt va, last := l - 1, dest := true }, { at' := .virt va, last := l - 1, dest := false }]
/-- CPYX (R251): its step. -/
def execCpyx (w : WordE) (s : State) : Out State := runJob (jobCpyx w) s

/-- SIGNAL (R252). -/
def jobSignal (w : WordE) : Job :=
  eJob 0x34 w [w.x, w.y] (fun v => cpChecks v w ++ eaChecks v w.x 47 ++
      [eaVirtual v w.x 47, unusedField w.z 31, c14 (cpArv w) 10, c14 (decide (2 ≤ cpVar w)) 10,
       c14 (decide (w.sco ≠ 3 ∧ w.sco ≠ 4)) 3]) fun v ex =>
    issueCopy v 0x34 w ex (if (eaOf v w.x).base % 8 ≠ 0 then 5 else 0) []
      [{ at' := eaOf v w.x, last := 7, dest := true }]
/-- SIGNAL (R252): its step. -/
def execSignal (w : WordE) (s : State) : Out State := runJob (jobSignal w) s

/-! ## The engine -/

/-- The destination address of an operation. -/
def opDst (o : CopyOp) : EAddr := (engAddr (hallOfCore o.core) o.x).getD (.virt 0)

/-- The source address of an operation. -/
def opSrc (o : CopyOp) : EAddr := (engAddr (hallOfCore o.core) o.y).getD (.virt 0)

/-- The destination shape of an operation. -/
def opShape (o : CopyOp) : Shape := dstShape o.opc (cpVar o.word) o.sh0 o.sh1

/-- Bytes of a unit: lines of 128, blocks of 256 under CPYX (R246, R251). -/
def unitSize (o : CopyOp) : Nat := if o.opc = 0x33 then 256 else 128

/-- The offset, from the destination address, at which the operation goes on: its next byte not landed. -/
def opNext (o : CopyOp) : Option Nat := (opShape o).next o.unit

/-- The offsets of the destination bytes in the unit that holds an offset. -/
def unitBytes (o : CopyOp) (off : Nat) : List Nat :=
  let b := (opDst o).base
  let lo := (b + off) / unitSize o * unitSize o
  (List.range (unitSize o)).filterMap fun i =>
    if b ≤ lo + i ∧ (opShape o).holds (lo + i - b) then some (lo + i - b) else none

/-- Where the next unit begins, as an offset. -/
def unitEnd (o : CopyOp) (off : Nat) : Nat := ((opDst o).base + off) / unitSize o * unitSize o + unitSize o - (opDst o).base

/-- Who makes an operation's accesses. -/
def opAgent (o : CopyOp) : Agent := copyAgent (hallOfCore o.core) o.priv

/-- The source bytes of a CPY's unit, read just before it is written (R246), each with its poison. -/
def copyBytes (o : CopyOp) : List Nat → Device → Except MFault (List (Nat × Byte) × List Nat × Device)
  | [], d => .ok ([], [], d)
  | x :: t, d =>
    match engByte d o.ctx (opAgent o) ((opSrc o).plus (copySource (cpVar o.word) o.sh0 o.sh1 x)) with
    | .error f => .error f
    | .ok (b, p, d1) =>
      match copyBytes o t d1 with
      | .error f => .error f
      | .ok (r, ps, d2) => .ok ((x, b) :: r, if p then x :: ps else ps, d2)

/-- Runs of bytes written to an operation's destination. -/
def putRuns (o : CopyOp) : List (Nat × List Byte) → Device → Except MFault Device
  | [], d => .ok d
  | (x, bs) :: t, d =>
    match engPut d o.ctx o.ctx (opAgent o) ((opDst o).plus x) bs with
    | .error f => .error f
    | .ok d1 => putRuns o t d1

/-- What a unit comes to: the device, its flags and whether poison travelled, or the fault that stops the operation. -/
abbrev UnitRes := Except MFault (Device × BitVec 7 × Bool)

/-- A unit of CPY (R248, R411). -/
def landCopy (o : CopyOp) (xs : List Nat) (d : Device) : UnitRes :=
  match copyBytes o xs d with
  | .error f => .error f
  | .ok (bs, ps, d1) =>
    match putRuns o (runsOf bs) d1 with
    | .error f => .error f
    | .ok d2 => .ok (ps.foldl (fun d x => engPoison d o.ctx ((opDst o).plus x)) d2, 0, decide (ps ≠ []))

/-- A unit of CPYF (R250). -/
def landFill (o : CopyOp) (xs : List Nat) (d : Device) : UnitRes :=
  let w := 2 ^ cpVar o.word
  let byte (x : Nat) : Byte :=
    let i := x - (opShape o).piece x * (opShape o).pitch
    BitVec.ofNat 8 (field o.y (8 * (i % w)) 8)
  match putRuns o (runsOf (xs.map fun x => (x, byte x))) d with
  | .error f => .error f
  | .ok d1 => .ok (d1, 0, false)

/-- The rows of a CPYR that add into the element at an offset, in row order (R249). -/
def rowsAt (o : CopyOp) (off : Nat) : List Nat :=
  let s := opShape o
  (List.range s.count).filter fun r => decide (r * s.pitch ≤ off) && decide (off < r * s.pitch + s.len)

/-- The source elements of a CPYR's unit, read before the unit is written (R246): for each a destination offset, the bytes
and whether they are poisoned. The list names destination offsets with the row that adds there. -/
def reduceSources (o : CopyOp) : List (Nat × Nat) → Device → Except MFault (List (Nat × List Byte × Bool) × Device)
  | [], d => .ok ([], d)
  | (off, r) :: t, d =>
    let z := reduceSizes (cpVar o.word)
    let k := (off - r * (opShape o).pitch) / z.2
    match engBytes o.ctx (opAgent o) ((opSrc o).plus (r * shSp o.sh1 + k * z.1)) z.1 d with
    | .error f => .error f
    | .ok (sb, p, d1) =>
      match reduceSources o t d1 with
      | .error f => .error f
      | .ok (ss, d2) => .ok ((off, sb, p) :: ss, d2)

/-- Source elements added into their destination elements one after another (R249). -/
def addElems (o : CopyOp) : List (Nat × List Byte × Bool) → Device → UnitRes
  | [], d => .ok (d, 0, false)
  | (off, sb, p) :: t, d =>
    let v := cpVar o.word
    let df := if v = 2 then bf16 else fp32
    let sf := if v = 0 then fp32 else bf16
    let n := (reduceSizes v).2
    let dst := (opDst o).plus off
    match engBytes o.ctx (opAgent o) dst n d with
    | .error f => .error f
    | .ok (db, q, d1) =>
      let x := addF df .rne (decodeF df (leNat db)) (decodeF sf (leNat sb))
      match engPut d1 o.ctx o.ctx (opAgent o) dst (leBytes n (encodeF df x.1)) with
      | .error f => .error f
      | .ok d2 =>
        match addElems o t (if p || q then engPoison d2 o.ctx dst else d2) with
        | .error f => .error f
        | .ok (d3, fl, b) => .ok (d3, x.2 ||| fl, b || p || q)

/-- A unit of CPYR (R249): its sources are read, then its elements are updated. -/
def landReduce (o : CopyOp) (xs : List Nat) (d : Device) : UnitRes :=
  let at' := (xs.filter fun x => decide (x % (reduceSizes (cpVar o.word)).2 = 0)).flatMap fun x =>
    (rowsAt o x).map fun r => (x, r)
  match reduceSources o at' d with
  | .error f => .error f
  | .ok (ss, d1) => addElems o ss d1

/-- What an operation's access to virtual memory needs. -/
def opNeed (o : CopyOp) (w : Bool) : Need :=
  { rd := !w, w := w, x := false, safe := (opAgent o).safe, hall := (opAgent o).hall }

/-- A block of CPYX (R251): one that is not raw is decoded and written raw with its sidecar byte 0x0F, one change at its
slice; any other is only read. Units expanded from poisoned bytes are poisoned (R411). -/
def landExpand (o : CopyOp) (off : Nat) (d : Device) : UnitRes :=
  let va := (opDst o).base + off
  match engineParts o.ctx (opNeed o false) o.priv true .plain [(va, 256)] d with
  | .error f => .error f
  | .ok ([], d1) => .ok (d1, 0, false)
  | .ok (p :: _, d1) =>
    if p.te.kind = 0 then .ok (d1, 0, false)
    else
      match blockRead d1 (opAgent o).hall o.ctx p.te (.aware o.clear) va with
      | .error f => .error f
      | .ok (sp, bs, bad) =>
        if memGet d1.st.mem sp = 0x0F then .ok (d1, 0, decide (bad ≠ []))
        else
          match engineParts o.ctx (opNeed o true) o.priv true (.aware o.clear) [(va, 256)] d1 with
          | .error f => .error f
          | .ok (_, d2) =>
            .ok (markUnits (memWrite (memWrite d2 o.ctx p.pa bs) o.ctx sp [0x0F]) p.pa bad, 0, decide (bad ≠ []))

/-- One unit of an operation (R246). -/
def landUnit (o : CopyOp) (off : Nat) (d : Device) : UnitRes :=
  if o.opc = 0x30 then landCopy o (unitBytes o off) d
  else if o.opc = 0x31 then landReduce o (unitBytes o off) d
  else if o.opc = 0x32 then landFill o (unitBytes o off) d
  else landExpand o off d

/-- The operation at the head of a queue changed. -/
def modHead (d : Device) (h q : Nat) (f : CopyOp → CopyOp) : Device :=
  modHall d h fun k => { k with cq := tblSet k.cq q (match cqOf k q with | [] => [] | o :: t => f o :: t) }

/-- The head of a queue leaves it. -/
def dropHead (d : Device) (h q : Nat) : Device :=
  modHall d h fun k => { k with cq := tblSet k.cq q ((cqOf k q).drop 1) }

/-- A raise of an operation's arrival word (R247, R406): its state afterwards. A lost raise orphans the token. -/
def opRaise (d : Device) (h q : Nat) (o : CopyOp) (n : Nat) : Device × CopyOp :=
  match o.arv, tblFind d.blocks o.block with
  | some a, some b =>
    match engRaise d (.copyQueue h q) b o.core o.priv a n o.flags o.estat with
    | .done d1 => (d1, { o with owed := 0 })
    | .parked va d1 => (d1, { o with parked := some va })
    | .lost d1 =>
      (orphanOf d1 o.core o.slot o.block (eTok o.word),
        { o with owed := 0, arv := none, word := { o.word with te := false } })
  | _, _ => (d, { o with owed := 0 })

/-- Whether an operation's arrival word is in events mode. -/
def opEvents (d : Device) (o : CopyOp) : Bool :=
  match o.arv, tblFind d.blocks o.block with
  | some a, some b => arEvents d b o.core o.priv a
  | _, _ => false

/-- The raise owed for units landed, in bytes mode and not for the last unit (R247). -/
def raiseOwed (d : Device) (h q : Nat) (o : CopyOp) : Device :=
  if o.owed = 0 ∨ o.arv.isNone ∨ opEvents d o then d
  else let r := opRaise d h q o o.owed; modHead r.1 h q fun _ => r.2

/-- An operation that stops at a fault (Table 19.3, R406): its locks go, its token is orphaned, its record is written,
and its fault raise, for the bytes not landed, is left to its completion. -/
def stopCopy (d : Device) (h q : Nat) (o : CopyOp) (f : MFault) : Device :=
  match tblFind d.blocks o.block with
  | none => d
  | some b =>
    let s := opShape o
    let d1 := modHall d h (unlockOp o.id)
    let d2 := orphanOf d1 o.core o.slot o.block (eTok o.word)
    let d3 := faultRecord d2 (.copyQueue h q) o.ctx f.cause false 0 (engInfo f) (blockWhere b)
    modHead d3 h q fun o =>
      { o with finished := true, owed := o.owed + (s.below (s.last + 1) - s.below o.unit)
               estat := o.estat ||| estatOf f.cause, word := { o.word with te := false } }

/-- A fault of the unit in hand: parked, or the operation stops. -/
def faultCopy (d : Device) (h q : Nat) (o : CopyOp) (f : MFault) : Device :=
  match tblFind d.blocks o.block with
  | none => d
  | some b =>
    if engParks d o.ctx f then
      modHead (parkEngine d (.copyQueue h q) o.ctx f (blockWhere b)) h q fun o => { o with parked := some (f.addr.setWidth 48) }
    else stopCopy d h q o f

/-- A unit of the operation at the head of a queue lands, with its raise unless it is the last (R246, R247). -/
def unitLand (d : Device) (h q : Nat) (o : CopyOp) (off : Nat) : Device :=
  match landUnit o off d with
  | .error f => faultCopy (walkFailed o.ctx f d) h q o f
  | .ok (d1, fl, pois) =>
    let n := if o.opc = 0x33 then 256 else (unitBytes o off).length
    let o1 := { o with unit := unitEnd o off, owed := o.owed + n, flags := o.flags ||| fl
                       estat := if pois then o.estat ||| esPois else o.estat, moved := d.fcycle }
    match opNext o1 with
    | some _ => raiseOwed (modHead d1 h q fun _ => o1) h q o1
    | none => modHall (modHead d1 h q fun _ => { o1 with finished := true }) h (unlockOp o.id)

/-- The bytes that a copy still has to land. -/
def copyLeft (o : CopyOp) : Nat := if o.opc = 0x34 then 0 else (opShape o).count * (opShape o).len - (opShape o).below o.unit

/-- Whether an operation is not finished when its block is saved, but recorded (Table 2.4, R253): it has not begun, is a
SIGNAL not performed, has more than 64 KiB left, or is parked at a fault. -/
def copyStops (o : CopyOp) : Bool :=
  o.parked.isSome || (!o.finished && (!o.begun || decide (o.opc = 0x34) || decide (65536 < copyLeft o)))

/-- Whether an operation goes no further because its block is being saved. -/
def copyHeld (d : Device) (o : CopyOp) : Bool := copyStops o && stopping d o.ctx o.block

/-- COPY_OP_START (R246): the head of a queue begins; not while records of its context remain, whose copies may come before it
(R52, R253). -/
def copyStart (d : Device) (h q : Nat) : Device :=
  match cqOf (hallOf d h) q with
  | [] => d
  | o :: _ => if o.begun || copyHeld d o || awaitsRecords d o.core o.ctx then d else modHead d h q fun o => { o with begun := true, moved := d.fcycle }

/-- COPY_OP_START (R246). -/
def execCopyOpStart (hall queue : Nat) (s : State) : Out State := runDevice (onHall hall fun d => copyStart d hall queue) s

/-- COPY_UNIT_LAND (R246, R247): the next unit of a queue's head, after the raise that a parked raise left owed. -/
def copyLand (d : Device) (h q : Nat) : Device :=
  match cqOf (hallOf d h) q with
  | [] => d
  | o :: _ =>
    if !o.begun || o.finished || o.parked.isSome || decide (o.opc = 0x34) || copyHeld d o then d
    else
      let d1 := raiseOwed d h q o
      match cqOf (hallOf d1 h) q with
      | [] => d1
      | o1 :: _ =>
        if o1.parked.isSome then d1
        else match opNext o1 with | some off => unitLand d1 h q o1 off | none => d1

/-- COPY_UNIT_LAND (R246). -/
def execCopyUnitLand (hall queue : Nat) (s : State) : Out State := runDevice (onHall hall fun d => copyLand d hall queue) s

/-- COPY_OP_COMPLETE (R246, R247): the last raise, then the token. -/
def copyComplete (d : Device) (h q : Nat) : Device :=
  match cqOf (hallOf d h) q with
  | [] => d
  | o :: _ =>
    if !o.finished || o.parked.isSome then d
    else
      let r := if o.arv.isSome then opRaise d h q o o.owed else (d, o)
      if r.2.parked.isSome then modHead r.1 h q fun _ => r.2
      else idleOf (dropHead r.1 h q) o.core o.slot o.block (eTok r.2.word) r.2.flags

/-- COPY_OP_COMPLETE (R246). -/
def execCopyOpComplete (hall queue : Nat) (s : State) : Out State :=
  runDevice (onHall hall fun d => copyComplete d hall queue) s

/-- SIGNAL_PERFORM (R252): the write of the SIGNAL at the head of a queue. -/
def signalPerform (d : Device) (h q : Nat) : Device :=
  match cqOf (hallOf d h) q with
  | [] => d
  | o :: _ =>
    if o.opc ≠ 0x34 ∨ !o.begun ∨ o.finished ∨ o.parked.isSome ∨ copyHeld d o then d
    else
      let old : Except MFault (W64 × Device) :=
        if cpVar o.word = 1 then
          match engBytes o.ctx (opAgent o) (opDst o) 8 d with
          | .error f => .error f
          | .ok (bs, _, d1) => .ok (leW64 bs, d1)
        else .ok (0, d)
      match old with
      | .error f => faultCopy (walkFailed o.ctx f d) h q o f
      | .ok (x, d1) =>
        let v := x + o.y
        match engPut d1 o.ctx o.ctx (opAgent o) (opDst o) (leBytes 8 v.toNat) with
        | .error f => faultCopy (walkFailed o.ctx f d) h q o f
        | .ok d2 =>
          let d3 := modHall (modHead d2 h q fun o => { o with finished := true, unit := 8 }) h (unlockOp o.id)
          emit d3 (.copyQueue h q) (.completion v)

/-- SIGNAL_PERFORM (R252). -/
def execSignalPerform (hall queue : Nat) (s : State) : Out State :=
  runDevice (onHall hall fun d => signalPerform d hall queue) s

end Sys2Proof.Machine
end

