-- ==== Sys2Proof/Machine/MatMath.lean ====
section
/-! DEFINITION. The arithmetic of the matrix engine: operand tiles and their scales (R269, R270), patterns and metadata
(R274, R276), passes over accumulator tiles (R117, R283), pruning and decomposition (R278, R280). -/

namespace Sys2Proof.Machine

/-- Width in bits of an element type of Table 7.4 that a tile may hold. -/
def eltWidth (t : Nat) : Nat := if t ≤ 10 then 16 else if t = 13 ∨ t = 14 then 4 else 8

/-- Whether an element type reads twin scales (R105). -/
def eltTwin (t : Nat) : Bool := decide (t = 14) || decide (t = 15)

/-- The format of an element type without twin scales. -/
def eltFmt (t : Nat) : Fmt :=
  if t = 9 then fp16 else if t = 10 then bf16 else if t = 11 then e4m3 else if t = 12 then e5m2 else e2m1

/-- The value of an element code with its scales (R104, R105). -/
def eltValue (t : Nat) (mx : Bool) (s0 s1 : Byte) (code : Nat) : FVal :=
  if eltTwin t then tsValue (decide (t = 15)) code s0 s1
  else if mx then (mulF (decodeF (eltFmt t) code) (e8m0 s0)).1
  else decodeF (eltFmt t) code

/-- Bytes that hold `n` elements of `w` bits. -/
def rowSpan (n w : Nat) : Nat := ceilDiv (n * w) 8

/-- The pitch of packed rows (R269). -/
def packedPitch (n w : Nat) : Nat := ceilDiv (n * w) 128 * 16

/-- Element `k` of a row's bytes (R269). -/
def codeAt (w : Nat) (bs : List Byte) (k : Nat) : Nat :=
  if w = 4 then (bs.getD (k / 2) 0).toNat / 16 ^ (k % 2) % 16 else leNat ((bs.drop (k * (w / 8))).take (w / 8))

/-- The bytes of a row of element codes; a nibble that no element fills keeps the old byte's. -/
def packRow (w : Nat) (codes : List Nat) (old : List Byte) : List Byte :=
  if w = 4 then
    (List.range (rowSpan codes.length 4)).map fun b =>
      let hi := match codes[2 * b + 1]? with | some c => c | none => (old.getD b 0).toNat / 16
      BitVec.ofNat 8 (codes.getD (2 * b) 0 + 16 * hi)
  else codes.flatMap fun c => leBytes (w / 8) c

/-- One operand of a pass: its place and pitch, element type, whether it carries a scale per block, the block length and
its scale array (R269, R270). -/
structure TileSide where
  at' : EAddr
  pitch : Nat
  ty : Nat
  mx : Bool
  len : Nat
  sc : EAddr

/-- Scale bytes of one block of a side. -/
def TileSide.per (s : TileSide) : Nat := if eltTwin s.ty then 2 else if s.mx then 1 else 0

/-- A row as read: element codes, scale bytes, and whether any of its bytes was poisoned. -/
structure TileRow where
  codes : List Nat
  scales : List Byte
  bad : Bool

/-- The value of element `k` of the dense row with a code. -/
def TileSide.value (s : TileSide) (scales : List Byte) (k code : Nat) : FVal :=
  let b := s.per * (k / s.len)
  eltValue s.ty s.mx (scales.getD b 0) (scales.getD (b + 1) 0) code

/-- Row `r` of a side with `n` elements stored, of `k` dense ones. -/
def readRow (ctx : Nat) (g : Agent) (s : TileSide) (n k r : Nat) (d : Device) : Except MFault (TileRow × Device) :=
  let q := ceilDiv k s.len * s.per
  match engBytes ctx g (s.at'.plus (r * s.pitch)) (rowSpan n (eltWidth s.ty)) d with
  | .error f => .error f
  | .ok (bs, p, d1) =>
    match engBytes ctx g (s.sc.plus (r * q)) q d1 with
    | .error f => .error f
    | .ok (sc, p2, d2) =>
      .ok ({ codes := (List.range n).map (codeAt (eltWidth s.ty) bs), scales := sc, bad := p || p2 }, d2)

/-- The rows of a side from row `r` on. -/
def readRows (ctx : Nat) (g : Agent) (s : TileSide) (n k : Nat) : Nat → Nat → Device → Except MFault (List TileRow × Device)
  | 0, _, d => .ok ([], d)
  | rows + 1, r, d =>
    match readRow ctx g s n k r d with
    | .error f => .error f
    | .ok (x, d1) =>
      match readRows ctx g s n k rows (r + 1) d1 with
      | .error f => .error f
      | .ok (xs, d2) => .ok (x :: xs, d2)

/-- A row's values in dense order. -/
def TileSide.values (s : TileSide) (r : TileRow) : List FVal :=
  ((List.range r.codes.length).zip r.codes).map fun e => s.value r.scales e.1 e.2

/-! ## Patterns and metadata -/

/-- N of a pattern (R276). -/
def patN (p : Nat) : Nat := if p = 0 then 1 else if p = 3 then 4 else 2

/-- M of a pattern (R276). -/
def patM (p : Nat) : Nat := if p ≤ 1 then 4 else 8

/-- The stored value, of `n` from number `i` on, that each position of a group takes (R276). -/
def placeGroup (n i : Nat) : List Bool → Nat → List (Option Nat)
  | [], _ => []
  | b :: t, c =>
    if b && decide (c < n) then some (i + c) :: placeGroup n i t (c + 1) else none :: placeGroup n i t c

/-- Pieces of a list of one length. -/
def groupsOf {β : Type} (m : Nat) (l : List β) : List (List β) :=
  (List.range (l.length / m)).map fun g => (l.drop (g * m)).take m

/-- The stored value of each dense position of a row (R276). -/
def densePlaces (pat : Nat) (bits : List Bool) : List (Option Nat) :=
  let gs := groupsOf (patM pat) bits
  ((List.range gs.length).zip gs).flatMap fun e => placeGroup (patN pat) (e.1 * patN pat) e.2 0

/-- The first `k` metadata bits of a row (R274). -/
def metaBits (k : Nat) (bs : List Byte) : List Bool := (List.range k).map fun i => (bs.getD (i / 8) 0).getLsbD (i % 8)

/-- The 48 bytes of a metadata row (R274). -/
def metaRow (bits : List Bool) : List Byte :=
  (List.range 48).map fun b =>
    BitVec.ofNat 8 ((List.range 8).foldl (fun x i => x + nat1 (bits.getD (8 * b + i) false) * 2 ^ i) 0)

/-- A structured row's values by dense position; a position without a stored value has none (R276). -/
def TileSide.spread (s : TileSide) (pat : Nat) (bits : List Bool) (r : TileRow) : List (Option FVal) :=
  let ps := densePlaces pat bits
  ((List.range ps.length).zip ps).map fun e => e.2.map fun i => s.value r.scales e.1 (r.codes.getD i 0)

/-- Rank of a magnitude: a number below an infinity below a NaN (R278). -/
def magRank : FVal → Nat × Rat
  | .nan _ => (2, 0)
  | .inf _ => (1, 0)
  | .num _ x => (0, ratAbs x)

/-- A smaller magnitude than another (R278). -/
def magLt (a b : FVal) : Bool :=
  let x := magRank a
  let y := magRank b
  decide (x.1 < y.1) || (decide (x.1 = y.1) && decide (x.2 < y.2))

/-- The positions of a group with the `n` greatest magnitudes, ties to the lower (R278, R280). -/
def keepGroup (n : Nat) (g : List FVal) : List Bool :=
  let idx := (List.range g.length).zip g
  let top := ((sortBy (fun x y => magLt y.2 x.2 || (!magLt x.2 y.2 && decide (x.1 < y.1))) idx).take n).map (·.1)
  (List.range g.length).map fun i => top.contains i

/-- The positions of a row that a pattern keeps. -/
def keepRow (pat : Nat) (vs : List FVal) : List Bool := (groupsOf (patM pat) vs).flatMap (keepGroup (patN pat))

/-- The elements of a list at positions kept. -/
def kept {β : Type} (bits : List Bool) (l : List β) : List β := ((bits.zip l).filter fun e => e.1).map (·.2)

/-! ## Passes -/

/-- The value of an accumulator element. -/
def accVal (x : A80) : FVal := decodeF a80 x.toNat

/-- The accumulator element of a value. -/
def accBits (v : FVal) : A80 := BitVec.ofNat 80 (encodeF a80 v)

/-- The places of a tile in row-major order. -/
def tileIdx : List (Nat × Nat) := (List.range 64).flatMap fun i => (List.range 128).map fun j => (i, j)

/-- Every element of a tile changed, each from its old value and its poison, with the flags of all. -/
def mapTile (hall tile : Nat) (f : Nat → Nat → A80 → Bool → A80 × Bool × Flags) (d : Device) : Device × Flags :=
  tileIdx.foldl (fun acc e =>
    let r := f e.1 e.2 (accGet acc.1 hall tile e.1 e.2) (accPoisoned acc.1 hall tile e.1 e.2)
    (accSet acc.1 hall tile e.1 e.2 r.1 r.2.1, acc.2 ||| r.2.2)) (d, 0)

/-- The products of one output element by dense position; a pruned position contributes +0 (R117). -/
def passProducts (a : List (Option FVal)) (b : List FVal) : List (FVal × Flags) :=
  (a.zip b).map fun e => match e.1 with | some x => mulF x e.2 | none => (.num false 0, 0)

/-- A pass over a tile (R117): rows of A and columns of B with their poison. -/
def passTile (hall tile k : Nat) (as : List (List (Option FVal) × Bool)) (bs : List (List FVal × Bool)) (fresh : Bool)
    (d : Device) : Device × Flags :=
  mapTile hall tile (fun i j old bad =>
    let a := as.getD i ([], false)
    let b := bs.getD j ([], false)
    let r := accumulate (ceilDiv k 32) (passProducts a.1 b.1) (if fresh then none else some (accVal old))
    (accBits r.1, a.2 || b.2 || (bad && !fresh), r.2)) d

/-- One residual entry added to its row (R283). -/
def addResidual (hall tile i k : Nat) (v : FVal) (bad : Bool) (bs : List (List FVal × Bool)) (d : Device) : Device × Flags :=
  (List.range 128).foldl (fun acc j =>
    let b := bs.getD j ([], false)
    let old := accGet acc.1 hall tile i j
    let p := mulF v (b.1.getD k (.num false 0))
    let s := sumF .rne [accVal old, p.1]
    let r := roundF a80 .rne s.1
    (accSet acc.1 hall tile i j (accBits r.1) (bad || b.2 || accPoisoned acc.1 hall tile i j),
      acc.2 ||| s.2 ||| r.2 ||| flagIf (isNan p.1) flInvalid ||| sigFlag (accVal old))) (d, 0)

/-! ## Decomposition -/

/-- An element as MDECOMP holds it: its bits and its value. -/
abbrev DElem := Nat × FVal

/-- Whether an element counts as nonzero (R280). -/
def dNonzero (e : DElem) : Bool := match e.2 with | .num _ x => decide (x ≠ 0) | _ => true

/-- One term of a decomposition: metadata rows, stored codes by row, and what remains (R280). -/
def decompTerm (pat : Nat) (rem : List (List DElem)) : List (List Bool) × List (List Nat) × List (List DElem) :=
  let bits := rem.map fun r => keepRow pat (r.map (·.2))
  let both := bits.zip rem
  (bits, both.map fun e => (kept e.1 e.2).map (·.1),
    both.map fun e => (e.1.zip e.2).map fun x => if x.1 then (0, .num false 0) else x.2)

/-- The terms of a decomposition, at most so many, and the remainder (R280). -/
def decompTerms (pat rcap : Nat) : Nat → List (List DElem) → List (List (List Bool) × List (List Nat)) × List (List DElem)
  | 0, rem => ([], rem)
  | fuel + 1, rem =>
    if (rem.flatMap fun r => r.filter dNonzero).length ≤ rcap then ([], rem)
    else
      let t := decompTerm pat rem
      let rest := decompTerms pat rcap fuel t.2.2
      ((t.1, t.2.1) :: rest.1, rest.2)

/-- Nonzero remaining elements with row and position, ascending (R280). -/
def residualList (rem : List (List DElem)) : List (Nat × Nat × Nat) :=
  ((List.range rem.length).zip rem).flatMap fun r =>
    (((List.range r.2.length).zip r.2).filter fun e => dNonzero e.2).map fun e => (r.1, e.1, e.2.1)

/-- The exact absolute sum of elements; none where one is not finite (R280). -/
def absSum (es : List DElem) : Option Rat :=
  if es.any fun e => match e.2 with | .num _ _ => false | _ => true then none
  else some (es.foldl (fun x e => x + ratAbs (fRat e.2)) 0)

/-- DMASS and DROPPED of a decomposition (R280). -/
def decompMass (tile : List DElem) (rem : List DElem) (drop over' : Bool) (lb : Nat) : Nat × Bool :=
  match absSum tile, absSum rem with
  | some sa, some rs =>
    (if sa = 0 then 0 else min (2 ^ 32 - 1) ((rs * 65536 / sa).ceil.toNat),
      drop && !over' && decide (rs * 65536 ≤ (lb : Rat) * sa))
  | _, _ => (2 ^ 32 - 1, false)

end Sys2Proof.Machine
end

