-- ==== Sys2Proof/Machine/Matrix.lean ====
section
/-! DEFINITION. The words that post entries to a hall's reservation table, FMTD, and what an entry computes
(R265 to R283). -/

namespace Sys2Proof.Machine

/-! ## Format descriptors -/

/-- K of a descriptor (R270). -/
def descK (d1 : W64) : Nat := field d1 54 10 + 1

/-- Whether an element type with its scale mark is admitted (R271). -/
def eltBad (t : Nat) (mx : Bool) (k : Nat) : Bool :=
  decide (t < 9) || (mx && !(decide (t = 11) || decide (t = 13))) || decide (3072 < k * eltWidth t)

/-- Whether K is refused under a pattern (R271). -/
def patternBad (pat k : Nat) : Bool := decide (k % patM pat ≠ 0) || decide (384 < k)

/-- Whether a descriptor is refused, or has reserved bits set (R270, R271); under MDECOMP only A's fields are read. -/
def descBad (onlyA : Bool) (d0 d1 : W64) : Bool :=
  let fa := field d0 60 4
  let fb := field d0 56 4
  decide (field d0 48 4 ≠ 0) || decide (field d1 48 3 ≠ 0) || eltBad fa (d0.getLsbD 55) (descK d1) ||
    (!onlyA && (eltBad fb (d1.getLsbD 53) (descK d1) || ((decide (fa ≤ 10) || decide (fb ≤ 10)) && decide (fa ≠ fb))))

/-- The descriptor that FMTD writes (R272). -/
def fmtdWords (fa fb : Nat) (a b c : W64) : W64 × W64 :=
  (BitVec.ofNat 64 (fa * 2 ^ 60 + fb * 2 ^ 56 + field c 17 1 * 2 ^ 55 + field c 19 1 * 2 ^ 54 + field a 63 1 * 2 ^ 53 +
      field c 16 1 * 2 ^ 52 + field a 0 48),
   BitVec.ofNat 64 (field c 0 10 * 2 ^ 54 + field c 18 1 * 2 ^ 53 + field c 20 1 * 2 ^ 52 + field b 63 1 * 2 ^ 51 +
      field b 0 48))

/-- FMTD (R272). -/
def jobFmtd (w : WordA) : Job :=
  let fa := w.sub.toNat % 16
  let fb := w.sub.toNat / 16
  { code := w.toBits 0x01, g := w.hd.g, lanes := .once, u := w.u
    refs := refsOf [w.d, w.a, w.b, w.c] ++ (match w.d with | .s n => [.s (n + 1)] | _ => [])
    legal := fun v =>
      let f := fmtdWords fa fb (src64 v w.a) (src64 v w.b) (src64 v w.c)
      let ok := isS w.d && isS w.a && isS w.b && (isS w.c || (match w.c with | .pos _ => true | .neg _ => true | _ => false))
      [sregCheck w.d 47, c14 (decide (w.d = .s 63)) 47, sregCheck w.a 39, sregCheck w.b 31,
       c13 (!(isS w.c || (match w.c with | .pos _ => true | .neg _ => true | _ => false))) 23,
       c14 (ok && decide (field (src64 v w.c) 21 43 + field (src64 v w.c) 10 6 ≠ 0)) 23,
       c14 (ok && descBad false f.1 f.2) 15, c14 (decide (w.neg ≠ 0)) 6, c14 (decide (w.abs ≠ 0)) 3,
       c14 w.low 0, c14 (decide (w.hd.md ≠ 0)) 51]
    act := fun v _ =>
      let f := fmtdWords fa fb (src64 v w.a) (src64 v w.b) (src64 v w.c)
      .done (v.put v.d fun x => sput (regNo w.d + 1) f.2 (sput (regNo w.d) f.1 x)) .onward }
/-- FMTD (R272): its step. -/
def execFmtd (w : WordA) (s : State) : Out State := runJob (jobFmtd w) s

/-! ## Entries -/

/-- The pattern of SUB[3:2] (R276). -/
def xPat (w : WordX) : Nat := w.sub.toNat % 4

/-- The memory format code of SUB[4:2] (R277). -/
def xFmt (w : WordX) : Nat := w.sub.toNat % 8

/-- The bytes of a memory format (R277). -/
def memSize (c : Nat) : Nat := if c = 0 ∨ c = 6 then 4 else if c = 1 ∨ c = 2 then 2 else if c = 3 then 10 else 1

/-- The floating-point format of a memory format code (R277). -/
def memFmt (c : Nat) : Fmt := if c = 0 then fp32 else if c = 1 then bf16 else if c = 2 then fp16 else if c = 4 then e4m3 else e5m2

/-- Where the operand of an operand register lies (R269). -/
def opBase (core : Nat) (far : Bool) (r : W64) : EAddr := if far then .virt (field r 0 48) else .spad core (field r 0 18)

/-- The pitch of an operand register, or that of packed rows (R269). -/
def opPitch (r : W64) (packed : Nat) : Nat := if field r 48 16 = 0 then packed else field r 48 16

/-- A scale array (R270). -/
def scaleBase (core : Nat) (spad : Bool) (r : W64) : EAddr := if spad then .spad core (field r 0 48) else .virt (field r 0 48)

/-- K of an entry. -/
def eK (e : MatEntry) : Nat := descK e.desc1

/-- Stored values per row of A under a pattern (R276). -/
def eStored (e : MatEntry) (pat : Nat) : Nat := eK e / patM pat * patN pat

/-- Whether an entry overwrites its tile (R270). -/
def eOvw (e : MatEntry) : Bool := e.desc0.getLsbD 52

/-- Side A of an entry at a place and pitch (R269, R270). -/
def sideAt (e : MatEntry) (a : EAddr) (pitch : Nat) : TileSide :=
  { at' := a, pitch := pitch, ty := field e.desc0 60 4, mx := e.desc0.getLsbD 55
    len := if e.desc0.getLsbD 54 then 16 else 32, sc := scaleBase e.core (e.desc0.getLsbD 53) e.desc0 }

/-- Side A of an entry whose rows hold `n` elements. -/
def sideA (e : MatEntry) (n : Nat) : TileSide :=
  sideAt e (opBase e.core (e.word.src.getLsbD 0) e.opA) (opPitch e.opA (packedPitch n (eltWidth (field e.desc0 60 4))))

/-- Side B of an entry. -/
def sideB (e : MatEntry) : TileSide :=
  { at' := opBase e.core (e.word.src.getLsbD 1) e.opB
    pitch := opPitch e.opB (packedPitch (eK e) (eltWidth (field e.desc0 56 4)))
    ty := field e.desc0 56 4, mx := e.desc1.getLsbD 53, len := if e.desc1.getLsbD 52 then 16 else 32
    sc := scaleBase e.core (e.desc1.getLsbD 51) e.desc1 }

/-- The spans of a side that a pass reads: its rows and its scales. -/
def sideSpans (s : TileSide) (rows n k : Nat) : List Span :=
  let sc := rows * ceilDiv k s.len * s.per
  { at' := s.at', last := (rows - 1) * s.pitch + rowSpan n (eltWidth s.ty) - 1, dest := false } ::
    (if sc = 0 then [] else [{ at' := s.sc, last := sc - 1, dest := false }])

/-- The pitch of the stored values of a pruned or decomposed tile (R278). -/
def eVp (e : MatEntry) (pat : Nat) : Nat := packedPitch (eStored e pat) (eltWidth (field e.desc0 60 4))

/-- TMAX of MDECOMP (R279). -/
def dTmax (b : W64) : Nat := field b 45 2 + 1

/-- VOFF of a decomposition image with so many terms at most (R282). -/
def dVoff (tmax : Nat) : Nat := 0x500 + 0xC00 * tmax

/-- A word of the image header that MMAD read at issue (R283). -/
def hdrWord (e : MatEntry) (i : Nat) : W64 := e.image.getD i 0

/-- T of the header. -/
def hdrT (e : MatEntry) : Nat := field (hdrWord e 0) 9 3

/-- Terms that MMAD applies: at most four (R283). -/
def hdrTerms (e : MatEntry) : Nat := min 4 (hdrT e)

/-- PAT of the header. -/
def hdrPat (e : MatEntry) : Nat := field (hdrWord e 1) 10 2

/-- RU of the header. -/
def hdrRu (e : MatEntry) : Nat := field (hdrWord e 1) 0 9

/-- VP of the header. -/
def hdrVp (e : MatEntry) : Nat := field (hdrWord e 2) 0 16

/-- VOFF of the header. -/
def hdrVoff (e : MatEntry) : Nat := field (hdrWord e 2) 16 16

/-- Whether the header refuses the image for a block with `acct` tiles (R425, R271). -/
def hdrRefused (e : MatEntry) (acct : Nat) : Bool :=
  (hdrWord e 0).getLsbD 13 || decide (field (hdrWord e 1) 12 4 ≠ field e.desc0 60 4) ||
    decide (field (hdrWord e 1) 16 9 + 1 ≠ eK e) || decide (256 < hdrRu e) ||
    decide (0 < hdrT e ∧ acct < e.word.mt2.toNat + hdrT e) || patternBad (hdrPat e) (eK e)

/-- The ranges that an entry reads and writes outside its tiles and slots (R269, R270, R275, R277, R278, R282, R283). -/
def entrySpans (e : MatEntry) (acct : Nat) : List Span :=
  let far := e.word.src.getLsbD 0
  let a := opBase e.core far e.opA
  let k := eK e
  let rows := { at' := a, last := 63 * opPitch e.opA (128 * memSize (xFmt e.word)) + 128 * memSize (xFmt e.word) - 1,
                dest := decide (e.opc = 0x0A) : Span }
  if e.opc = 0x02 then sideSpans (sideA e k) 64 k k ++ sideSpans (sideB e) 128 k k
  else if e.opc = 0x03 then
    sideSpans (sideA e (eStored e (xPat e.word))) 64 (eStored e (xPat e.word)) k ++ sideSpans (sideB e) 128 k k
  else if e.opc = 0x04 then
    let n := if hdrRefused e acct then 0x500 else hdrVoff e + hdrT e * 64 * hdrVp e
    (if n = 0 then [] else [{ at' := a, last := n - 1, dest := false }]) ++
      ((sideSpans (sideAt e a 16) 64 1 k).drop 1 ++ sideSpans (sideB e) 128 k k)
  else if e.opc = 0x09 ∨ e.opc = 0x0A then [rows]
  else if e.opc = 0x0B then if e.word.sub.getLsbD 3 then [{ at' := a, last := 511, dest := false }] else []
  else if e.opc = 0x10 then [{ at' := a, last := 3071, dest := false }]
  else if e.opc = 0x11 then
    { at' := .spad e.core (field e.opB 0 18), last := 0xC00 + 64 * eVp e (xPat e.word) - 1, dest := true } ::
      sideSpans (sideA e k) 64 k k
  else if e.opc = 0x12 then
    { at' := .spad e.core (field e.opB 0 18),
      last := dVoff (dTmax e.opB) + dTmax e.opB * 64 * eVp e (xPat e.word) - 1, dest := true } :: sideSpans (sideA e k) 64 k k
  else []

/-- The physical tile of a block's tile name (R69). -/
def physTile (b : Block) (n : Nat) : Nat := field (b.mmap.setWidth 64) (4 * n) 4

/-- The tiles and metadata slots that an entry names, by physical number, slots from 16 on (R266, R283). -/
def entryNames (b : Block) (opc : BitVec 8) (w : WordX) : List Nat :=
  let t (n : Nat) := physTile b n
  if opc = 0x12 then []
  else if opc = 0x10 ∨ opc = 0x11 then [16 + t w.mt.toNat]
  else if opc = 0x03 then [t w.mt.toNat, 16 + t w.mt2.toNat]
  else if opc = 0x04 then
    t w.mt.toNat :: ((List.range 4).filter fun i => decide (w.mt2.toNat + i < b.acct)).map fun i => 16 + t (w.mt2.toNat + i)
  else [t w.mt.toNat]

/-! ## The words -/

/-- The token of an X word (R268). -/
def xTok (w : WordX) : Option (BitVec 4) := if w.cm = 1 ∨ w.cm = 3 then none else some w.tok

/-- Whether an X word raises an arrival word (R268). -/
def xArv (w : WordX) : Bool := decide (w.cm = 1 ∨ w.cm = 2)

/-- A tile or slot name in a field (R69). -/
def nameCheck (v : View) (n : BitVec 4) (pos : Nat) : Check := c14 (decide (v.blk.acct ≤ n.toNat)) pos

/-- The arrival operand of an X word: S(C + 2) (R268). -/
def xArvReg (v : View) (w : WordX) : W64 := src64 v (.s (regNo w.c + 2))

/-- The checks of CM, TOK and C (R268, R275). -/
def xCheck (v : View) (w : WordX) (desc : Bool) : List Check :=
  [c14 (decide (w.cm = 3)) 11, c14 (decide (w.cm = 1) && decide (w.tok ≠ 0)) 15,
   if desc || xArv w then sregCheck w.c 23 else unusedField w.c 23,
   c14 (isS w.c && ((xArv w && decide (61 < regNo w.c)) || (desc && decide (62 < regNo w.c)))) 23,
   c14 (xArv w && isS w.c && decide (regNo w.c ≤ 61) && decide (field (xArvReg v w) 0 3 ≠ 0)) 2]

/-- The check of an operand register: an s register whose fields R269 admits. -/
def xOperand (v : View) (op : Operand) (far pitch : Bool) (pos : Nat) : List Check :=
  let r := src64 v op
  [sregCheck op pos,
   c14 (isS op && (decide (field r 0 4 ≠ 0) || (pitch && decide (field r 48 4 ≠ 0)) || (!far && decide (field r 18 30 ≠ 0)))) pos]

/-- The check of a descriptor, with the pattern that K must suit (R271). -/
def xDesc (v : View) (w : WordX) (onlyA : Bool) (pat : Option Nat) : Check :=
  let d0 := src64 v w.c
  let d1 := src64 v (.s (regNo w.c + 1))
  c14 (isS w.c && decide (regNo w.c ≤ 62) &&
    (descBad onlyA d0 d1 || match pat with | some p => patternBad p (descK d1) | none => false)) 23

/-- MMAD's descriptor: K is at most 384 (R271). -/
def xDescK (v : View) (w : WordX) : Check :=
  c14 (isS w.c && decide (regNo w.c ≤ 62) && decide (384 < descK (src64 v (.s (regNo w.c + 1))))) 23

/-- The registers that an X word reads (R135, R268, R270). -/
def xRegs (w : WordX) (desc : Bool) : List Operand :=
  [w.a, w.b, w.c] ++ (if desc then [.s (regNo w.c + 1)] else []) ++ (if xArv w then [.s (regNo w.c + 2)] else [])

/-- Whether a SUB field's bits from one on, or MOD, are not zero. -/
def xSub (w : WordX) (bits : Nat) : Check := c14 (decide (2 ^ bits ≤ w.sub.toNat)) 9

/-- MOD is zero (R149). -/
def xMod (w : WordX) : Check := c14 (decide (w.hd.md ≠ 0)) 51

/-- MT2 is zero. -/
def xMt2 (w : WordX) : Check := c14 (decide (w.mt2 ≠ 0)) 43

/-- SRC bits that must be zero. -/
def xSrc (w : WordX) (mask : BitVec 2) : Check := c14 (decide (w.src &&& mask ≠ 0)) 1

/-- The entry that a word posts (R265). -/
def newEntry (v : View) (opc : BitVec 8) (w : WordX) (desc : Bool) (image : List W64) : MatEntry :=
  { id := v.d.nextId, core := v.core, slot := v.slot, block := v.w.block, ctx := v.w.ctx, priv := v.priv
    wop := if opc = 0x12 then some v.w.nextOp else none, prio := v.w.prio, opc := opc, word := w, opA := src64 v w.a
    opB := src64 v w.b, desc0 := if desc then src64 v w.c else 0
    desc1 := if desc then src64 v (.s (regNo w.c + 1)) else 0, arv := if xArv w then xArvReg v w else 0, image := image
    tiles := entryNames v.blk opc w, staging := none, age := (hallOf v.d v.hall).cycle, granted := false, order := 0, occEnd := 0
    done := false, failed := false, flags := 0, estat := 0, status := 0, parked := none
    fetching := false }

/-- Whether a matrix word finds no place: the table is full, a flushed bin waits for an entry, or the lock table has no
room (R132, R265). -/
def matFull (h : Hall) (spans : List Span) : Bool :=
  decide (32 ≤ h.mat.length) || (h.staging.any fun s => !s.posted) || !lockRoom h spans.length

/-- The range lock of a matrix entry's span. -/
def matLocks (v : View) (e : MatEntry) (spans : List Span) : List RangeLock := spans.map (spanLock v e.id none)

/-- A matrix word posts its entry (R265), or waits, or traps for its ranges (R224, R400). -/
def postEntry (v : View) (ex : Mask) (e : MatEntry) : Eff :=
  let spans := entrySpans e v.blk.acct
  if matFull (hallOf v.d v.hall) spans then .hold v.d
  else
    match orFault (firstFault (spanRange v) spans)
        (firstFault (spanBreach v fun l => decide (l.queue = none ∧ l.block = v.w.block)) spans) with
    | some f =>
      match trapOfFaults (some ex) [(v.lane0, f)] with
      | some t => .trap t
      | none => .hold v.d
    | none =>
      let d := modHall { v.d with nextId := v.d.nextId + 1 } v.hall fun h =>
        lockAll (matLocks v e spans) { h with mat := h.mat ++ [e] }
      .done (v.put d fun x =>
        let x1 := match xTok e.word with | some k => tokStart k x | none => x
        if e.opc = 0x12 then
          pushOp .decomp (windowOf (some e.word.hd.md)) [(.sreg (regNo e.word.b + 1), 0)] none 0 [] x1
        else x1) .onward

/-- A word of format X (R265). -/
def xJob (opc : BitVec 8) (w : WordX) (desc : Bool) (legal : View → List Check) (more : List Operand := []) : Job :=
  { code := w.toBits opc, g := w.hd.g, lanes := .once, refs := refsOf (xRegs w desc ++ more), tok := xTok w
    legal := fun v => xCheck v w desc ++ legal v
    act := fun v ex => postEntry v ex (newEntry v opc w desc []) }

/-- MMA (R273). -/
def jobMma (w : WordX) : Job :=
  xJob 0x02 w true fun v =>
    [nameCheck v w.mt 47, xMt2 w, xSub w 0, xMod w, xDesc v w false none] ++ xOperand v w.a (w.src.getLsbD 0) true 39 ++
      xOperand v w.b (w.src.getLsbD 1) true 31
/-- MMA (R273): its step. -/
def execMma (w : WordX) (s : State) : Out State := runJob (jobMma w) s

/-- MMAS (R276). -/
def jobMmas (w : WordX) : Job :=
  xJob 0x03 w true fun v =>
    [nameCheck v w.mt 47, nameCheck v w.mt2 43, xSub w 2, xMod w, xDesc v w false (some (xPat w))] ++
      xOperand v w.a (w.src.getLsbD 0) true 39 ++ xOperand v w.b (w.src.getLsbD 1) true 31
/-- MMAS (R276): its step. -/
def execMmas (w : WordX) (s : State) : Out State := runJob (jobMmas w) s

/-- The words of an image header from its bytes. -/
def headerWords (bs : List Byte) : List W64 := (List.range 3).map fun i => leW64 ((bs.drop (8 * i)).take 8)

/-- The header of an image as MMAD reads it at issue, a load of its 24 bytes by the wave (R123, R283), with the die after it, or
what the word does instead. -/
def readHeader (v : View) (ex : Mask) (w : WordX) : Except Eff (List W64 × Device) :=
  match opBase v.core (w.src.getLsbD 0) (src64 v w.a) with
  | .virt va =>
    match checkLanes v { rd := true, w := false, x := false } .plain (some ex) [(v.lane0, va, 24)] with
    | .wait d => .error (.hold d)
    | .trap t => .error (.trap t)
    | .ok ls =>
      let x := loadLanes v .plain 0 false ls v.d
      .ok (headerWords (x.1.flatMap (·.2)), x.2)
  | .spad c o =>
    match checkSpad v false false true (some ex) [(v.lane0, c, o, 24)] with
    | some t => .error (.trap t)
    | none => .ok (headerWords (spadRead v.d c o 24), v.d)
  | .phys _ => .error (.hold v.d)

/-- MMAD (R283). -/
def jobMmad (w : WordX) : Job :=
  { xJob 0x04 w true (fun v =>
      [nameCheck v w.mt 47, nameCheck v w.mt2 43, xSub w 0, xMod w, xDesc v w false none, xDescK v w] ++
        xOperand v w.a (w.src.getLsbD 0) false 39 ++ xOperand v w.b (w.src.getLsbD 1) true 31) with
    act := fun v ex =>
      if matFull (hallOf v.d v.hall) [] then .hold v.d
      else
        match readHeader v ex w with
        | .error e => e
        | .ok (img, d) =>
          match postEntry { v with d := d } ex (newEntry v 0x04 w true img) with
          | .hold _ => .hold v.d
          | e => e }
/-- MMAD (R283): its step. -/
def execMmad (w : WordX) (s : State) : Out State := runJob (jobMmad w) s

/-- MZERO (R277). -/
def jobMzero (w : WordX) : Job :=
  xJob 0x08 w false fun v =>
    [nameCheck v w.mt 47, xMt2 w, unusedField w.a 39, unusedField w.b 31, xSub w 0, xSrc w 3, xMod w]
/-- MZERO (R277): its step. -/
def execMzero (w : WordX) (s : State) : Out State := runJob (jobMzero w) s

/-- MLD (R277). -/
def jobMld (w : WordX) : Job :=
  xJob 0x09 w false fun v =>
    [nameCheck v w.mt 47, xMt2 w, unusedField w.b 31, xSub w 3, c14 (decide (xFmt w = 7)) 9, xSrc w 2, xMod w] ++
      xOperand v w.a (w.src.getLsbD 0) true 39
/-- MLD (R277): its step. -/
def execMld (w : WordX) (s : State) : Out State := runJob (jobMld w) s

/-- MST's rounding mode field (R277). -/
def mstRm (w : WordX) : Nat := w.sub.toNat / 8 % 8

/-- MST (R277). -/
def jobMst (w : WordX) : Job :=
  xJob 0x0A w false fun v =>
    [nameCheck v w.mt 47, xMt2 w, unusedField w.b 31, xSub w 7, c14 (decide (xFmt w = 7 ∨ 4 < mstRm w)) 9, xSrc w 2, xMod w] ++
      xOperand v w.a (w.src.getLsbD 0) true 39
/-- MST (R277): its step. -/
def execMst (w : WordX) (s : State) : Out State := runJob (jobMst w) s

/-- MSCL's `.col` (R277). -/
def mscCol (w : WordX) : Bool := w.sub.getLsbD 3

/-- MSCL (R277). -/
def jobMscl (w : WordX) : Job :=
  xJob 0x0B w false fun v =>
    [nameCheck v w.mt 47, xMt2 w, xSub w 4, c14 (decide (xFmt w ≠ 0)) 9, xSrc w (if mscCol w then 2 else 3), xMod w] ++
      if mscCol w then unusedField w.b 31 :: xOperand v w.a (w.src.getLsbD 0) true 39
      else [unusedField w.a 39, c13 (!(isS w.b || (match w.b with | .fp _ => true | _ => false))) 31]
/-- MSCL (R277): its step. -/
def execMscl (w : WordX) (s : State) : Out State := runJob (jobMscl w) s

/-- MDLOAD (R275). -/
def jobMdload (w : WordX) : Job :=
  xJob 0x10 w false fun v =>
    [nameCheck v w.mt 47, xMt2 w, unusedField w.b 31, xSub w 0, xSrc w 2, xMod w] ++
      xOperand v w.a (w.src.getLsbD 0) false 39
/-- MDLOAD (R275): its step. -/
def execMdload (w : WordX) (s : State) : Out State := runJob (jobMdload w) s

/-- An image's offset is 256-byte aligned (R278, R279). -/
def imageAligned (v : View) (op : Operand) : Check := c14 (isS op && decide (field (src64 v op) 0 8 ≠ 0)) 31

/-- MPRUNE (R278). -/
def jobMprune (w : WordX) : Job :=
  xJob 0x11 w true fun v =>
    [nameCheck v w.mt 47, xMt2 w, xSub w 2, xSrc w 2, xMod w, imageAligned v w.b, xDesc v w false (some (xPat w))] ++
      xOperand v w.a (w.src.getLsbD 0) true 39 ++ xOperand v w.b false true 31
/-- MPRUNE (R278): its step. -/
def execMprune (w : WordX) (s : State) : Out State := runJob (jobMprune w) s

/-- MDECOMP (R279). -/
def jobMdecomp (w : WordX) : Job :=
  xJob 0x12 w true (fun v =>
    [c14 (decide (w.mt ≠ 0)) 47, xMt2 w, xSub w 2, xSrc w 2, sregCheck w.b 31, c14 (decide (w.b = .s 63)) 31,
     imageAligned v w.b,
     c14 (isS w.b && (decide (256 < field (src64 v w.b) 36 9) || decide (field (src64 v w.b) 18 18 ≠ 0))) 31,
     xDesc v w true (some (xPat w))] ++ xOperand v w.a (w.src.getLsbD 0) true 39) [.s (regNo w.b + 1)]
/-- MDECOMP (R279): its step. -/
def execMdecomp (w : WordX) (s : State) : Out State := runJob (jobMdecomp w) s

/-! ## What an entry computes -/

/-- What an entry's work comes to: the device, its flags, engine status and MDECOMP's status. -/
structure MatDone where
  d : Device
  flags : Flags := 0
  estat : BitVec 8 := 0
  status : W64 := 0

/-- The engine status of work on poisoned bytes (Table 19.5a). -/
def poisStat (bad : Bool) : BitVec 8 := if bad then esPois else 0

/-- Where a slot's metadata image lies in a hall's metadata memory (R274). -/
def slotBase (tile : Nat) : Nat := tile * 0x1400

/-- Bytes written to a slot, marked as poisoned where they are (R409, R411). -/
def slotPut (d : Device) (hall tile off : Nat) (bs : List Byte) (bad : Bool) : Device :=
  let d1 := mdWrite d hall (slotBase tile + off) bs
  if bad then
    { d1 with st := { d1.st with poison := poisonMark d1.st.poison 7 4 (hall * 65536 + slotBase tile + off) bs.length } }
  else d1

/-- Bytes written to a scratchpad image, marked as poisoned where they are (R411). -/
def imagePut (d : Device) (core off : Nat) (bs : List Byte) (bad : Bool) : Device :=
  let d1 := spadWrite d core off bs
  if bad then { d1 with st := { d1.st with poison := poisonMark d1.st.poison 4 4 (spadKey core off) bs.length } } else d1

/-- A dense side's rows as a pass takes them. -/
def denseSide (s : TileSide) (rs : List TileRow) : List (List FVal × Bool) := rs.map fun r => (s.values r, r.bad)

/-- A structured side's rows as a pass takes them, by the slot's metadata (R276). -/
def structSide (d : Device) (hall tile pat k : Nat) (s : TileSide) (rs : List TileRow) : List (List (Option FVal) × Bool) :=
  ((List.range rs.length).zip rs).map fun e =>
    let off := slotBase tile + 48 * e.1
    (s.spread pat (metaBits k (mdRead d hall off 48)) e.2,
      e.2.bad || poisonHit d.st.poison 7 4 (hall * 65536 + off) 48)

/-- Whether an element of an accumulator tile is poisoned. -/
def tilePoisoned (d : Device) (hall tile : Nat) : Bool :=
  d.st.poison.any fun u => decide (u.1 = 6) && decide (accKey hall tile 0 0 ≤ u.2) && decide (u.2 < accKey hall tile 0 0 + 8192)

/-- Who makes an entry's accesses: the hall's tile fetch unit. -/
def eAgent (e : MatEntry) : Agent := hallAgent (hallOfCore e.core) e.priv

/-- A pass: MMA, MMAS or one term of MMAD (R117, R273, R276, R283). Poison that it reads, in operands or slots, or carries on in
its tile is told (Table 19.5a). -/
def runPass (d : Device) (e : MatEntry) (b : Block) (a : TileSide) (term : Option (Nat × Nat)) (fresh : Bool) :
    Except MFault MatDone :=
  let hall := hallOfCore e.core
  let k := eK e
  let n := match term with | some t => eStored e t.1 | none => k
  match readRows e.ctx (eAgent e) a n k 64 0 d with
  | .error f => .error f
  | .ok (as, d1) =>
    match readRows e.ctx (eAgent e) (sideB e) k k 128 0 d1 with
    | .error f => .error f
    | .ok (bs, d2) =>
      let rows := match term with
        | some t => structSide d2 hall (physTile b t.2) t.1 k a as
        | none => (denseSide a as).map fun r => (r.1.map some, r.2)
      let r := passTile hall (physTile b e.word.mt.toNat) k rows (denseSide (sideB e) bs) fresh d2
      .ok { d := r.1, flags := r.2
            estat := poisStat (rows.any (·.2) || bs.any (fun x => x.bad) ||
              tilePoisoned r.1 hall (physTile b e.word.mt.toNat)) }

/-- The terms of MMAD from one on (R283). -/
def runTerms (e : MatEntry) (b : Block) : Nat → Nat → MatDone → Except MFault MatDone
  | 0, _, m => .ok m
  | n + 1, t, m =>
    let a := sideAt e ((opBase e.core (e.word.src.getLsbD 0) e.opA).plus (hdrVoff e + 64 * hdrVp e * t)) (hdrVp e)
    match runPass m.d e b a (some (hdrPat e, e.word.mt2.toNat + t)) (eOvw e && decide (t = 0)) with
    | .error f => .error f
    | .ok r => runTerms e b n (t + 1) { d := r.d, flags := m.flags ||| r.flags, estat := m.estat ||| r.estat }

/-- The entries of an image's residual list (R282): row, position and element bits, with their poison. -/
def readList (e : MatEntry) : Nat → Nat → Device → Except MFault (List (Nat × Nat × Nat × Bool) × Device)
  | 0, _, d => .ok ([], d)
  | n + 1, i, d =>
    match engBytes e.ctx (eAgent e) ((opBase e.core (e.word.src.getLsbD 0) e.opA).plus (0x100 + 4 * i)) 4 d with
    | .error f => .error f
    | .ok (bs, bad, d1) =>
      match readList e n (i + 1) d1 with
      | .error f => .error f
      | .ok (l, d2) =>
        let x := BitVec.ofNat 64 (leNat bs)
        .ok ((field x 26 6, field x 17 9, field x 0 16, bad) :: l, d2)

/-- The scale bytes of A's rows, which residual values take (R283). -/
def readScales (e : MatEntry) (s : TileSide) : Nat → Nat → Device → Except MFault (List (List Byte × Bool) × Device)
  | 0, _, d => .ok ([], d)
  | n + 1, r, d =>
    let q := ceilDiv (eK e) s.len * s.per
    match engBytes e.ctx (eAgent e) (s.sc.plus (r * q)) q d with
    | .error f => .error f
    | .ok (bs, bad, d1) =>
      match readScales e s n (r + 1) d1 with
      | .error f => .error f
      | .ok (l, d2) => .ok ((bs, bad) :: l, d2)

/-- The residual entries added, in list order (R283). -/
def runResidual (e : MatEntry) (b : Block) (a : TileSide) (scs : List (List Byte × Bool)) (bs : List (List FVal × Bool))
    (list : List (Nat × Nat × Nat × Bool)) (m : MatDone) : MatDone :=
  list.foldl (fun m x =>
    let sc := scs.getD x.1 ([], false)
    let v := a.value sc.1 x.2.1 (x.2.2.1 % 2 ^ eltWidth a.ty)
    let r := addResidual (hallOfCore e.core) (physTile b e.word.mt.toNat) x.1 x.2.1 v (x.2.2.2 || sc.2) bs m.d
    { m with d := r.1, flags := m.flags ||| r.2, estat := m.estat ||| poisStat (x.2.2.2 || sc.2) }) m

/-- An accumulator element of +0. -/
def clearTile (hall tile : Nat) (d : Device) : Device := (mapTile hall tile (fun _ _ _ _ => (0, false, 0)) d).1

/-- MMAD's work (R283, R425). -/
def runMmad (d : Device) (e : MatEntry) (b : Block) : Except MFault MatDone :=
  let refused : MatDone := { d := d, flags := flInvalid, estat := esDec }
  if hdrRefused e b.acct then .ok refused
  else
    match readList e (hdrRu e) 0 d with
    | .error f => .error f
    | .ok (list, d1) =>
      if list.any fun x => decide (eK e ≤ x.2.1) then .ok { refused with d := d1 }
      else
        let a := sideAt e (opBase e.core (e.word.src.getLsbD 0) e.opA) (hdrVp e)
        match readScales e a 64 0 d1 with
        | .error f => .error f
        | .ok (scs, d2) =>
          match readRows e.ctx (eAgent e) (sideB e) (eK e) (eK e) 128 0 d2 with
          | .error f => .error f
          | .ok (bs, d3) =>
            let d4 := if eOvw e && decide (hdrT e = 0) then
              clearTile (hallOfCore e.core) (physTile b e.word.mt.toNat) d3 else d3
            match runTerms e b (hdrTerms e) 0 { d := d4 } with
            | .error f => .error f
            | .ok m =>
              let m1 := runResidual e b a scs (denseSide (sideB e) bs) list
                { m with estat := m.estat ||| poisStat (bs.any fun r => r.bad) }
              let carried := tilePoisoned m1.d (hallOfCore e.core) (physTile b e.word.mt.toNat)
              .ok { m1 with estat := m1.estat ||| poisStat carried }

/-- An element of memory as an accumulator element (R277). -/
def mldElem (fmt x : Nat) : A80 × Flags :=
  if fmt = 3 then (BitVec.ofNat 80 x, 0)
  else
    let v : FVal := if fmt = 6 then
        let n := (BitVec.ofNat 32 x).toInt
        .num (decide (n < 0)) (n : Rat)
      else decodeF (memFmt fmt) x
    let r := convF a80 .rne false v
    (accBits r.1, r.2)

/-- An accumulator element as an element of memory (R277). -/
def mstElem (fmt rm : Nat) (sat : Bool) (x : A80) : Nat × Flags :=
  let m : Rm := if rm = 2 then .rtz else if rm = 3 then .rup else if rm = 4 then .rdn else .rne
  if fmt = 3 then (x.toNat, 0)
  else if fmt = 6 then
    let r := toInt 32 true (roundInt m) (accVal x)
    ((BitVec.ofInt 32 r.1).toNat, r.2)
  else
    let r := convF (memFmt fmt) m sat (accVal x)
    (encodeF (memFmt fmt) r.1, r.2)

/-- The engine address of a tile element in memory (R277). -/
def elemAddr (e : MatEntry) (i j : Nat) : EAddr :=
  let z := memSize (xFmt e.word)
  (opBase e.core (e.word.src.getLsbD 0) e.opA).plus (i * opPitch e.opA (128 * z) + j * z)

/-- MLD's work, element by element in row-major order. -/
def runMld (e : MatEntry) (tile : Nat) : List (Nat × Nat) → MatDone → Except MFault MatDone
  | [], m => .ok m
  | (i, j) :: t, m =>
    match engBytes e.ctx (eAgent e) (elemAddr e i j) (memSize (xFmt e.word)) m.d with
    | .error f => .error f
    | .ok (bs, bad, d1) =>
      let x := mldElem (xFmt e.word) (leNat bs)
      runMld e tile t { m with d := accSet d1 (hallOfCore e.core) tile i j x.1 bad, flags := m.flags ||| x.2
                               estat := m.estat ||| poisStat bad }

/-- MST's work, element by element in row-major order (R277, R411). -/
def runMst (e : MatEntry) (tile : Nat) : List (Nat × Nat) → MatDone → Except MFault MatDone
  | [], m => .ok m
  | (i, j) :: t, m =>
    let h := hallOfCore e.core
    let z := memSize (xFmt e.word)
    let bad := accPoisoned m.d h tile i j
    let x := mstElem (xFmt e.word) (mstRm e.word) (e.word.sub.getLsbD 6) (accGet m.d h tile i j)
    match engPut m.d e.ctx e.ctx (eAgent e) (elemAddr e i j) (leBytes z x.1) with
    | .error f => .error f
    | .ok d1 =>
      let d2 := if bad then (List.range z).foldl (fun d n => engPoison d e.ctx ((elemAddr e i j).plus n)) d1 else d1
      runMst e tile t { m with d := d2, flags := m.flags ||| x.2, estat := m.estat ||| poisStat bad }

/-- MSCL's work (R277). -/
def runMscl (d : Device) (e : MatEntry) (tile : Nat) : Except MFault MatDone :=
  let h := hallOfCore e.core
  let scale (f : Nat → W32) (bad : Bool) (d : Device) : MatDone :=
    let r := mapTile h tile (fun _ j old p =>
      let x := prodF a80 .rne (accVal old) (f32 (f j))
      (accBits x.1, p || bad, x.2)) d
    { d := r.1, flags := r.2, estat := poisStat (bad || tilePoisoned d h tile) }
  if mscCol e.word then
    match engBytes e.ctx (eAgent e) (opBase e.core (e.word.src.getLsbD 0) e.opA) 512 d with
    | .error f => .error f
    | .ok (bs, bad, d1) => .ok (scale (fun j => BitVec.ofNat 32 (leNat ((bs.drop (4 * j)).take 4))) bad d1)
  else .ok (scale (fun _ => e.opB.setWidth 32) false d)

/-- MDLOAD's work, row by row (R275). -/
def runMdload (e : MatEntry) (tile : Nat) : Nat → Nat → MatDone → Except MFault MatDone
  | 0, _, m => .ok m
  | n + 1, r, m =>
    match engBytes e.ctx (eAgent e) ((opBase e.core (e.word.src.getLsbD 0) e.opA).plus (48 * r)) 48 m.d with
    | .error f => .error f
    | .ok (bs, bad, d1) =>
      runMdload e tile n (r + 1)
        { m with d := slotPut d1 (hallOfCore e.core) tile (48 * r) bs bad, estat := m.estat ||| poisStat bad }

/-- MPRUNE's work (R278). -/
def runMprune (d : Device) (e : MatEntry) (tile : Nat) : Except MFault MatDone :=
  let k := eK e
  let a := sideA e k
  let img := field e.opB 0 18
  match readRows e.ctx (eAgent e) a k k 64 0 d with
  | .error f => .error f
  | .ok (rs, d1) =>
    let d2 := ((List.range 64).zip rs).foldl (fun d x =>
      let bits := keepRow (xPat e.word) (a.values x.2)
      let row := metaRow bits
      let at' := img + 0xC00 + x.1 * eVp e (xPat e.word)
      let codes := kept bits x.2.codes
      let old := spadRead d e.core at' (rowSpan codes.length (eltWidth a.ty))
      let s := slotPut d (hallOfCore e.core) tile (48 * x.1) row x.2.bad
      imagePut (imagePut s e.core (img + 48 * x.1) row x.2.bad) e.core at' (packRow (eltWidth a.ty) codes old) x.2.bad) d1
    .ok { d := d2, estat := poisStat (rs.any fun r => r.bad) }

/-- One term of a decomposition image written (R282). -/
def putTerm (e : MatEntry) (w : Nat) (bads : List Bool) (t : Nat) (term : List (List Bool) × List (List Nat))
    (d : Device) : Device :=
  let img := field e.opB 0 18
  let vp := eVp e (xPat e.word)
  ((List.range 64).zip (term.1.zip term.2)).foldl (fun d x =>
    let bad := bads.getD x.1 false
    let at' := img + dVoff (dTmax e.opB) + 64 * vp * t + vp * x.1
    let old := spadRead d e.core at' (rowSpan x.2.2.length w)
    imagePut (imagePut d e.core (img + 0x500 + 0xC00 * t + 48 * x.1) (metaRow x.2.1) bad) e.core at'
      (packRow w x.2.2 old) bad) d

/-- The tile that MDECOMP decomposes. -/
def decompTile (a : TileSide) (rs : List TileRow) : List (List DElem) := rs.map fun r => r.codes.zip (a.values r)

/-- MDECOMP's work (R280 to R282, R425). -/
def runMdecomp (d : Device) (e : MatEntry) : Except MFault MatDone :=
  let k := eK e
  let a := sideA e k
  let w := eltWidth a.ty
  let img := field e.opB 0 18
  let rcap := field e.opB 36 9
  match readRows e.ctx (eAgent e) a k k 64 0 d with
  | .error f => .error f
  | .ok (rs, d1) =>
    let tile := decompTile a rs
    let bads := rs.map fun r => r.bad
    let res := decompTerms (xPat e.word) rcap (dTmax e.opB) tile
    let all := residualList res.2
    let list := all.take rcap
    let over' := decide (rcap < all.length)
    let mass := decompMass (tile.flatMap id) (res.2.flatMap id) (e.opB.getLsbD 47) over' (field e.opB 48 16)
    let t := res.1.length
    let status : Nat := mass.1 * 2 ^ 32 + nat1 over' * 2 ^ 13 + nat1 mass.2 * 2 ^ 12 + t * 2 ^ 9 + list.length
    let ru := if mass.2 then 0 else list.length
    let h8 := (k - 1) * 2 ^ 16 + a.ty * 2 ^ 12 + xPat e.word * 2 ^ 10 + ru
    let h10 := dVoff (dTmax e.opB) * 2 ^ 16 + eVp e (xPat e.word)
    let d2 := imagePut d1 e.core img (leBytes 8 status ++ leBytes 8 h8 ++ leBytes 8 h10) false
    let d3 := ((List.range list.length).zip list).foldl (fun d x =>
      imagePut d e.core (img + 0x100 + 4 * x.1) (leBytes 4 (x.2.1 * 2 ^ 26 + x.2.2.1 * 2 ^ 17 + x.2.2.2))
        (bads.getD x.2.1 false)) d2
    let d4 := ((List.range t).zip res.1).foldl (fun d x => putTerm e w bads x.1 x.2 d) d3
    .ok { d := d4, status := BitVec.ofNat 64 status, estat := poisStat (bads.any id)
          flags := flagIf mass.2 flResidual ||| flagIf (tile.any fun r => r.any fun x => isNan x.2) flInvalid }

/-- The work of an entry of a block (R266). -/
def matRun (d : Device) (e : MatEntry) (b : Block) : Except MFault MatDone :=
  let tile := physTile b e.word.mt.toNat
  if e.opc = 0x02 then runPass d e b (sideA e (eK e)) none (eOvw e)
  else if e.opc = 0x03 then
    runPass d e b (sideA e (eStored e (xPat e.word))) (some (xPat e.word, e.word.mt2.toNat)) (eOvw e)
  else if e.opc = 0x04 then runMmad d e b
  else if e.opc = 0x08 then .ok { d := clearTile (hallOfCore e.core) tile d }
  else if e.opc = 0x09 then runMld e tile tileIdx { d := d }
  else if e.opc = 0x0A then runMst e tile tileIdx { d := d }
  else if e.opc = 0x0B then runMscl d e tile
  else if e.opc = 0x10 then runMdload e tile 64 0 { d := d }
  else if e.opc = 0x11 then runMprune d e tile
  else runMdecomp d e

/-- The hall cycles for which an entry occupies the engine (Table 10.1); for MDECOMP from the terms it produced. -/
def occupancy (e : MatEntry) (acct : Nat) (status : W64) : Nat :=
  let wa := eltWidth (field e.desc0 60 4)
  let w := max wa (eltWidth (field e.desc0 56 4))
  let pass (w n : Nat) : Nat := max 8 (ceilDiv (eK e * w) n)
  if e.opc = 0x02 then pass w 32
  else if e.opc = 0x03 then pass w 64
  else if e.opc = 0x04 then if hdrRefused e acct then 1 else hdrTerms e * pass w 64 + hdrRu e
  else if e.opc = 0x09 ∨ e.opc = 0x0A then ceilDiv (81920 * memSize (xFmt e.word)) 5120
  else if e.opc = 0x0B then 16
  else if e.opc = 0x11 then 2 * pass wa 32
  else if e.opc = 0x12 then (field status 9 3 + 2) * pass wa 32
  else 8

end Sys2Proof.Machine
end

