-- ==== Sys2Proof/Machine/Power.lean ====
section
/-! DEFINITION. Performance classes, budgets and their events (R17, R332 to R344, R435, R436, R440). -/

namespace Sys2Proof.Machine

/-- A change of a flight. -/
def modFlight (d : Device) (f : Nat) (g : Flight → Flight) : Device :=
  { d with flights := tblSet d.flights f (g (tblGet blankFlight d.flights f)) }

/-- A change of a hall's power registers. -/
def modPw (d : Device) (h : Nat) (f : HallPower → HallPower) : Device := modHall d h fun x => { x with pw := f x.pw }

/-- A change of a hall's clock. -/
def modCk (d : Device) (h : Nat) (f : HallClock → HallClock) : Device := modHall d h fun x => { x with ck := f x.ck }

/-- The flight of a hall: halls 2f and 2f + 1 (R17). -/
def flightNo (h : Nat) : Nat := h / 2

/-- The flight of a hall as it stands. -/
def flightAt (d : Device) (h : Nat) : Flight := tblGet blankFlight d.flights (flightNo h)

/-- The blocks resident on a hall, with their numbers. -/
def hallBlocks (d : Device) (h : Nat) : List (Nat × Block) :=
  d.blocks.filter fun e => decide (hallOfCore e.2.core = h)

/-! ## Classes (R332 to R334) -/

/-- The nominal millivolts of a layer at a class (Table 12.1). -/
def nominalMv (c : Nat) : Nat := [550, 580, 620, 660, 700, 740, 780, 820].getD c 0

/-- The hall clock of a class in megahertz (Table 12.1, R332). -/
def classMhz (c : Nat) : Nat := [600, 800, 1000, 1250, 1500, 1650, 1800, 1950].getD c 0

/-- A hall's nominal-plus-margin millivolts at a class (R332, Table 12.4: steps of 5 mV). -/
def hallMv (d : Device) (h c : Nat) : Nat := nominalMv c + 5 * ((hallOf d h).ck.margin.toNat / 16 ^ c % 16)

/-- R of R333: the highest requested class of a hall's blocks, the floor with none. -/
def requestedClass (d : Device) (h : Nat) : Nat :=
  match hallBlocks d h with
  | [] => (flightAt d h).floor.toNat
  | bs => (bs.map fun e => e.2.preq.toNat).foldl max 0

/-- A hall's target class (R333); the floor while its flight is capped (R436) or its zone is evacuated (R438). -/
def targetOf (d : Device) (h : Nat) : BitVec 3 :=
  let x := hallOf d h
  let f := flightAt d h
  if f.capped.isSome || x.ck.held then f.floor
  else BitVec.ofNat 3 (max f.floor.toNat (min x.pw.gcapNow.toNat (requestedClass d h) - nat1 x.pw.drop))

/-- The halls of a flight that are in service: a hall out of service sets no class (R440). -/
def servedHalls (d : Device) (f : Nat) : List Nat :=
  [2 * f, 2 * f + 1].filter fun h => (hallOf d h).ck.service

/-- The voltage of each layer of a flight in millivolts (R17, R333): the larger of its halls' at the flight's class. A hall
out of service sets none (R440). -/
def layerMv (d : Device) (f : Nat) : Nat :=
  ((servedHalls d f).map fun h => hallMv d h (tblGet blankFlight d.flights f).vcls.toNat).foldl max 0

/-- The supply of a flight in millivolts: twice its layers' voltage (R17, R332). -/
def supplyMv (d : Device) (f : Nat) : Nat := 2 * layerMv d f

/-- The class that a hall asks a voltage for: its target, or while its clock is stopped the class it hops to, since a target
that has changed meanwhile is taken up when the hop ends (R334). -/
def askedClass (d : Device) (h : Nat) : Nat :=
  match (hallOf d h).ck.hop with
  | some c => c.toNat
  | none => (hallOf d h).ck.target.toNat

/-- The voltage class that a flight's halls ask for: the larger of their targets (R333). -/
def wantedClass (d : Device) (f : Nat) : Nat :=
  match servedHalls d f with
  | [] => (tblGet blankFlight d.flights f).vcls.toNat
  | hs => (hs.map (askedClass d)).foldl max 0

/-- A change of the clocks of a flight's halls. -/
def modClocks (d : Device) (f : Nat) (g : HallClock → HallClock) : Device := modCk (modCk d (2 * f) g) (2 * f + 1) g

/-- The next step of a flight's voltage (R334): up before a rise, down after both halls have fallen. A slew up is a step of
each hall whose target needs it. -/
def settleFlight (d : Device) (f : Nat) : Device :=
  let x := tblGet blankFlight d.flights f
  let w := wantedClass d f
  let d1 := modFlight d f fun y => { y with slew := some (BitVec.ofNat 3 w) }
  if x.slew.isSome then d
  else if w = x.vcls.toNat then modClocks d f fun c => { c with fell := false }
  else if x.vcls.toNat < w then
    modClocks d1 f fun c => { c with fell := false, rising := decide (x.vcls.toNat < c.target.toNat) && c.hop.isNone }
  else if (servedHalls d f).all fun h => decide ((hallOf d h).pw.cls.toNat ≤ w) && decide ((hallOf d h).ck.hop = none) then d1
  else d

/-- The targets of a flight's halls computed anew, and the step that follows (R333, R334). -/
def retarget (d : Device) (f : Nat) : Device :=
  let d1 := modCk d (2 * f) fun c => { c with target := targetOf d (2 * f) }
  let d2 := modCk d1 (2 * f + 1) fun c => { c with target := targetOf d (2 * f + 1) }
  settleFlight d2 f

/-- Whether a slew in progress is a step of the hall's own (R334). -/
def inSlew (d : Device) (h : Nat) : Bool :=
  (flightAt d h).slew.isSome && ((hallOf d h).ck.rising || (hallOf d h).ck.fell)

/-- Whether a hall's frequency may hop to its target (R334): at once when it falls; when it rises, once the voltage stands
there; and not inside a step of its own. -/
def hopDue (d : Device) (h : Nat) : Bool :=
  let x := hallOf d h
  let f := flightAt d h
  let floor := match f.slew with | some s => min s.toNat f.vcls.toNat | none => f.vcls.toNat
  x.ck.hop.isNone && x.ck.service && !x.ck.due && !inSlew d h && decide (x.pw.cls ≠ x.ck.target) &&
    decide (x.ck.target.toNat ≤ floor)

/-- A class as a block's request records it (R333). -/
def recordClass (d : Device) (h c : Nat) : BitVec 3 :=
  BitVec.ofNat 3 (min (hallOf d h).ck.cap.toNat (max (flightAt d h).floor.toNat c))

/-- VOLTAGE_SLEW_END (R334): a slew reaches its class; a droop pauses it (R435). -/
def slewEnd (d : Device) (f : Nat) : Device :=
  match (tblGet blankFlight d.flights f).slew with
  | none => d
  | some c =>
    if (hallOf d (2 * f)).ck.droop ∨ (hallOf d (2 * f + 1)).ck.droop then d
    else
      let down := decide (c.toNat < (tblGet blankFlight d.flights f).vcls.toNat)
      settleFlight (modClocks (modFlight d f fun x => { x with vcls := c, slew := none }) f fun k =>
        { k with rising := false, fell := k.fell && !down }) f

/-- VOLTAGE_SLEW_END. -/
def execVoltageSlewEnd (flight : Nat) (s : State) : Out State := runDevice (fun d => slewEnd d flight) s

/-- CLOCK_HOP (R334, R435): the hall's clock stops, unless a droop holds it. -/
def hopStart (d : Device) (h : Nat) : Device :=
  if !hopDue d h || (hallOf d h).ck.droop then d else modCk d h fun c => { c with hop := some c.target }

/-- CLOCK_HOP. -/
def execClockHop (hall : Nat) (s : State) : Out State := runDevice (fun d => hopStart d hall) s

/-- CLOCK_HOP_END (R334, R435): the clock restarts at the new class, unless a droop holds it. -/
def hopEnd (d : Device) (h : Nat) : Device :=
  match (hallOf d h).ck.hop with
  | none => d
  | some c =>
    if (hallOf d h).ck.droop then d
    else
      let fell := decide (c.toNat < (hallOf d h).pw.cls.toNat)
      settleFlight (modPw (modCk d h fun k => { k with hop := none, fell := fell }) h fun p => { p with cls := c }) (flightNo h)

/-- CLOCK_HOP_END. -/
def execClockHopEnd (hall : Nat) (s : State) : Out State := runDevice (fun d => hopEnd d hall) s

/-! ## PERFC (R336) -/

/-- The class that PERFC asks for: an s register, or an inline integer 0 to 7. -/
def perfcChecks (v : View) (w : WordA) : List Check :=
  [c13 (!isS w.d) 47,
   c13 (match w.a with | .s _ => false | .pos n => decide (7 < n) | _ => true) 39,
   c14 (isS w.a && decide (8 ≤ (src64 v w.a).toNat)) 39,
   c14 (!isUnused w.b) 31, c14 (!isUnused w.c) 23, c14 (decide (w.sub ≠ 0)) 15, c14 (decide (w.neg ≠ 0)) 6,
   c14 (decide (w.abs ≠ 0)) 3, c14 w.low 0]

/-- PERFC (R336): the request is recorded, the target is computed at the end of the hall cycle, after every request of that
cycle, and the result waits for the classes that stand then. -/
def jobPerfc (w : WordA) : Job :=
  { code := w.toBits 0x01, g := w.hd.g, lanes := .once, u := w.u, refs := refsOf [w.d, w.a]
    legal := fun v => perfcChecks v w
    act := fun v _ =>
      let c := recordClass v.d v.hall ((src64 v w.a).toNat % 8)
      let d := modCk (modBlock v.d v.w.block fun b => { b with preq := c }) v.hall fun k => { k with due := true }
      .done (v.put d (pushOp .perfc (windowOf (some w.hd.md)) [(.sreg (regNo w.d), 0)] none 0 [])) .onward }
/-- PERFC (R336): its step. -/
def execPerfc (w : WordA) (s : State) : Out State := runJob (jobPerfc w) s

/-- A PERFC that has recorded its request, told the target computed after it (R336). -/
def perfcTarget (t : BitVec 3) (w : Wave) : Wave :=
  { w with ops := w.ops.map fun o => if o.kind = .perfc ∧ o.args = [] then { o with args := [t.setWidth 64] } else o }

/-- The end of a hall cycle in which a request was recorded (R333, R336): a single target is computed. -/
def settleDue (d : Device) (h : Nat) : Device :=
  if !(hallOf d h).ck.due then d
  else
    let d1 := retarget (modCk d h fun k => { k with due := false }) (flightNo h)
    let t := (hallOf d1 h).ck.target
    (List.range 4).foldl (fun d i =>
      modCore d (4 * h + i) fun k => { k with waves := tblMap (fun _ => perfcTarget t) k.waves }) d1

/-- The result of PERFC as the classes stand. -/
def perfcValue (d : Device) (h : Nat) (b : Block) : W64 :=
  BitVec.ofNat 64 ((flightAt d h).vcls.toNat * 256 + (hallOf d h).pw.cls.toNat * 16 + b.preq.toNat)

/-- A PERFC completed with the classes that stand (R50, R336). -/
def perfcDone (d : Device) (core slot : Nat) (w : Wave) (o : LongOp) : Device :=
  match tblFind d.blocks w.block with
  | none => d
  | some b =>
    completeOp d core slot w { o with writes := o.writes.map fun x => (x.1, perfcValue d (hallOfCore core) b) }

/-- PERFC_COMPLETE (R336): the hall runs at the target computed after the request, or at a later one. -/
def perfcComplete (d : Device) (core slot op : Nat) : Device :=
  match waveOf d core slot with
  | none => d
  | some w =>
    match findOp w .perfc op with
    | none => d
    | some o =>
      let h := hallOf d (hallOfCore core)
      match o.args with
      | [] => d
      | t :: _ => if t.toNat = h.pw.cls.toNat ∨ h.pw.cls = h.ck.target then perfcDone d core slot w o else d

/-- PERFC_COMPLETE. -/
def execPerfcComplete (core slot op : Nat) (s : State) : Out State := 
  runDevice (onHall (hallOfCore core) fun d => perfcComplete d core slot op) s

/-! ## Budgets (R337 to R340, R342) -/

/-- IREM of a hall: IBUD less the CURRENT of its blocks (R338), not below 0. -/
def iremOf (d : Device) (h : Nat) : W32 :=
  BitVec.ofNat 32 ((hallOf d h).pw.ibud.toNat - ((hallBlocks d h).map fun e => e.2.current.toNat).sum)

/-- IREM of a hall brought up to date. -/
def refreshIrem (d : Device) (h : Nat) : Device := modPw d h fun p => { p with irem := iremOf d h }

/-- IBUD_WRITE (R338). -/
def execIbudWrite (hall : Nat) (value : W32) (s : State) : Out State :=
  runDevice (fun d => refreshIrem (modPw d hall fun p => { p with ibud := value }) hall) s

/-- A coolant zone. -/
def zoneOf (pl : Plant) (z : Nat) : Zone := tblGet (blankZone z) pl.zones z

/-- A change of a coolant zone. -/
def modZone (pl : Plant) (z : Nat) (f : Zone → Zone) : Plant := { pl with zones := tblSet pl.zones z (f (zoneOf pl z)) }

/-- The thermal budget of a zone's halls (R342): 0 with a failed sensor (R437) or in an evacuation (R438). -/
def tbudOf (z : Zone) : Nat :=
  if z.failed || z.evacuating || z.closed then 0
  else
    let base := min (16 * z.grant.toNat) z.flow.toNat * 3000 / 4
    if z.temp.toNat ≤ z.tgt.toNat then base else base * (128 - (z.temp.toNat - z.tgt.toNat)) / 128

/-- The thermal budget of a hall: none for an owner that its zone does not serve (R342). -/
def hallTbud (z : Zone) (owner : Option Nat) : Nat :=
  match owner with
  | some c => if z.owners.getLsbD c then z.tbud.toNat else 0
  | none => z.tbud.toNat

/-- A hall's sample, zeros where the boundary brings none. -/
def sampleOf (ss : List HallSample) (h : Nat) : HallSample :=
  (ss.find? fun x => decide (x.hall = h)).getD { hall := h, emeas := 0 }

/-- `n` of `m` in units of 2^-16, saturated (R339). -/
def ratio16 (n m : Nat) : BitVec 16 := BitVec.ofNat 16 (min 0xFFFF (n * 65536 / m))

/-- STALLM of an interval (R339). -/
def stallmOf (c : HallCount) : BitVec 16 := ratio16 c.stalled c.cycles

/-- BUSY of an interval (R339): the mean over the four cores. -/
def busyOf (c : HallCount) : BitVec 16 := ratio16 c.issued (4 * c.cycles)

/-- The energy of an interval's ballast in grains (R9, R341): a sample of 0.25 µs of mA times mV is 1/4000 of one. -/
def ballastGrains (c : HallCount) : Nat := c.ballast / 4000

/-- The governor's DROP (R339). -/
def dropOf (p : HallPower) (stallm : BitVec 16) : Bool :=
  p.gov && (decide (0x8000 < stallm.toNat) || (p.drop && decide (0x4000 ≤ stallm.toNat)))

/-- A hall's registers at a boundary (R338, steps 1, 2, 4 and 5), from the energy measured, the interval's counts and its
thermal budget. GCAP takes effect now. -/
def hallBoundary (emeas : W32) (c : HallCount) (tbud : Nat) (p : HallPower) : HallPower :=
  let owed := p.overspend.toNat + (emeas.toNat - p.bprev.toNat)
  let b := min p.ebud.toNat tbud
  { p with emeas := emeas, stallm := stallmOf c, busy := busyOf c, erem := BitVec.ofNat 32 (b - owed)
           overspend := BitVec.ofNat 32 (owed - b), bprev := BitVec.ofNat 32 b, drop := dropOf p (stallmOf c)
           gcapNow := p.gcap }

/-- The share of a wave's words in an interval's charge, rounded down (R340). -/
def grainShare (charged total n : Nat) : Nat := charged * n / max 1 total

/-- What a saved wave of a hall is owed for the words it issued in the interval before it was saved (R340). -/
def oweSaved (h charged total : Nat) (w : WaveMore) : WaveMore :=
  if w.hall = h then { w with owed := w.owed + grainShare charged total w.words, words := 0 } else w

/-- The energy of an interval charged to a hall's owner, less its ballast's, and to the waves that issued in it (R340). -/
def chargeHall (d : Device) (h : Nat) (emeas : W32) : Device :=
  let n := (hallOf d h).count
  let charged := emeas.toNat - ballastGrains n
  let d1 := match (hallOf d h).owner with
    | some c => modCtx d c fun k => { k with energy := k.energy + charged }
    | none => d
  let give (w : Wave) : Wave :=
    { w with cnt := { w.cnt with
        grain := w.cnt.grain + BitVec.ofNat 64 (grainShare charged n.words (w.cnt.wissue - w.cnt.base).toNat)
        base := w.cnt.wissue } }
  let d2 := (List.range 4).foldl (fun d i =>
    modCore d (4 * h + i) fun k => { k with waves := tblMap (fun _ w => give w) k.waves }) d1
  let d3 := { d2 with ctxs := tblMap (fun _ k => { k with
    more := k.more.map fun b => { b with waves := b.waves.map (oweSaved h charged n.words) } }) d2.ctxs }
  modHall d3 h fun k => { k with count := blankHallCount }

/-- A context's network energy of an interval: each kind of its traffic at that kind's cost (R98, R340, log 106). -/
def chargeNetwork (k : Ctx) : Ctx :=
  { k with
    energy := k.energy + (k.traffic.map fun e => Config.trafficEnergy e.1 * (e.2 - tblGet 0 k.paid e.1)).sum
    paid := k.traffic }

/-- The usable classes of a margin word: class `c` is usable unless its nibble is 15 (Table 12.4). -/
def usable (margin : W32) (c : Nat) : Bool := decide (margin.toNat / 16 ^ c % 16 ≠ 15)

/-- FLOOR of a flight (R343): the lowest class above which every class up to both caps is usable in both halls. -/
def floorOf (d : Device) (f : Nat) : BitVec 3 :=
  let hs := (servedHalls d f).map fun h => (hallOf d h).ck
  let top := (hs.map fun c => c.cap.toNat).foldl min 7
  let ok (c : Nat) : Bool := (List.range 8).all fun k =>
    decide (k < c) || decide (top < k) || hs.all fun x => usable x.margin k
  BitVec.ofNat 3 ((leastFrom ok 8 0).getD 7)

/-- A planned margin entry applied to a hall in service (R343). -/
def applyMargin (d : Device) (h : Nat) : Device :=
  modCk d h fun c =>
    match c.newCap, c.service with
    | some k, true => { c with cap := k, margin := c.newMargin, newCap := none }
    | _, _ => c

/-- The alcoves that a hall's cores hold, or bring there. -/
def hallAlcoves (d : Device) (h : Nat) : List Nat :=
  ((List.range 4096).filter fun i =>
    let a := alcOf d i
    (decide (a.state = 1) && decide (a.hall.toNat = h)) ||
    (match a.target with | some t => decide (hallOfCore t.1 = h) | none => false))

/-- A hall's blocks terminated and its alcoves lost (R439, R440). -/
def clearHall (d : Device) (h : Nat) (src : Source) (cause : BitVec 8) (info : W64) : Device :=
  let d1 := (hallBlocks d h).foldl (fun d e => terminate d e.1 src cause 0 info (blockWhere e.2)) d
  (hallAlcoves d1 h).foldl loseAlcove d1

/-- The number under which a unit's monitor reports (Table 20.2). -/
def delayMonitor (h : Nat) : Nat := 256 + h

/-- A telemetry field whose value the spec leaves open (log 16). -/
def openTel (kind code : Nat) : Nat := Config.choice (16 + 256 * kind + code)

/-- A hall put out of service at a boundary (R440): its owner register reads VALID 0 from then on (R24, R346). -/
def retireHall (d : Device) (h : Nat) : Device :=
  if !(hallOf d h).ck.unusable || !(hallOf d h).ck.service then d
  else
    let d1 := clearHall d h (.monitor (delayMonitor h)) 0x5A (BitVec.ofNat 64 h)
    let d2 := modHall d1 h fun x =>
      { x with wlines := [], wsets := [], owner := none, lastOwner := (x.owner.map (BitVec.ofNat 6)).getD x.lastOwner
               nextOwner := none }
    let d3 := modCk d2 h fun c => { c with service := false, margin := 0xFFFFFFFF, newCap := none }
    telemetryPut d3 (.monitor (delayMonitor h)) 4 2 (delayMonitor h) (openTel 4 2)

/-- The flights' floors, caps and targets at a boundary (R333, R343, R436). -/
def flightBoundary (d : Device) (f : Nat) : Device :=
  let d1 := modFlight d f fun x => { x with floor := floorOf d f, capped := x.capNext, capNext := none }
  let reclamp (d : Device) (h : Nat) : Device :=
    (hallBlocks d h).foldl (fun d e => modBlock d e.1 fun b => { b with preq := recordClass d h b.preq.toNat }) d
  retarget (reclamp (reclamp d1 (2 * f)) (2 * f + 1)) f

/-- The leases of unattached alcoves at a boundary (R83). -/
def leaseBoundary (d : Device) : Device :=
  (tblKeys d.alcoves).foldl (fun d i =>
    let a := alcOf d i
    if a.state = 0 ∨ a.life ≠ 2 ∨ a.attach ≠ 0 then d
    else if a.remain.toNat ≤ 1 then alcEnd d i
    else modAlc d i fun a => { a with remain := a.remain - 1 }) d

/-- A boundary for one hall, on the die: its registers and the charge. -/
def hallStep (pl : Plant) (ss : List HallSample) (d : Device) (h : Nat) : Device :=
  let e := (sampleOf ss h).emeas
  modPw (chargeHall d h e) h fun p =>
    hallBoundary e (hallOf d h).count (hallTbud (zoneOf pl (h / 4)) (hallOf d h).owner) p

/-- The zones' thermal budgets recomputed (R338, step 3): only TBUD of compute zones changes. -/
def zoneBoundary (pl : Plant) : Plant :=
  (List.range 32).foldl (fun pl z => modZone pl z fun x => { x with tbud := BitVec.ofNat 32 (tbudOf x) }) pl

/-- The module power register at a boundary (Table 12.7). -/
def moduleBoundary (outside : W32) (d : Device) : Device :=
  { d with nhmeas := outside, nhmax := if d.nhmax.toNat < outside.toNat then outside else d.nhmax }

/-- Grids whose next block waits have waited one interval more (R434); the choice of a core for it is due again (R39). -/
def waitBoundary (d : Device) : Device :=
  { d with grids := tblMap (fun _ g0 =>
      let g := { g0 with tried := none, draw := { g0.draw with tried := false } }
      if !g.refused && (decide (g.nextPos < g.lpb.total) || decide (g.undone ≠ [])) && g.parent.isNone then
        { g with waited := g.waited + 1 }
      else g) d.grids }

/-- The die at a control-interval boundary. -/
def dieBoundary (pl : Plant) (ss : List HallSample) (outside : W32) (d : Device) : Device :=
  let hs := List.range Config.halls
  let d0 := hs.foldl (hallStep pl ss) d
  let d1 := { d0 with ctxs := tblMap (fun _ => chargeNetwork) d0.ctxs }
  let d2 := hs.foldl retireHall (hs.foldl applyMargin d1)
  let d3 := (List.range (Config.halls / 2)).foldl flightBoundary d2
  moduleBoundary outside (waitBoundary (leaseBoundary d3))

/-- CONTROL_INTERVAL_BOUNDARY (R333, R338 to R343, R434, R440). -/
def execControlIntervalBoundary (samples : List HallSample) (outside : W32) (s : State) : Out State :=
  let pl := zoneBoundary s.plant
  .next { s with plant := pl, dev := dieBoundary pl samples outside s.dev }

/-! ## Charge balance (R341, R436) -/

/-- The averages of a landing, lighter first, and whether the upper hall is the heavier. -/
def landingPair (r : LandingReading) : Nat × Nat × Bool :=
  if r.lower ≤ r.upper then (r.lower, r.upper, true) else (r.upper, r.lower, false)

/-- A reading without the ballast that one of its halls draws (R341). -/
def rawReading (x : Flight) (r : LandingReading) : LandingReading :=
  { r with lower := if x.ballastUp then r.lower else r.lower - x.ballast
           upper := if x.ballastUp then r.upper - x.ballast else r.upper }

/-- The ballast of the lighter hall that a reading without ballast asks for (R341), at most 6,000 mA. -/
def ballastFor (r : LandingReading) : Nat :=
  let p := landingPair r
  if p.1 * 100 < 92 * p.2.1 then min 6000 (ceilDiv (95 * p.2.1) 100 - p.1) else 0

/-- The ballast in force drawn for another sample of 0.25 µs by the hall that carries it (R341). -/
def drawBallast (d : Device) (f : Nat) : Device :=
  let x := tblGet blankFlight d.flights f
  modHall d (2 * f + nat1 x.ballastUp) fun h =>
    { h with count := { h.count with ballast := h.count.ballast + x.ballast * layerMv d f } }

/-- The telemetry number of a flight's landing monitor (Table 20.2): gallery g, flight f within it. -/
def landingNo (f : Nat) : Nat := 192 + f

/-- A stage of R436 entered: its telemetry entry. -/
def stageEntry (enter : Bool) (code f : Nat) (d : Device) : Device :=
  if enter then telemetryPut d (.monitor (landingNo f)) 2 code (landingNo f) (openTel 2 code) else d

/-- A landing with a hall out of service (R440): that hall's ballast carries it at the draw of the other, which runs on alone;
with both out the flight draws nothing. -/
def loneLanding (d : Device) (f : Nat) (r : LandingReading) : Device :=
  let x := tblGet blankFlight d.flights f
  let raw := rawReading x r
  let up := !(hallOf d (2 * f + 1)).ck.service
  let stop := decide (60 < r.offMv)
  modFlight (drawBallast d f) f fun y =>
    { y with ballast := if servedHalls d f = [] then 0 else if up then raw.lower else raw.upper
             ballastUp := up, throttle := none, stop := stop }

/-- A sample of two halls in service (R341, R436): ballast, then throttle, cap and stop. -/
def landingPairSample (d : Device) (f : Nat) (r : LandingReading) : Device :=
  let x := tblGet blankFlight d.flights f
  let p := landingPair r
  let raw := rawReading x r
  let low := decide (p.1 * 100 < 90 * p.2.1) && decide (x.ballast = 6000)
  let throttle := if low then some p.2.2 else if 92 * p.2.1 ≤ p.1 * 100 then none else x.throttle
  let cap := decide (p.1 * 100 < 85 * p.2.1) && decide (10 ≤ r.longUs)
  let stop := decide (60 < r.offMv)
  let d1 := modFlight (drawBallast d f) f fun y =>
    { y with ballast := ballastFor raw, ballastUp := !(landingPair raw).2.2, throttle := throttle, capNext := if cap then some p.2.2 else y.capNext
             stop := stop }
  stageEntry (stop && !x.stop) 3 f (stageEntry (cap && x.capNext.isNone) 2 f (stageEntry (throttle.isSome && x.throttle.isNone) 1 f d1))

/-- A sample of a flight's landing (R341, R436, R440). -/
def landingSample (d : Device) (f : Nat) (r : LandingReading) : Device :=
  if (servedHalls d f).length = 2 then landingPairSample d f r
  else
    let d1 := loneLanding d f r
    stageEntry (decide (60 < r.offMv) && !(tblGet blankFlight d.flights f).stop) 3 f d1

/-- LANDING_SAMPLE. -/
def execLandingSample (flight : Nat) (r : LandingReading) (s : State) : Out State :=
  runDevice (fun d => landingSample d flight r) s

/-- DROOP_DETECT (R435). -/
def execDroopDetect (hall : Nat) (s : State) : Out State :=
  runDevice (fun d => modCk d hall fun c => { c with droop := true }) s

/-- DROOP_CLEAR (R435): the episode's telemetry entry, with the stretched hall cycles. -/
def droopClear (d : Device) (h : Nat) (cycles : W32) : Device :=
  if !(hallOf d h).ck.droop then d
  else
    telemetryPut (modCk d h fun c => { c with droop := false }) (.monitor (64 + h)) 1 (openTel 1 0) (64 + h) cycles.toNat

/-- DROOP_CLEAR. -/
def execDroopClear (hall : Nat) (cycles : W32) (s : State) : Out State := runDevice (fun d => droopClear d hall cycles) s

/-! ## Ageing (R343, R440) -/

/-- The margin code of a class that needs so many millivolts: 5 mV steps, 15 above 60 mV. -/
def marginCode (mv : Nat) : Nat := if 60 < mv then 15 else ceilDiv mv 5

/-- The margin word of a re-plan. -/
def marginWord (mvs : List Nat) : W32 :=
  BitVec.ofNat 32 (((List.range 8).map fun c => marginCode (mvs.getD c 61) * 16 ^ c).sum)

/-- AGEING_REPLAN (R343, R440): the new entry waits for the next boundary; a hall with no usable class goes out of service
there. A hall out of service has no re-plan (R24). -/
def ageingReplan (d : Device) (h : Nat) (mvs : List Nat) : Device :=
  if !(hallOf d h).ck.service then d else
  let m := marginWord mvs
  let top := ((List.range 8).filter fun c => usable m c).getLast?
  let d1 := modCk d h fun c =>
    match top with
    | some k => { c with newCap := some (BitVec.ofNat 3 k), newMargin := m, unusable := false }
    | none => { c with unusable := true }
  telemetryPut d1 (.monitor (delayMonitor h)) 4 (openTel 4 0) (delayMonitor h) (openTel 4 1)

/-- AGEING_REPLAN. -/
def execAgeingReplan (hall : Nat) (margins : List Nat) (s : State) : Out State :=
  runDevice (fun d => ageingReplan d hall margins) s

end Sys2Proof.Machine
end

