-- ==== Sys2Proof/Machine/Dfe.lean ====
section
/-! DEFINITION. The dispatch front end: launch queues, grids, placement, retirement, the end of a grid and stream-ordered
waits (R30 to R40, R48, R49, R296, R300, R347 to R349, R431 to R434). -/

namespace Sys2Proof.Machine

/-! ## Traversal orders (R34) -/

/-- The quadrant of a square that holds the `e`-th grid point in it, counting along the order: the lower corner of each
quadrant in turn, and the point's number there. `s` is the quadrant's side. -/
def pickQuad (gx gy s : Nat) : List (Nat × Nat) → Nat → Nat × Nat × Nat
  | [], e => (0, 0, e)
  | q :: t, e =>
    let n := min s (gx - q.1) * min s (gy - q.2)
    if e < n ∨ t = [] then (q.1, q.2, e) else pickQuad gx gy s t (e - n)

/-- The bits of a quadrant in the grid's own axes, from its bits in the curve's axes. -/
def turnBits (swap flip : Bool) (b : Nat × Nat) : Nat × Nat :=
  let f (x : Nat) : Nat := if flip then 1 - x else x
  if swap then (f b.2, f b.1) else (f b.1, f b.2)

/-- The `e`-th grid point of a square of side 2^n in Morton or Hilbert order (R34). -/
def curvePoint (hilbert : Bool) (gx gy : Nat) : Nat → Bool → Bool → Nat → Nat → Nat → Nat × Nat
  | 0, _, _, x0, y0, _ => (x0, y0)
  | n + 1, swap, flip, x0, y0, e =>
    let s := 2 ^ n
    let codes := if hilbert then [(0, 0), (0, 1), (1, 1), (1, 0)] else [(0, 0), (1, 0), (0, 1), (1, 1)]
    let at' (c : Nat × Nat) : Nat × Nat := let b := turnBits swap flip c; (x0 + b.1 * s, y0 + b.2 * s)
    let r := pickQuad gx gy s (codes.map at') e
    let c := (codes.find? fun c => decide (at' c = (r.1, r.2.1))).getD (0, 0)
    if hilbert && decide (c.2 = 0) then
      curvePoint hilbert gx gy n (!swap) (if c.1 = 1 then !flip else flip) r.1 r.2.1 r.2.2
    else curvePoint hilbert gx gy n swap flip r.1 r.2.1 r.2.2

/-- The point of a plane at position `e` (R34). -/
def planePoint (l : Lpb) (e : Nat) : Nat × Nat :=
  let w := 2 ^ l.swz
  match l.order.toNat with
  | 0 =>
    let s := e / (w * l.gy)
    let n := min w (l.gx - s * w)
    let e' := e - s * w * l.gy
    (s * w + e' % n, e' / n)
  | 1 =>
    let s := e / (w * l.gx)
    let n := min w (l.gy - s * w)
    let e' := e - s * w * l.gx
    (e' / n, s * w + e' % n)
  | k =>
    let n := (leastFrom (fun n => decide (max l.gx l.gy ≤ 2 ^ n)) 33 0).getD 32
    curvePoint (decide (k = 3)) l.gx l.gy n false false 0 0 e

/-- The block index at a dispatch position (R34). -/
def blockIndex (l : Lpb) (pos : Nat) : Nat × Nat × Nat :=
  let p := l.gx * l.gy
  let xy := planePoint l (pos % p)
  (xy.1, xy.2, pos / p)

/-- The linear index of a block (R31). -/
def linearIndex (l : Lpb) (i : Nat × Nat × Nat) : Nat := i.1 + l.gx * (i.2.1 + l.gy * i.2.2)

/-! ## Launch queues (R35, R347, R348, R431, R433) -/

/-- A fault of the DFE's own accesses (R433): its record on the queue's source, in the ring of the queue's context. -/
def dfeFault (d : Device) (q kind : Nat) (f : MFault) : Device :=
  queueRecord d q (queueOf d q).ctx.toNat 0x5C (kind + 256 * f.cause.toNat)
    { hdr := 0, word := 0, core := 0, slot := 0, linear := 0 }

/-- A completion signal (R49, R431): a release of the value at SIGADDR, where there is one. -/
def writeSignal (d : Device) (q ctx : Nat) (l : Lpb) (value : W64) : Device :=
  if l.sigaddr = 0 then d
  else
    match engineWrite d ctx ctx (ctxOf d ctx).sysctx .plain (vaNat l.sigaddr.toNat) (leBytes 8 value.toNat) with
    | .error f => dfeFault d q 4 f
    | .ok d1 => emit d1 (.launch q) (.completion value)

/-- A sequence number with bit 63 set (R383, R431). -/
def markBad (bad : Bool) (seq : W64) : W64 := if bad then seq ||| BitVec.ofNat 64 (2 ^ 63) else seq

/-- A grid that begins dispatch. -/
def newGrid (q : Nat) (k : LaunchQueue) (e : QEntry) (l : Lpb) : Grid :=
  { queue := q, ctx := e.ctx, seq := k.seq, lpb := l, nextPos := 0, undone := [], retired := 0, bad := false
    refCore := k.lastCore, cores := [], shadow := [], waited := 0, refused := false, tried := none
    draw := { tris := [], pending := [], pixelBlocks := 0, frags := [], changed := [], reported := false, tried := false }
    parent := none }

/-- A grid entry at the head of its queue begins (R35, R37, R431, R433). -/
def beginGrid (d : Device) (q : Nat) (e : QEntry) : Device :=
  let d1 := modQueue d q fun k => { k with entries := k.entries.drop 1, seq := k.seq + 1 }
  let k := queueOf d1 q
  match readLpb d1 e.ctx e.va.toNat with
  | .error f => dfeFault d1 q 1 f
  | .ok (l, d2) =>
    match refuseReason d2 e.ctx false l with
    | some r =>
      writeSignal (queueRecord d2 q e.ctx 0x59 r { hdr := 0, word := 0, core := 0, slot := 0, linear := 0 }) q e.ctx l
        (markBad true k.seq)
    | none =>
      let d3 := { d2 with grids := tblSet d2.grids d2.nextId (newGrid q k e l), nextId := d2.nextId + 1 }
      modQueue d3 q fun k => { k with head := some (.grid d2.nextId) }

/-- GRID_DISPATCH_BEGIN (R35). -/
def dispatchBegin (d : Device) (q : Nat) : Device :=
  let k := queueOf d q
  match k.head, k.entries with
  | none, e :: _ => if k.en && !e.wait then beginGrid d q e else d
  | _, _ => d

/-- GRID_DISPATCH_BEGIN. -/
def execGridDispatchBegin (queue : Nat) (s : State) : Out State := runDevice (fun d => dispatchBegin d queue) s

/-- The rank of an append by an application core among those of one fabric cycle (R348). -/
def apcRank (apc : Nat) : Nat := Config.cores + apc

/-- A write to ENQ by an application core (R348): one entry appended, or refused. -/
def enqueue (d : Device) (apc q : Nat) (word : W64) : Device :=
  let k := queueOf d q
  let t := field word 60 4
  let va := field word 0 48
  if (t ≠ 1 ∧ t ≠ 2) ∨ field word 48 12 ≠ 0 ∨ va % (if t = 1 then 256 else 32) ≠ 0 then
    modQueue d q fun k => { k with err := true }
  else if 4096 ≤ k.entries.length then modQueue d q fun k => { k with ovf := true }
  else appendEntry d q { wait := decide (t = 2), va := BitVec.ofNat 48 va, ctx := k.ctx.toNat, cyc := 0, rank := apcRank apc }

/-- LAUNCH_ENQUEUE. -/
def execLaunchEnqueue (queue : Nat) (word : W64) (s : State) : Out State := runDevice (fun d => enqueue d 0 queue word) s

/-- QUEUE_RESET (R83, R348, R433): entries not begun are discarded, SEQ is 0, the queue's STREAM alcoves end, and a wait
whose access has faulted ends. -/
def queueReset (d : Device) (q : Nat) : Device :=
  let d1 := modQueue d q fun k =>
    { k with
      entries := [], seq := 0
      head := match k.head with | some (.wait _ true _) => none | h => h }
  (d1.alcoves.filter fun e => decide (e.2.life = 1) && decide (e.2.queue.toNat = q) && decide (e.2.state ≠ 0)).foldl
    (fun d e => alcEnd d e.1) d1

/-- QUEUE_RESET. -/
def execQueueReset (queue : Nat) (s : State) : Out State := runDevice (fun d => queueReset d queue) s

/-! ## Stream-ordered waits (R349, R433) -/

/-- Whether a wait's condition holds. -/
def waitHolds (op : Nat) (word value : W64) : Bool :=
  match op with
  | 0 => decide (word = value)
  | 1 => decide (word ≠ value)
  | 2 => decide (value.toNat ≤ word.toNat)
  | _ => decide (word &&& value ≠ 0)

/-- What reading a wait's descriptor and word comes to: whether the condition holds, or the fault with its kind. -/
def waitRead (d : Device) (e : QEntry) : Except (Nat × MFault) (Bool × Device) :=
  match dfeRead d e.ctx e.va.toNat 16 with
  | .error f => .error (2, f)
  | .ok (bs, d1) =>
    let w0 := leW64 bs
    match dfeRead d1 e.ctx (field w0 0 48) 8 with
    | .error f => .error (3, f)
    | .ok (x, d2) => .ok (waitHolds (field w0 62 2) (leW64 x) (leW64 (bs.drop 8)), d2)

/-- A read of the wait at the head of a queue; a fault of a kind that the entry has met before writes no further record. -/
def waitStep (d : Device) (q : Nat) (e : QEntry) (told : List Nat) : Device :=
  match waitRead d e with
  | .ok (done, d1) =>
    modQueue d1 q fun k => { k with head := if done then none else some (.wait e false told) }
  | .error (kind, f) =>
    if told.contains kind then modQueue d q fun k => { k with head := some (.wait e true told) }
    else modQueue (dfeFault d q kind f) q fun k => { k with head := some (.wait e true (told ++ [kind])) }

/-- STREAM_WAIT_CHECK (R35, R349): a wait that reaches the head begins; the DFE reads its word, as an acquire that the cores
make at the placements that follow (R138). -/
def waitCheck (d : Device) (q : Nat) : Device :=
  let k := queueOf d q
  match k.head, k.entries with
  | some (.wait e false told), _ => waitStep d q e told
  | none, e :: t => if k.en && e.wait then waitStep (modQueue d q fun k => { k with entries := t }) q e [] else d
  | _, _ => d

/-- STREAM_WAIT_CHECK. -/
def execStreamWaitCheck (queue : Nat) (s : State) : Out State := runDevice (fun d => waitCheck d queue) s

/-- DFE_ACCESS_RETRY (R433): a faulted descriptor or word is read again. -/
def waitRetry (d : Device) (q : Nat) : Device :=
  match (queueOf d q).head with
  | some (.wait e true told) => waitStep d q e told
  | _ => d

/-- DFE_ACCESS_RETRY. -/
def execDfeAccessRetry (queue : Nat) (s : State) : Out State := runDevice (fun d => waitRetry d queue) s

/-! ## Placement (R36 to R40, R296) -/

/-- What the DFE is to place: a block at a position of a grid, or a pixel wave of a draw. -/
inductive Placee where
  | block (grid pos : Nat)
  | pixel (geo : Nat) (p : PixPending)

/-- The grid whose LPB gives a placement's shape. -/
def placeGrid : Placee → Nat
  | .block g _ => g
  | .pixel _ p => p.grid

/-- What a queue has to place, in the order in which the DFE tries it: pixel waves that wait, then the next block of the
grid, undone blocks first (R50). -/
def placees (d : Device) (q : Nat) : List Placee :=
  match (queueOf d q).head with
  | some (.grid g) =>
    match tblFind d.grids g with
    | none => []
    | some x =>
      let k := ctxOf d x.ctx
      if k.req || (k.saved && decide (k.records = [])) then []
      else
        ((x.draw.pending.head?).toList.map fun p => Placee.pixel g p) ++
        (match x.undone with
          | p :: _ => [.block g p.1]
          | [] => if x.nextPos < x.lpb.total then [.block g x.nextPos] else [])
  | _ => []

/-- The alcoves that a launch names and that placement regards, by affinity, each once (R39, step 1; R84). -/
def affinities (d : Device) (g : Grid) : List Nat :=
  (listNub (fun a b => decide (a = b)) ((g.lpb.aff.take g.lpb.naff).filterMap fun n => alcFind d g.ctx n)).filter fun i =>
    !(alcOf d i).marked

/-- The cores on which a placement is allowed (R38, R39, R84, R296). -/
def eligibleCores (d : Device) (p : Placee) (g : Grid) : List Nat :=
  let hs := (ownedHalls d g.ctx).filter fun h => match p with | .pixel _ x => decide (galleryOf h = x.gallery) | _ => true
  let cs := hs.flatMap fun h => (List.range 4).map fun i => 4 * h + i
  let as := affinities d g
  let home := (as.filter fun i => decide ((alcOf d i).state = 1)).map fun i => alcCore (alcOf d i)
  let cs1 := match home with | c :: _ => cs.filter fun x => decide (x = c) | [] => cs
  cs1.filter fun c => as.all fun i =>
    decide ((alcOf d i).state ≠ 1) || decide ((alcOf d i).attach = 0) || decide (alcCore (alcOf d i) = c)

/-- The class of a core relative to a reference core (R39, step 2). -/
def coreClass (ref c : Nat) : Nat :=
  if c = ref then 0
  else if c / 4 = ref / 4 then 1
  else if c / 8 = ref / 8 then 2
  else if c / 64 = ref / 64 then 3
  else 4

/-- The declared current of a hall (R341). -/
def declared (d : Device) (h : Nat) : Nat := (hallOf d h).pw.ibud.toNat - (hallOf d h).pw.irem.toNat

/-- The place of a core in the DFE's choice (R39, steps 2 and 4). -/
def coreRank (d : Device) (ref c : Nat) : List Nat :=
  let h := c / 4
  let other := if h % 2 = 0 then h + 1 else h - 1
  [coreClass ref c, nat1 (decide (declared d other < declared d h)), (c + Config.cores - ref) % Config.cores]

/-- The lowest free wave slots of a core, if it has so many. -/
def slotChoice (k : Core) (n : Nat) : Option (List Nat) :=
  let free := (List.range Config.slots).filter fun s => (tblFind k.waves s).isNone
  if n ≤ free.length then some (free.take n) else none

/-- The runs of register words that a core's waves hold: first word and length (R55, R212). -/
def wordsHeld (k : Core) : List (Nat × Nat) := k.waves.map fun e => (e.2.rfbase, e.2.width * (8 + e.2.nstk))

/-- Whether `n` register words from `w` on lie beside the runs that are held. -/
def wordsFree (held : List (Nat × Nat)) (n w : Nat) : Bool :=
  decide (w + n ≤ Config.rfWords) && held.all fun r => decide (w + n ≤ r.1) || decide (r.1 + r.2 ≤ w)

/-- The lowest free runs of `n` register words, one for each of so many waves: a run begins at 0 or where another ends. -/
def wordChoice (n : Nat) : Nat → List (Nat × Nat) → Option (List Nat)
  | 0, _ => some []
  | c + 1, held =>
    match leastBy (fun a b => decide (a < b)) ((0 :: held.map fun r => r.1 + r.2).filter (wordsFree held n)) with
    | none => none
    | some w => (wordChoice n c ((w, n) :: held)).map (w :: ·)

/-- The tiles of a hall that no block holds. -/
def freeTiles (d : Device) (h : Nat) : List Nat :=
  (List.range 12).filter fun t => !(hallBlocks d h).any fun e =>
    (List.range e.2.acct).any fun j => decide (physTile e.2 j = t)

/-- The granules of a launch (R73). -/
def Lpb.granules (l : Lpb) : Nat := ceilDiv (l.scratch * 256) 4096

/-- The register words of a wave of a launch (R55, R212). -/
def Lpb.waveWords (l : Lpb) : Nat := l.width * (8 + 8 * l.stack)

/-- Where the waves of a launch would stand on a core: their slots and the first register words of each (R39, step 3). -/
def waveRoom (k : Core) (l : Lpb) : Option (List (Nat × Nat)) :=
  match slotChoice k (l.nwaves + 1), wordChoice l.waveWords (l.nwaves + 1) (wordsHeld k) with
  | some ss, some ws => some (ss.zip ws)
  | _, _ => none

/-- Whether a core is admissible but for its granules (R39, step 3): its hall runs, its width, slots, register words, the
hall's tiles and budgets; no block that the landing monitor bars (R436), no tiles on a hall whose engine is being reset
(R420). -/
def fitsCore (d : Device) (g : Grid) (c : Nat) : Bool :=
  let k := coreOf d c
  let h := c / 4
  let x := hallOf d h
  let l := g.lpb
  let waits := (ctxOf d g.ctx).records.any fun r => decide (hallOfCore r.2 = h)
  x.ck.service && !x.ck.stopped && !x.ck.held && !waits &&
  decide ((flightAt d h).capped ≠ some (decide (h % 2 = 1))) &&
  (k.waves.all fun e => decide (e.2.width = l.width)) &&
  (waveRoom k l).isSome &&
  decide (l.acct ≤ (freeTiles d h).length) && !(x.matHeld && decide (l.acct ≠ 0)) &&
  decide (l.grains.toNat ≤ x.pw.erem.toNat) && decide (l.current.toNat ≤ x.pw.irem.toNat)

/-- The affinity alcoves of a placement that do not stand on a core. -/
def awayAlcoves (d : Device) (g : Grid) (c : Nat) : List Nat := (affinities d g).filter fun i => !alcoveHere d i c

/-- The runs of granules that a placement on a core needs: the block's, and those of the alcoves to be refilled there. -/
def granuleNeeds (d : Device) (g : Grid) (c : Nat) : List Nat :=
  g.lpb.granules :: (awayAlcoves d g c).map fun i => alcSize (alcOf d i)

/-- Whether a core has the granules of a placement free, with room for the alcoves to be refilled there. -/
def granulesFit (d : Device) (g : Grid) (c : Nat) : Bool :=
  (granulePlan (fun x => !granuleTaken d c x) (granuleNeeds d g c)).isSome

/-- The reference core of a placement (R39, step 2). -/
def placeRef (p : Placee) (g : Grid) : Nat :=
  match p, g.undone with
  | .block _ pos, e :: _ => if e.1 = pos then e.2 else g.refCore
  | _, _ => g.refCore

/-- The cores of a placement in the DFE's order of choice that fit but, perhaps, for granules. -/
def coreChoices (d : Device) (p : Placee) (g : Grid) : List Nat :=
  let ref := placeRef p g
  sortBy (fun a b => lexLt (coreRank d ref a) (coreRank d ref b)) ((eligibleCores d p g).filter fun c => fitsCore d g c)

/-- The register words, granules, tiles and metadata slots of a new block cleared (R33, R274). -/
def clearPlace (d : Device) (core : Nat) (rfs : List Nat) (nrf gran ngran : Nat) (tiles : List Nat) : Device :=
  let h := hallOfCore core
  let inRf (k : Nat) : Bool := rfs.any fun rf => decide (core * 65536 + rf ≤ k) && decide (k < core * 65536 + rf + nrf)
  let lo := spadKey core (4096 * gran)
  let inSpad (k : Nat) : Bool := decide (lo ≤ k) && decide (k < lo + 4096 * ngran)
  let inAcc (k : Nat) : Bool := tiles.any fun t => decide (accKey h t 0 0 ≤ k) && decide (k < accKey h (t + 1) 0 0)
  let inMd (k : Nat) : Bool := tiles.any fun t =>
    decide (h * 65536 + slotBase t ≤ k) && decide (k < h * 65536 + slotBase (t + 1))
  { d with st := { d.st with
      rf := d.st.rf.filter fun e => !inRf e.1
      spad := d.st.spad.filter fun e => !inSpad e.1
      acc := d.st.acc.filter fun e => !inAcc e.1
      md := d.st.md.filter fun e => !inMd e.1
      poison := d.st.poison.filter fun e =>
        !((decide (e.1 = 4) && inSpad (4 * e.2)) || (decide (e.1 = 6) && inAcc e.2) ||
          (decide (e.1 = 7) && inMd (4 * e.2))) } }

/-- The generator seeds of a wave (R114). -/
def seedLfsr (core slot width : Nat) : Tbl W32 :=
  (List.range width).map fun l => (l, lfsrOf (0x6A09E667 ^^^ BitVec.ofNat 32 (core * 4096 + slot * 64 + l)))

/-- A wave as it starts (R33). -/
def startWave (bid : Nat) (b : Block) (g : Grid) (disp i slot rf : Nat) (s2 : W64) : Wave :=
  let w := g.lpb.width
  { block := bid, widx := i, width := w, ctx := g.ctx, prio := g.lpb.prio, disp := disp, nstk := 8 * g.lpb.stack, rfbase := rf
    pos := { paths := [{ pc := g.lpb.entry, depth := 0, mask := fullMask w, yielded := false, fresh := false }], run := 0
             clpos := 0, hdr := none, yieldDue := false, yrank := false, begun := false, haltDue := 0 }
    sregs := [(0, g.lpb.args), (1, b.linear), (2, s2), (3, BitVec.ofNat 64 i), (4, BitVec.ofNat 64 b.dpos)], preds := []
    tokPend := 0, tokOrph := 0, lfsr := seedLfsr b.core slot w, wb := [], old := [], fflags := 0, fmode := 0
    trap := blankTrap, cnt := blankCount, gfx := blankGfx, resv := [], ops := [], nextOp := 1, fenced := none, arw := none
    halted := false, parked := none, walkFaults := [] }

/-- A block as it is placed (R40): core, first slot, first granule and tiles. -/
def newBlock (d : Device) (gid : Nat) (g : Grid) (core slot gran linear pos ref : Nat) (pixel : Bool) : Block :=
  let tiles := (freeTiles d (hallOfCore core)).take g.lpb.acct
  { grid := gid, ctx := g.ctx, core := core, slot0 := slot, nwaves := g.lpb.nwaves + 1, linear := BitVec.ofNat 64 linear
    dpos := pos, ref := ref, sgran := gran, ngran := g.lpb.granules, freed := [], acct := g.lpb.acct
    mmap := BitVec.ofNat 48 (((List.range tiles.length).zip tiles).map fun e => e.2 * 16 ^ e.1).sum, bregs := [], bwritten := 0
    bnotes := [], preq := recordClass d (hallOfCore core) g.lpb.perf.toNat, grains := g.lpb.grains, current := g.lpb.current, attach := []
    pixel := pixel, ended := false }

/-- The budgets and the target class of a hall after a block has come or gone (R333, R338, R340). -/
def hallChanged (d : Device) (h : Nat) : Device := retarget (refreshIrem d h) (flightNo h)

/-- The 192 bytes of a triangle's attribute block (R300). -/
def attrBlock (t : Triangle) : List Byte :=
  t.verts.flatMap fun v => (List.range 16).flatMap fun a => leBytes 4 (v.attrs.getD a 0).toNat

/-- A pixel wave's start (R300): registers of its lanes, the attribute area, helper lanes and inputs. -/
def startPixel (d : Device) (core slot : Nat) (b : Block) (seq : W64) (p : PixPending) : Device :=
  let base := sbaseOf b
  let ts := (List.range p.wave.tris.length).zip p.wave.tris
  let d1 := ts.foldl (fun d e => spadWrite d core (base + 192 * e.1) (attrBlock e.2)) d
  match waveOf d1 core slot with
  | none => d1
  | some w =>
    let put (d : Device) (e : Nat × PixLane) : Device :=
      let k := e.2
      let t := p.wave.tris[k.tri]?
      let vs := [BitVec.ofNat 32 (k.x + 65536 * k.y), k.b1, k.b2, k.depth, BitVec.ofNat 32 (base + 192 * k.tri),
        (t.map (·.prim)).getD 0]
      ((List.range 6).zip vs).foldl (fun d x => vset d core w e.1 x.1 x.2) d
    modWave (p.wave.lanes.foldl put d1) core slot fun w =>
      { w with
        sregs := (tblSet w.sregs 1 seq).filter fun e => decide (e.1 < 2)
        pos := { w.pos with paths := w.pos.paths.map fun x => { x with mask := p.mask } }
        gfx := { w.gfx with helper := p.helper, pix := some p.wave } }

/-- The grid and the draw after a placement (R36, R40). -/
def notePlaced (d : Device) (p : Placee) (core : Nat) : Device :=
  let seen (g : Grid) : Grid :=
    { g with waited := 0, tried := none, cores := if g.cores.contains core then g.cores else g.cores ++ [core] }
  match p with
  | .block g _ =>
    modGrid d g fun x =>
      let y := seen x
      match y.undone with
      | e :: t =>
        { y with undone := t.map fun x => if x.1 = e.1 + 1 then (x.1, core) else x
                 refCore := if e.1 + 1 = y.nextPos then core else y.refCore }
      | [] => { y with nextPos := y.nextPos + 1, refCore := core }
  | .pixel geo x =>
    modDraw (modGrid d x.grid fun g => { seen g with refCore := core }) geo fun w =>
      { w with pending := w.pending.drop 1, pixelBlocks := w.pixelBlocks + 1, tried := false }

/-- A placement on a core (R33, R40, R84, R86, R300): every resource together, granules of the alcoves to be refilled
included, the budgets debited, affinities attached, the waves started. The core keeps no line of L1 from before: what the
block's launch, a wait before it, an attachment or the draw's earlier writes order before it is seen (R87, R138, R304,
R349). `room` holds the slot and the first register word of each wave, `refills` alcoves with their granules. -/
def placeOn (d0 : Device) (p : Placee) (g : Grid) (core : Nat) (room : List (Nat × Nat)) (gran : Nat)
    (refills : List (Nat × Nat)) : Device :=
  let d := refills.foldl (fun d e => modAlc d e.1 (refillAt core e.2)) d0
  let gid := placeGrid p
  let h := hallOfCore core
  let bid := d.nextId
  let pixel := match p with | .pixel _ _ => true | _ => false
  let pos := match p with | .block _ n => n | _ => 0
  let ix := if pixel then (0, 0, 0) else blockIndex g.lpb pos
  let slot := ((room.head?).map (·.1)).getD 0
  let b := newBlock d gid g core slot gran (if pixel then 0 else linearIndex g.lpb ix) pos (placeRef p g) pixel
  let tiles := (freeTiles d h).take g.lpb.acct
  let d1 := clearPlace { d with nextId := bid + 1, served := g.queue, blocks := tblSet d.blocks bid b } core (room.map (·.2))
    g.lpb.waveWords gran b.ngran tiles
  let s2 := BitVec.ofNat 64 (ix.1 % 2 ^ 32 * 2 ^ 32 + ix.2.1 % 65536 * 65536 + ix.2.2 % 65536)
  let d2 := modCore d1 core fun k =>
    { k with waves := ((List.range room.length).zip room).foldl (fun t e =>
        tblSet t e.2.1 (startWave bid b g (hallOf d h).cycle e.1 e.2.1 e.2.2 s2)) k.waves }
  let d3 := (affinities d g).foldl (fun d i => attachBlock d bid i true) d2
  let d4 := modPw (l1Acquire d3 core) h fun q => { q with erem := q.erem - g.lpb.grains }
  let d5 := match p with | .pixel _ x => startPixel d4 core slot b g.seq x | _ => d4
  hallChanged (notePlaced d5 p core) h

/-- A placement tried on a core that is chosen: it waits for the evictions of alcoves that move there, and for those that
free its granules; then everything is taken together (R39, R40, R85, R86). -/
def placeTry (d : Device) (p : Placee) (g : Grid) (core : Nat) : Device :=
  let away := awayAlcoves d g core
  let later := away.filter fun i => decide ((alcOf d i).state ≠ 2) || (alcOf d i).busy
  if later ≠ [] then later.foldl (fun d i => bringAlcove d i core []) d
  else
    match waveRoom (coreOf d core) g.lpb with
    | none => d
    | some room =>
      match takeGranules d core (granuleNeeds d g core) [] (affinities d g) with
      | .wait d1 => d1
      | .runs gs => placeOn d p g core room (gs.headD 0) (away.zip (gs.drop 1))

/-- The core that a placement goes to, or the one that lacks granules alone: evictions begin there (R85). -/
def placeCore (d : Device) (p : Placee) (g : Grid) : Option (Nat × Bool) :=
  let cs := coreChoices d p g
  match cs.find? fun c => granulesFit d g c with
  | some c => some (c, true)
  | none => cs.head?.map fun c => (c, false)

/-- Whether the choice of a core for a placement has failed and is not yet due again (R39). -/
def placeTried (d : Device) (p : Placee) : Bool :=
  match p with
  | .block gid pos => (tblFind d.grids gid).any fun g => decide (g.tried = some pos)
  | .pixel geo _ => (tblFind d.grids geo).any fun g => g.draw.tried

/-- A placement for which no core was admissible: it waits for the next control interval, or for a block's retirement (R39). -/
def noteTried (d : Device) (p : Placee) : Device :=
  match p with
  | .block gid pos => modGrid d gid fun g => { g with tried := some pos }
  | .pixel geo _ => modDraw d geo fun w => { w with tried := true }

/-- A block has left a core: the choices that failed are due again where the core is eligible for them (R39). -/
def retryCore (core : Nat) (d : Device) : Device :=
  let due (p : Placee) : Bool := match tblFind d.grids (placeGrid p) with | some g => (eligibleCores d p g).contains core | none => true
  { d with grids := tblMap (fun gid g =>
      let block := g.tried.any fun pos => due (.block gid pos)
      let pixel := (g.draw.pending.head?).any fun x => due (.pixel gid x)
      { g with tried := if block then none else g.tried
               draw := { g.draw with tried := g.draw.tried && !pixel } }) d.grids }

/-- The order in which queues place on one core (R36): priority, then round-robin after the queue served last. -/
def queueRank (d : Device) (q : Nat) : List Nat := [3 - (queueOf d q).prio.toNat, (q + 255 - d.served) % 256]

/-- Whether a queue could place something on a core. -/
def couldPlace (d : Device) (core q : Nat) : Bool :=
  ((placees d q).filter fun p => !placeTried d p).any fun p =>
    match tblFind d.grids (placeGrid p) with
    | some g => (coreChoices d p g).contains core && granulesFit d g core
    | none => false

/-- Whether a queue that comes first could place on a core (R36). -/
def outranked (d : Device) (q core : Nat) : Bool :=
  d.queues.any fun e => decide (e.1 ≠ q) && lexLt (queueRank d e.1) (queueRank d q) && couldPlace d core e.1

/-- A queue's placements tried in order; one that has failed is not tried again before it is due (R39). -/
def placeFirst (d : Device) (q : Nat) : List Placee → Device
  | [] => d
  | p :: t =>
    if placeTried d p then placeFirst d q t
    else
      match tblFind d.grids (placeGrid p) with
      | none => d
      | some g =>
        match placeCore d p g with
        | none => placeFirst (noteTried d p) q t
        | some (core, fits) => if fits && outranked d q core then d else placeTry d p g core

/-- BLOCK_PLACE (R36, R39, R40, R296): a queue's next block or pixel wave is placed. -/
def execBlockPlace (queue : Nat) (s : State) : Out State := runDevice (fun d => placeFirst d queue (placees d queue)) s

/-- STARVED_GRID_REPORT (R434). -/
def starvedReport (d : Device) (gid : Nat) : Device :=
  match tblFind d.grids gid with
  | none => d
  | some g =>
    if g.waited < 65536 then d
    else
      let pos := ((g.undone.head?).map (·.1)).getD g.nextPos
      modGrid (telemetryPut d (.launch g.queue) 8 (openTel 8 0) (768 + g.queue) (linearIndex g.lpb (blockIndex g.lpb pos))) gid
        fun x => { x with waited := x.waited - 65536 }

/-- STARVED_GRID_REPORT. -/
def execStarvedGridReport (grid : Nat) (s : State) : Out State := runDevice (fun d => starvedReport d grid) s

/-! ## Retirement and the end of a grid (R48, R49, R294) -/

/-- Whether an operation that a block started is still in progress (R48): in a wave, a copy queue, the reservation table or
the regroup unit. -/
def blockBusy (d : Device) (bid : Nat) (b : Block) : Bool :=
  let h := hallOf d (hallOfCore b.core)
  ((coreOf d b.core).waves.any fun e => decide (e.2.block = bid) && (decide (e.2.ops ≠ []) ||
    e.2.gfx.rays.any fun r => r.2.flying)) ||
  (h.cq.any fun q => q.2.any fun o => decide (o.block = bid)) ||
  (h.mat.any fun e => decide (e.block = bid) && e.staging.isNone) ||
  (h.bins.any fun x => x.rows.any fun r => decide (r.block = bid)) ||
  (!b.ended && h.staging.any fun x => x.rows.any fun r => decide (r.block = bid))

/-- Whether every wave of a block has ended (R43). -/
def wavesEnded (d : Device) (bid : Nat) (b : Block) : Bool :=
  (coreOf d b.core).waves.all fun e => decide (e.2.block ≠ bid) || decide (e.2.pos.paths = [])

/-- A block's waves leave their slots; walks no longer wait for them. DBG, which the APC writes, stays (R6, R211). -/
def freeSlots (d : Device) (bid core : Nat) : Device :=
  let mine := ((coreOf d core).waves.filter fun e => decide (e.2.block = bid)).map (·.1)
  let d1 := modCore d core fun k =>
    { mine.foldl (fun k s => unbindSlot s k) k with
      waves := k.waves.filter fun e => decide (e.2.block ≠ bid) }
  { d1 with walks := tblMap (fun _ w =>
      { w with waiters := w.waiters.filter fun e => !(decide (e.1 = core) && mine.contains e.2) }) d1.walks }

/-- A block gone from its core: slots, registers, granules outside alcoves, tiles, attachments and budget (R48, R338). -/
def removeBlock (d : Device) (bid : Nat) (b : Block) : Device :=
  let d1 := releaseAttachments (freeSlots d bid b.core) bid
  hallChanged { d1 with blocks := tblErase d1.blocks bid } (hallOfCore b.core)

/-- A block counted as retired: for its grid, or for the draw of a pixel kernel's grid (R48, R294). -/
def countRetired (d : Device) (b : Block) : Device :=
  match tblFind d.grids b.grid with
  | none => d
  | some g =>
    match g.parent with
    | some geo =>
      modGrid d geo fun x =>
        { x with draw := { x.draw with pixelBlocks := x.draw.pixelBlocks - 1 }, bad := x.bad || g.bad }
    | none => modGrid d b.grid fun x => { x with retired := x.retired + 1 }

/-- BLOCK_RETIRE (R48). -/
def blockRetire (d : Device) (bid : Nat) : Device :=
  match tblFind d.blocks bid with
  | none => d
  | some b =>
    if blockBusy d bid b || !wavesEnded d bid b then d else retryCore b.core (countRetired (removeBlock d bid b) b)

/-- BLOCK_RETIRE. -/
def execBlockRetire (block : Nat) (s : State) : Out State := runDevice (fun d => blockRetire d block) s

/-- The grids of a launch: its own and those of its pixel kernels. -/
def gridFamily (d : Device) (gid : Nat) : List Nat :=
  (d.grids.filter fun e => decide (e.1 = gid) || decide (e.2.parent = some gid)).map (·.1)

/-- The cores of a launch flushed (R49, step 1): their L1 copies are gone. -/
def flushCores (d : Device) (fam : List Nat) : Device :=
  let cs := (d.grids.filter fun e => fam.contains e.1).flatMap fun e => e.2.cores
  cs.foldl (fun d c => modCore d c fun k => { k with l1 := [] }) d

/-- Whether every part of a launch is over (R49, R294). -/
def gridOver (g : Grid) : Bool := drawSettled g && decide (g.draw.frags = []) && decide (g.draw.changed = [])

/-- GRID_COMPLETE (R49, R83, R294, R383): cores flushed, LAUNCH alcoves ended, the signal written, the next entry free to
begin. -/
def gridComplete (d : Device) (gid : Nat) : Device :=
  match tblFind d.grids gid with
  | none => d
  | some g =>
    if g.parent.isSome || !gridOver g then d
    else
      let fam := gridFamily d gid
      let d1 := flushCores d fam
      let mine := d1.alcoves.filter fun e => decide (e.2.life = 0) && fam.contains e.2.grid && decide (e.2.state ≠ 0)
      let d2 := mine.foldl (fun d e => alcEnd d e.1) d1
      let d3 := writeSignal d2 g.queue g.ctx g.lpb (markBad g.bad g.seq)
      let d4 := modQueue d3 g.queue fun k =>
        { k with lastCore := g.refCore, head := if k.head = some (.grid gid) then none else k.head }
      { d4 with grids := d4.grids.filter fun e => !fam.contains e.1 }

/-- GRID_COMPLETE. -/
def execGridComplete (grid : Nat) (s : State) : Out State := runDevice (fun d => gridComplete d grid) s

end Sys2Proof.Machine
end

