-- ==== Sys2Proof/Machine/Regroup.lean ====
section
/-! DEFINITION. Neural calls, the regroup unit and the weight cache (R284 to R293, R421 to R423). -/

namespace Sys2Proof.Machine

/-! ## The weight cache (R291) -/

/-- The line of a hall's weight cache that holds a context's address. -/
def wFind (h : Hall) (ctx line : Nat) : Option WLine := h.wlines.find? fun l => decide (l.ctx = ctx ∧ l.line = line)

/-- The bytes of a set that a hall's weight cache holds; an absent line reads as nothing here. -/
def wBytes (h : Hall) (ctx va : Nat) (n : Nat) : List Byte :=
  (List.range n).map fun i =>
    match wFind h ctx (vaNat (va + i) / 128) with
    | some l => l.bytes.getD (vaNat (va + i) % 128) 0
    | none => 0

/-- A field of eight header bytes of a set. -/
def wWord (h : Hall) (ctx set off : Nat) : W64 := leW64 (wBytes h ctx (set + off) 8)

/-- The layers of a set whose header is resident (Table 10.5). -/
def wLayers (h : Hall) (ctx set : Nat) : Nat := field (wWord h ctx set 0) 0 2 + 1

/-- WFMT of a set (Table 10.5). -/
def wFmt (h : Hall) (ctx set : Nat) : Nat := field (wWord h ctx set 0) 2 2

/-- Outputs of a layer (Table 10.5). -/
def wOuts (h : Hall) (ctx set l : Nat) : Nat := field (wWord h ctx set (0x10 + 16 * l)) 18 6 + 1

/-- Inputs of a layer (R284). -/
def wIns (h : Hall) (ctx set l : Nat) : Nat :=
  if l = 0 then field (wWord h ctx set 0) 8 6 + 1 else wOuts h ctx set (l - 1)

/-- The width of a weight in bits. -/
def wWidth (h : Hall) (ctx set : Nat) : Nat := if wFmt h ctx set = 2 then 4 else 8

/-- The pitch of a layer's weight rows (R284). -/
def wPitch (h : Hall) (ctx set l : Nat) : Nat := packedPitch (wIns h ctx set l) (wWidth h ctx set)

/-- The byte ranges of a set past its header: weights, biases and scales (R284). -/
def wRanges (h : Hall) (ctx set : Nat) : List (Nat × Nat) :=
  (List.range (wLayers h ctx set)).flatMap fun l =>
    let o := wOuts h ctx set l
    let d0 := wWord h ctx set (0x10 + 16 * l)
    let d1 := wWord h ctx set (0x18 + 16 * l)
    [(field d0 32 32, o * wPitch h ctx set l), (field d1 32 32, 4 * o)] ++
      (if wFmt h ctx set = 2 then [(field d1 0 32, o * ceilDiv (wIns h ctx set l) 32)] else [])

/-- Whether a set is malformed (R423). -/
def wMalformed (h : Hall) (ctx set : Nat) : Bool :=
  decide (wFmt h ctx set = 3) || (List.range (wLayers h ctx set)).any fun l =>
    decide (field (wWord h ctx set (0x10 + 16 * l)) 32 32 % 16 ≠ 0) || decide (field (wWord h ctx set (0x18 + 16 * l)) 32 32 % 4 ≠ 0)

/-- The lines of a set whose header is resident: the header's, and where it is well formed those of its ranges (R292). -/
def wSetLines (h : Hall) (ctx set : Nat) : List Nat :=
  let body := if wMalformed h ctx set then [] else wRanges h ctx set
  listNub (fun a b => decide (a = b)) (((0, 0x50) :: body).flatMap fun r =>
    let lo := (set + r.1) / 128
    (List.range ((set + r.1 + r.2 - 1) / 128 + 1 - lo)).map fun i => vaNat ((lo + i) * 128) / 128)

/-- The header's line of a set. -/
def wHead (set : Nat) : Nat := vaNat set / 128

/-- The lines that a hall's pins keep (R292). -/
def wPinned (h : Hall) : List (Nat × Nat) :=
  (h.wsets.filter fun s => decide (0 < s.pins)).flatMap fun s => (wSetLines h s.ctx s.set.toNat).map fun l => (s.ctx, l)

/-- Lines that a weight cache holds: 1 MiB of 128 bytes (R291). -/
def wCapacity : Nat := 8192

/-- Lines that may be pinned: 768 KiB (R292). -/
def wPinCapacity : Nat := 6144

/-- The least recently used line that is not pinned leaves a full cache (R291). -/
def wEvict (h : Hall) : Hall :=
  if h.wlines.length < wCapacity then h
  else
    let pins := wPinned h
    match (h.wlines.reverse.find? fun l => !pins.contains (l.ctx, l.line)) with
    | none => h
    | some v => { h with wlines := h.wlines.filter fun l => decide (l ≠ v) }

/-- A line noted as one of a set. -/
def wOfSet (set : VA) (l : WLine) : WLine := { l with sets := if l.sets.contains set then l.sets else set :: l.sets }

/-- A line of a set used: resident as the most recent, filled from L2 where it was not (R291). Poisoned bytes are not
kept. -/
def wFill (hall ctx : Nat) (set : VA) (line : Nat) (d : Device) : Except MFault Device :=
  match wFind (hallOf d hall) ctx line with
  | some l => .ok (modHall d hall fun h => { h with wlines := wOfSet set l :: h.wlines.filter fun x => decide (x ≠ l) })
  | none =>
    let g := hallAgent hall (ctxOf d ctx).sysctx
    match engineRead d ctx g.priv .plain (128 * line) 128 g with
    | .error f => .error f
    | .ok (bs, d1) =>
      if enginePoisoned d1 ctx (128 * line) 128 g then .error (xlateFault 0x44 (128 * line) (128 * line))
      else .ok (modHall d1 hall fun h =>
        let h1 := wEvict h
        { h1 with wlines := { sets := [set], ctx := ctx, line := line, bytes := bs } :: h1.wlines })

/-- Lines of a set used one after another. -/
def wFillAll (hall ctx : Nat) (set : VA) : List Nat → Device → Except MFault Device
  | [], d => .ok d
  | l :: t, d =>
    match wFill hall ctx set l d with
    | .error f => .error f
    | .ok d1 => wFillAll hall ctx set t d1

/-- A set's header used. -/
def wFillHead (hall ctx : Nat) (set : VA) (d : Device) : Except MFault Device := wFill hall ctx set (wHead set.toNat) d

/-- Every line of a set used: its header first (R292, R423). -/
def wFillSet (hall ctx : Nat) (set : VA) (d : Device) : Except MFault Device :=
  match wFillHead hall ctx set d with
  | .error f => .error f
  | .ok d1 => wFillAll hall ctx set (wSetLines (hallOf d1 hall) ctx set.toNat) d1

/-- The pin state of a set. -/
def wPinOf (h : Hall) (ctx : Nat) (set : VA) : WSet :=
  (h.wsets.find? fun s => decide (s.ctx = ctx ∧ s.set = set)).getD { ctx := ctx, set := set, pins := 0, pfail := false }

/-- A set's pin state replaced; a blank one is not listed. -/
def wPinPut (s : WSet) (h : Hall) : Hall :=
  let rest := h.wsets.filter fun x => decide (x.ctx ≠ s.ctx ∨ x.set ≠ s.set)
  { h with wsets := if s.pins = 0 ∧ !s.pfail then rest else rest ++ [s] }

/-- WPIN's count (R292): one more, or PFAIL where the hall's pinned lines would exceed their room. -/
def wPin (ctx : Nat) (set : VA) (h : Hall) : Hall :=
  let s := wPinOf h ctx set
  let more := listNub (fun a b => decide (a = b)) (wPinned h ++ (wSetLines h ctx set.toNat).map fun l => (ctx, l))
  if wPinCapacity < more.length then wPinPut { s with pfail := true } h
  else wPinPut { s with pins := min 65535 (s.pins + 1), pfail := false } h

/-! ## The words on weight sets -/

/-- The Weight Set Table entries of handles, read by the wave's lanes as loads (R123, R284, R398), with the die after them, or
what the word does instead. -/
def wEntries (v : View) (all : Option Mask) (hs : List (Nat × Nat)) : Except Eff (List (Nat × W64) × Device) :=
  match checkLanes v { rd := true, w := false, x := false } .plain all
      (hs.map fun e => (e.1, vaNat (v.grid.lpb.wstbase.toNat + 8 * e.2), 8)) with
  | .wait d => .error (.hold d)
  | .trap t => .error (.trap t)
  | .ok ls =>
    let x := loadLanes v .plain 0 false ls v.d
    .ok (x.1.map fun e => (e.1, leW64 e.2), x.2)

/-- The handle of a weight word: bits [15:0] of its operand (R292). -/
def wHandle (v : View) (w : WordE) : Nat := field (src64 v w.x) 0 16

/-- The one entry that a weight word names, with the view after its read. -/
def wEntry (v : View) (ex : Mask) (w : WordE) : Except Eff (W64 × View) :=
  match wEntries v (some ex) [(v.lane0, wHandle v w)] with
  | .error e => .error e
  | .ok l => .ok ((l.1.headD (0, 0)).2, { v with d := l.2 })

/-- The checks of WPIN, WPREF and WUNPIN (R292). -/
def wChecks (w : WordE) (inv : Bool) : List Check :=
  [c13 (!(isS w.x || (match w.x with | .pos _ => true | .neg _ => true | _ => false))) 47, unusedField w.y 39,
   unusedField w.z 31, unusedField w.w 23, eSco w, eMod w,
   c14 (decide (w.sub ≠ 0) && !(inv && decide (w.sub = 1))) 10] ++ tokChecks w true

/-- A fill of a weight set as an operation of the wave: its number, whether it pins and has pinned, and the set. -/
def fillArgs (id : Nat) (pin pinned : Bool) (set : VA) : List W64 :=
  [BitVec.ofNat 64 id, BitVec.ofNat 64 (nat1 pin), BitVec.ofNat 64 (nat1 pinned), set.setWidth 64]

/-- A fill issued: a pin counts at once where the header can be read (R292). An entry with V = 0 names no set, and nothing is
filled (DESIGN CHOICE, log 143). -/
def issueFill (v : View) (w : WordE) (pin : Bool) (e : W64) : Eff :=
  if !e.getLsbD 63 then .done v.d .onward
  else
    let set : VA := e.setWidth 48
    let r : Device × Bool :=
      if pin then
        match wFillHead v.hall v.w.ctx set v.d with
        | .error _ => (v.d, false)
        | .ok d1 => (modHall d1 v.hall (wPin v.w.ctx set), true)
      else (v.d, false)
    let d := { r.1 with nextId := r.1.nextId + 1 }
    .done (v.put d fun x =>
      eStart w (pushOp .fill none [] (if w.te then some w.tok.toNat else none) 0 (fillArgs r.1.nextId pin r.2 set) x)) .onward

/-- WPIN (R292). -/
def jobWpin (w : WordE) : Job :=
  eJob 0x20 w [w.x] (fun _ => wChecks w false) fun v ex =>
    match wEntry v ex w with | .error e => e | .ok e => issueFill e.2 w true e.1
/-- WPIN (R292): its step. -/
def execWpin (w : WordE) (s : State) : Out State := runJob (jobWpin w) s

/-- WPREF (R292). -/
def jobWpref (w : WordE) : Job :=
  eJob 0x21 w [w.x] (fun _ => wChecks w false) fun v ex =>
    match wEntry v ex w with | .error e => e | .ok e => issueFill e.2 w false e.1
/-- WPREF (R292): its step. -/
def execWpref (w : WordE) (s : State) : Out State := runJob (jobWpref w) s

/-- WUNPIN's change (R292): one pin fewer, or with `.inv` no pin and no line of the set: neither those of its lines, `lines`,
nor any that was filled for it. -/
def wUnpin (ctx : Nat) (set : VA) (inv : Bool) (lines : List Nat) (h : Hall) : Hall :=
  let s := wPinOf h ctx set
  if inv then
    let h1 := wPinPut { s with pins := 0 } h
    { h1 with wlines := h1.wlines.filter fun l =>
        !(decide (l.ctx = ctx) && (l.sets.contains set || lines.contains l.line)) }
  else wPinPut { s with pins := s.pins - 1 } h

/-- The lines of a set with its header read where the cache does not hold it. -/
def wLinesOf (d : Device) (hall ctx : Nat) (set : VA) : List Nat :=
  match wFillHead hall ctx set d with
  | .error _ => []
  | .ok d1 => wSetLines (hallOf d1 hall) ctx set.toNat

/-- WUNPIN (R292): the change is made at the word, so a token is idle again at once (log 49). An entry with V = 0 names no set,
and nothing changes (DESIGN CHOICE, log 143). -/
def jobWunpin (w : WordE) : Job :=
  eJob 0x22 w [w.x] (fun _ => wChecks w true) fun v ex =>
    match wEntry v ex w with
    | .error e => e
    | .ok (e, v1) =>
      let set : VA := e.setWidth 48
      if e.getLsbD 63 then
        .done (modHall v1.d v.hall (wUnpin v.w.ctx set (w.sub.getLsbD 0) (wLinesOf v1.d v.hall v.w.ctx set))) .onward
      else .done v1.d .onward
/-- WUNPIN (R292): its step. -/
def execWunpin (w : WordE) (s : State) : Out State := runJob (jobWunpin w) s

/-- The lines from the first to the last byte of a set, as a source range of a neural call (R132, R135): its header's line
alone where the header cannot be read or is malformed. -/
def wSpan (d : Device) (hall ctx : Nat) (set : VA) : Nat × Nat :=
  let lo := wHead set.toNat
  match wFillHead hall ctx set d with
  | .error _ => (lo, lo)
  | .ok d1 =>
    let h := hallOf d1 hall
    if wMalformed h ctx set.toNat then (lo, lo)
    else (lo, (set.toNat + ((wRanges h ctx set.toNat).map fun r => r.1 + r.2 - 1).foldl max 0x4F) / 128)

/-- The state of a weight set that WSTAT reads (Table 10.6). -/
def wStatus (d : Device) (hall ctx : Nat) (e : W64) : W64 :=
  if !e.getLsbD 63 then 0
  else
    let set : VA := e.setWidth 48
    let ls := wLinesOf d hall ctx set
    let here := ls.filter fun l => (wFind (hallOf d hall) ctx l).isSome
    let s := wPinOf (hallOf d hall) ctx set
    BitVec.ofNat 64 (128 * here.length * 2 ^ 32 + s.pins * 2 ^ 16 +
      nat1 (decide (ls ≠ []) && decide (here.length = ls.length)) * 4 + nat1 s.pfail * 2 + 1)

/-- WSTAT (R293). -/
def jobWstat (w : WordE) : Job :=
  eJob 0x23 w [w.x, w.y] (fun _ => [sregCheck w.x 47, sregCheck w.y 39, unusedField w.z 31, unusedField w.w 23,
      eSco w, c14 (decide (w.sub ≠ 0)) 10] ++ tokChecks w false) fun v ex =>
    match wEntry v ex w with
    | .error e => e
    | .ok (e, v1) =>
      .done (v.put v1.d (pushOp .query (windowOf (some w.hd.md))
        [(.sreg (regNo w.y), wStatus v1.d v.hall v.w.ctx e)] none 0 [w.toBits 0x23])) .onward
/-- WSTAT (R293): its step. -/
def execWstat (w : WordE) (s : State) : Out State := runJob (jobWstat w) s

/-- The fill by a number in the waves of a hall: core, slot and operation. -/
def findFill (d : Device) (hall id : Nat) : Option (Nat × Nat × LongOp) :=
  ((List.range 4).flatMap fun c =>
    (coreOf d (4 * hall + c)).waves.flatMap fun e =>
      (e.2.ops.filter fun o => decide (o.kind = .fill) && decide (o.args.headD 0 = BitVec.ofNat 64 id)).map fun o =>
        (4 * hall + c, e.1, o)).head?

/-- A fill that meets a fault: parked, or abandoned with a record, its token orphaned (log 14). -/
def failFill (d : Device) (hall core slot : Nat) (o : LongOp) (f : MFault) : Device :=
  match waveOf d core slot with
  | none => d
  | some w =>
    match tblFind d.blocks w.block with
    | none => d
    | some b =>
      if engParks d w.ctx f then parkEngine d (.regroup hall) w.ctx f (blockWhere b)
      else
        let d1 := faultRecord d (.regroup hall) w.ctx f.cause false 0 (engInfo f) (blockWhere b)
        modWave d1 core slot fun w =>
          let w1 := dropOp o.id w
          match o.tok with | some k => tokOrphan k w1 | none => w1

/-- WEIGHT_FILL_COMPLETE (R292): every line of the set is resident, or the pin failed. -/
def fillComplete (d : Device) (hall id : Nat) : Device :=
  match findFill d hall id with
  | none => d
  | some (c, slot, o) =>
    match waveOf d c slot with
    | none => d
    | some w =>
      let set : VA := (o.args.getD 3 0).setWidth 48
      let pin := decide (o.args.getD 1 0 = 1)
      let counted := decide (o.args.getD 2 0 = 1)
      match wFillHead hall w.ctx set d with
      | .error f => failFill d hall c slot o f
      | .ok d1 =>
        let d2 := if pin && !counted then modHall d1 hall (wPin w.ctx set) else d1
        if pin && (wPinOf (hallOf d2 hall) w.ctx set).pfail then completeKind d2 c slot .fill o.id
        else
          match wFillSet hall w.ctx set d2 with
          | .error f => failFill d hall c slot o f
          | .ok d3 => completeKind d3 c slot .fill o.id

/-- WEIGHT_FILL_COMPLETE (R292). -/
def execWeightFillComplete (hall op : Nat) (s : State) : Out State := runDevice (onHall hall fun d => fillComplete d hall op) s

/-! ## A network evaluated (R285) -/

/-- The activation format of a set. -/
def actFmt (wfmt : Nat) : Fmt := if wfmt = 1 then e5m2 else e4m3

/-- An activation (R285). -/
def activate (act : Nat) (x : FVal) : FVal × Flags :=
  match act, x with
  | 1, .num _ q => if 0 < q then (x, 0) else (.num false 0, 0)
  | 1, .inf n => if n then (.num false 0, 0) else (x, 0)
  | 2, .num n q => if 0 < q then (x, 0) else roundTo a80 .rne n (q / 8)
  | 3, .num _ q => if q < 0 then (.num false 0, 0) else if 1 < q then (.num false 1, 0) else (x, 0)
  | 3, .inf n => if n then (.num false 0, 0) else (.num false 1, 0)
  | _, _ => (x, 0)

/-- The weights of an output's row with their scales (R284). -/
def weightRow (h : Hall) (ctx set l j : Nat) : List FVal :=
  let n := wIns h ctx set l
  let fmt := wFmt h ctx set
  let bs := wBytes h ctx (set + field (wWord h ctx set (0x10 + 16 * l)) 32 32 + j * wPitch h ctx set l) (rowSpan n (wWidth h ctx set))
  let q := ceilDiv n 32
  let sc := if fmt = 2 then wBytes h ctx (set + field (wWord h ctx set (0x18 + 16 * l)) 0 32 + j * q) q else []
  (List.range n).map fun k =>
    eltValue (if fmt = 0 then 11 else if fmt = 1 then 12 else 13) (decide (fmt = 2)) (sc.getD (k / 32) 0) 0
      (codeAt (wWidth h ctx set) bs k)

/-- One output of a layer before rounding: pass, bias and activation (R285). -/
def layerOut (h : Hall) (ctx set l j : Nat) (u : List FVal) : FVal × Flags :=
  let p := accumulate (ceilDiv u.length 32) ((u.zip (weightRow h ctx set l j)).map fun e => mulF e.1 e.2) none
  let bias := BitVec.ofNat 32 (leNat (wBytes h ctx (set + field (wWord h ctx set (0x18 + 16 * l)) 32 32 + 4 * j) 4))
  let s := addF a80 .rne p.1 (f32 bias)
  let a := activate (field (wWord h ctx set (0x10 + 16 * l)) 16 2) s.1
  (a.1, p.2 ||| s.2 ||| a.2)

/-- A layer's outputs. -/
def layerOuts (h : Hall) (ctx set l : Nat) (u : List FVal) : List (FVal × Flags) :=
  (List.range (wOuts h ctx set l)).map fun j => layerOut h ctx set l j u

/-- The flags of several values. -/
def allFlags (l : List (FVal × Flags)) : Flags := l.foldl (fun f x => f ||| x.2) 0

/-- The layers of a network from one on (R285). -/
def evalLayers (h : Hall) (ctx set : Nat) : Nat → Nat → List FVal → Flags → List FVal × Flags
  | 0, _, u, f => (u, f)
  | n + 1, l, u, f =>
    let hs := layerOuts h ctx set l u
    if n = 0 then (hs.map (·.1), f ||| allFlags hs)
    else
      let next := hs.map fun x => convF (actFmt (wFmt h ctx set)) .rne true x.1
      evalLayers h ctx set n (l + 1) (next.map (·.1)) (f ||| allFlags hs ||| allFlags next)

/-- A call row evaluated (R285): the outputs of the last layer as FP32, and the row's flags. -/
def evalRow (h : Hall) (ctx set : Nat) (inputs : List W32) : List W32 × Flags :=
  let u := (List.range (wIns h ctx set 0)).map fun k =>
    convF (actFmt (wFmt h ctx set)) .rne true (match inputs[k]? with | some x => f32 x | none => .num false 0)
  let r := evalLayers h ctx set (wLayers h ctx set) 0 (u.map (·.1)) (allFlags u)
  let ys := r.1.map fun x => convF fp32 .rne false x
  (ys.map fun y => f32Bits y.1, r.2 ||| allFlags ys)

/-- The hall cycles of a regroup pass (Table 10.1). -/
def regroupOccupancy (h : Hall) (ctx set : Nat) : Nat :=
  (List.range (wLayers h ctx set)).foldl (fun x l => x + max 8 (ceilDiv (wIns h ctx set l * 8) 32) + 4) 0

/-! ## The regroup unit -/

/-- A hall's regroup unit while rows are placed, with the next identifier. -/
abbrev Placing := Hall × Nat

/-- The bin of a weight set. -/
def binOf (h : Hall) (ctx : Nat) (set : VA) : Option Nat :=
  leastFrom (fun i => match h.bins[i]? with | some b => decide (b.ctx = ctx ∧ b.set = set) | none => false) h.bins.length 0

/-- The time at which a bin's oldest row entered. -/
def binAge (b : Bin) : Nat := match b.rows with | r :: _ => r.age | [] => 0

/-- Bins by number, oldest row first (R289). -/
def binsByAge (h : Hall) : List (Nat × Bin) :=
  sortBy (fun a b => lexLt [binAge a.2, a.1] [binAge b.2, b.1]) ((List.range h.bins.length).zip h.bins)

/-- A bin flushed into a staging buffer; none where all 16 are in use (R288, R289). -/
def flushBin (i : Nat) (p : Placing) : Option Placing :=
  match p.1.bins[i]? with
  | none => some p
  | some b =>
    if 16 ≤ p.1.staging.length then none
    else some ({ p.1 with
      bins := listDrop p.1.bins i
      staging := p.1.staging ++ [{ id := p.2, lock := b.lock, ctx := b.ctx, set := b.set, rows := b.rows
                                   cyc := p.1.cycle, posted := false }] }, p.2 + 1)

/-- A row into an open bin, after those that entered before it; the bin is flushed when full (R288). -/
def joinBin (i : Nat) (r : CallRow) (p : Placing) : Option Placing :=
  let h := { p.1 with bins := listMod p.1.bins i fun b => { b with rows := b.rows ++ [r] } }
  if 64 ≤ ((h.bins[i]?).map fun b => b.rows.length).getD 0 then flushBin i (h, p.2) else some (h, p.2)

/-- A call row with its weight set (R288) and the lines of the set. -/
structure RowIn where
  ctx : Nat
  set : VA
  span : Nat × Nat
  row : CallRow

/-- The range that a bin locks for its weight set, from its first row to the end of its pass (R132, R135; log 115). -/
def setLock (id : Nat) (x : RowIn) : RangeLock :=
  { op := id, queue := none, block := 0, dest := false, space := 0, ctx := x.ctx, lo := x.span.1, hi := x.span.2
    voided := false }

/-- A row placed (R288): its set's bin, a free bin, or the bin whose oldest row is oldest. A bin that opens needs a free
range-lock entry (R132). -/
def placeRow (x : RowIn) (p : Placing) : Option Placing :=
  match binOf p.1 x.ctx x.set with
  | some i => joinBin i x.row p
  | none =>
    let room : Option Placing :=
      if p.1.bins.length < 16 then some p
      else match binsByAge p.1 with | e :: _ => flushBin e.1 p | [] => some p
    match room with
    | none => none
    | some q =>
      if lockRoom q.1 1 then
        joinBin q.1.bins.length x.row (lockAll [setLock q.2 x]
          { q.1 with bins := q.1.bins ++ [{ lock := q.2, ctx := x.ctx, set := x.set, rows := [] }] }, q.2 + 1)
      else none

/-- Rows placed in order; none where one of them finds no staging buffer or range-lock entry (R132, R288). -/
def placeRows : List RowIn → Placing → Option Placing
  | [], p => some p
  | x :: t, p =>
    match placeRow x p with
    | none => none
    | some q => placeRows t q

/-- A word of format X with every field zero. -/
def blankX : WordX :=
  { hd := { g := { neg := false, p := 7 }, md := 0 }, mt := 0, mt2 := 0, a := .v 0, b := .v 0, c := .v 0, tok := 0
    cm := 0, sub := 0, src := 0 }

/-- The reservation entry of a flushed bin (R265). -/
def regroupEntry (h : Hall) (id : Nat) (s : Staging) : MatEntry :=
  { id := id, core := 0, slot := 0, block := 0, ctx := s.ctx, priv := false, wop := none, prio := 0, opc := 0x18
    word := blankX, opA := 0, opB := 0, desc0 := 0, desc1 := 0, arv := 0, image := [], tiles := []
    staging := some s.id, age := h.cycle, granted := false, order := 0, occEnd := 0, done := false, failed := false, flags := 0
    estat := 0, status := 0, parked := none, fetching := false }

/-- The rank of a flushed bin, least first (R289): the hall cycle of its flush, and in one cycle its oldest row, of rows of one
age that of the lower core, slot and lane. -/
def stageRank (s : Staging) : List Nat :=
  s.cyc :: (match s.rows with | r :: _ => [r.age, r.core, r.slot, r.lane] | [] => []) ++ [s.id]

/-- Flushed bins in the order in which they are taken (R289). -/
def stagedOrder (h : Hall) : List Staging := sortBy (fun a b => lexLt (stageRank a) (stageRank b)) h.staging

/-- Flushed bins post their entries in flush order while there is room (R265). -/
def postStaged : List Staging → Placing → Placing
  | [], p => p
  | s :: t, p =>
    if s.posted then postStaged t p
    else if 32 ≤ p.1.mat.length then p
    else
      let e := regroupEntry p.1 p.2 s
      postStaged t ({ p.1 with
        mat := p.1.mat ++ [e]
        staging := p.1.staging.map fun x => if x.id = s.id then { x with posted := true } else x }, p.2 + 1)

/-- A change of a hall's regroup unit, after which flushed bins post what they can. -/
def withUnit (d : Device) (hall : Nat) (f : Placing → Option Placing) : Option Device :=
  match f (hallOf d hall, d.nextId) with
  | none => none
  | some p =>
    let q := postStaged (stagedOrder p.1) p
    some (modHall { d with nextId := q.2 } hall fun _ => q.1)

/-! ## NCALL -/

/-- The handle of a lane's row (R286). -/
def laneHandle (v : View) (w : WordN) (l : Nat) : BitVec 16 := (vget v.d v.core v.w l (regNo w.h)).extractLsb' 0 16

/-- The call row of a lane (R287). -/
def laneRow (v : View) (w : WordN) (l : Nat) : CallRow :=
  { core := v.core, slot := v.slot, block := v.w.block, op := v.w.nextOp, lane := l, handle := laneHandle v w l
    inputs := (List.range (w.ni.toNat + 1)).map fun i => vget v.d v.core v.w l (regNo w.inp + i)
    dst := (List.range (w.no.toNat + 1)).flatMap fun i => (vWrites v (regNo w.out + i) [l] fun _ => 0).map (·.1)
    age := (hallOf v.d v.hall).cycle, outs := [], flags := 0 }

/-- The checks of NCALL (R286). -/
def ncallChecks (w : WordN) : List Check :=
  [c13 (!isV w.h) 47, c13 (!isV w.inp) 39, c13 (!isV w.out) 31, groupCheck w.inp (w.ni.toNat + 1) 39,
   groupCheck w.out (w.no.toNat + 1) 31, c14 (decide (w.low ≠ 0)) 7]

/-- A row to be placed, with the lines of its weight set. -/
def rowIn (d : Device) (hall ctx : Nat) (set : VA) (r : CallRow) : RowIn :=
  { ctx := ctx, set := set, span := wSpan d hall ctx set, row := r }

/-- The trap of a neural call whose weight set lies in a range that another operation writes (R132, R400). -/
def callBreach (v : View) (rows : List ((Nat × W64) × RowIn)) : Option Trap :=
  trapOfFaults none (rows.filterMap fun e =>
    (lockHit v.d v.hall (fun _ => false) 0 v.w.ctx e.2.span.1 e.2.span.2 false).map fun k =>
      (e.1.1, lockFault k false true (128 * e.2.span.1)))

/-- Whether rows of a word that issued in this hall cycle on a higher core have entered a hall's regroup unit: the words of one
cycle enter in ascending core index (R288), so another core's word waits. -/
def laterRows (h : Hall) (core : Nat) : Bool :=
  (h.bins.flatMap (·.rows) ++ h.staging.flatMap (·.rows)).any fun r => decide (r.age = h.cycle) && decide (core < r.core)

/-- NCALL (R286 to R288, R422). -/
def jobNcall (w : WordN) : Job :=
  { code := w.toBits 0x18, g := w.hd.g, lanes := .each
    refs := refsOf [w.h] ++ vRefs (regNo w.inp) (w.ni.toNat + 1) ++ vRefs (regNo w.out) (w.no.toNat + 1)
    tok := some w.tok, legal := fun _ => ncallChecks w
    act := fun v ex =>
      let ls := lanesOf v.width ex
      match wEntries v none (ls.map fun l => (l, (laneHandle v w l).toNat)) with
      | .error e => e
      | .ok (es, d0) =>
        let bad := (es.filter fun e => !e.2.getLsbD 63).map (·.1)
        match bad with
        | l :: _ => .trap (wordTrap v 0x52 (maskOf bad) (laneHandle v w l).toNat)
        | [] =>
          let rows := es.map fun e => rowIn d0 v.hall v.w.ctx (e.2.setWidth 48) (laneRow v w e.1)
          match callBreach v (es.zip rows) with
          | some t => .trap t
          | none =>
            if laterRows (hallOf v.d v.hall) v.core then .hold v.d
            else
            match withUnit d0 v.hall (placeRows rows) with
            | none => .hold v.d
            | some d =>
              .done (v.put d fun x => tokStart w.tok
                (pushOp .ncall (windowOf (some w.hd.md))
                  (rows.flatMap fun r => r.row.dst.map fun k => (k, 0)) (some w.tok.toNat) 0 [w.toBits 0x18] x)) .onward }
/-- NCALL (R286): its step. -/
def execNcall (w : WordN) (s : State) : Out State := runJob (jobNcall w) s

/-! ## Flushes and passes -/

/-- The open bins that may be flushed, oldest row first: rows of a context that is being saved are withdrawn instead
(R289, Table 2.4). -/
def freeBins (d : Device) (hall : Nat) : List (Nat × Bin) :=
  (binsByAge (hallOf d hall)).filter fun e => !(ctxOf d e.2.ctx).halting

/-- BIN_FLUSH_AGE (R289): the bin whose oldest row is oldest, once that row has waited 1,024 hall cycles, while a staging
buffer is free. -/
def flushAge (d : Device) (hall bin : Nat) : Device :=
  match freeBins d hall with
  | [] => d
  | e :: _ =>
    if e.1 ≠ bin ∨ (hallOf d hall).cycle < binAge e.2 + 1024 then d else (withUnit d hall (flushBin bin)).getD d

/-- BIN_FLUSH_AGE (R289). -/
def execBinFlushAge (hall bin : Nat) (s : State) : Out State := runDevice (onHall hall fun d => flushAge d hall bin) s

/-- Every open bin flushed, oldest row first, while staging buffers are free (R289). -/
def flushAll (d : Device) (hall : Nat) : Device :=
  let order := (freeBins d hall).map fun e => (e.2.ctx, e.2.set)
  order.foldl (fun d k =>
    match binOf (hallOf d hall) k.1 k.2 with
    | some i => (withUnit d hall (flushBin i)).getD d
    | none => d) d

/-- REGROUP_ENTRY_POST (R265). -/
def execRegroupEntryPost (hall : Nat) (s : State) : Out State :=
  runDevice (onHall hall fun d => (withUnit d hall some).getD d) s

/-- The staging buffer of an entry. -/
def stagingOf (h : Hall) (e : MatEntry) : Option Staging :=
  match e.staging with
  | none => none
  | some id => h.staging.find? fun s => decide (s.id = id)

/-- An entry and its staging buffer leave, and the range of its weight set is unlocked (R132). -/
def dropRegroup (e : MatEntry) (s : Staging) (h : Hall) : Hall :=
  unlockOp s.lock { h with mat := h.mat.filter fun x => decide (x.id ≠ e.id)
                           staging := h.staging.filter fun x => decide (x.id ≠ s.id) }

/-- The wave and operation of a row, where its word still waits for it. -/
def rowOp (d : Device) (r : CallRow) : Option LongOp :=
  match waveOf d r.core r.slot with
  | none => none
  | some w => if w.block = r.block then findOp w .ncall r.op else none

/-- A word with rows in a failed pass (R423): its registers are released, its token is orphaned, its record is written, but for
a block that has ended (R421). -/
def failWord (hall : Nat) (code : Nat) (d : Device) (r : CallRow) : Device :=
  match rowOp d r, tblFind d.blocks r.block with
  | some o, some b =>
    let info := BitVec.ofNat 64 (code + r.handle.toNat * 2 ^ 16)
    let d1 := if b.ended then d else faultRecord d (.regroup hall) b.ctx 0x56 false 0 info (blockWhere b)
    modWave d1 r.core r.slot fun w =>
      let w1 := dropOp o.id w
      match o.tok with | some k => tokOrphan k w1 | none => w1
  | _, _ => d

/-- A pass that fails (R423). -/
def failPass (d : Device) (hall : Nat) (e : MatEntry) (s : Staging) (code : Nat) : Device :=
  modHall (s.rows.foldl (failWord hall code) d) hall (dropRegroup e s)

/-- One lane of an operation that answers lane by lane is done: its registers are released, its flags collected, and the word's
token falls idle with its last lane (R290, R319). -/
def laneFree (o : LongOp) (dst : List RegLoc) (fl : Flags) (w : Wave) : Wave :=
  let o1 := { o with regs := o.regs.filter fun x => !dst.contains x
                     writes := o.writes.filter fun x => !dst.contains x.1, flags := o.flags ||| fl }
  if o1.regs = [] then
    let w1 := addFlags o1.flags (dropOp o.id w)
    match o.tok with | some k => tokIdle k w1 | none => w1
  else { w with ops := w.ops.map fun x => if x.id = o.id then o1 else x }

/-- Results of one lane of an operation that answers lane by lane: its registers are written, then released. -/
def laneDone (d : Device) (core slot block : Nat) (o : LongOp) (dst : List RegLoc) (vals : List W32) (fl : Flags) : Device :=
  modWave (((List.range dst.length).zip dst).foldl (fun d e =>
    locPut core slot block d (e.2, ((vals.getD e.1 0).setWidth 64))) d) core slot (laneFree o dst fl)

/-- Whether a block has been terminated. -/
def blockEnded (d : Device) (bid : Nat) : Bool := match tblFind d.blocks bid with | some b => b.ended | none => false

/-- A row's results (R290): those of a block that has ended are discarded (R421). -/
def rowDone (d : Device) (r : CallRow) : Device :=
  match rowOp d r with
  | none => d
  | some o =>
    if blockEnded d r.block then modWave d r.core r.slot (laneFree o r.dst 0)
    else laneDone d r.core r.slot r.block o r.dst r.outs r.flags

/-- A regroup entry granted (R423): its set's lines are fetched, and its rows evaluated; a fault parks or fails it. -/
def grantRegroup (d : Device) (hall : Nat) (e : MatEntry) (s : Staging) : Device :=
  let setE (f : MatEntry → MatEntry) (d : Device) : Device :=
    modHall d hall fun h => { h with mat := h.mat.map fun x => if x.id = e.id then f x else x }
  match wFillSet hall e.ctx s.set d with
  | .error f =>
    if engParks d e.ctx f then
      match s.rows.findSome? fun r => tblFind d.blocks r.block with
      | some b => setE (fun x => { x with parked := some (f.addr.setWidth 48) })
          (parkEngine d (.regroup hall) e.ctx f (blockWhere b))
      | none => setE (fun x => { x with parked := some (f.addr.setWidth 48) }) d
    else failPass (walkFailed e.ctx f d) hall e s f.cause.toNat
  | .ok d1 =>
    let h := hallOf d1 hall
    if wMalformed h e.ctx s.set.toNat then failPass d1 hall e s 0xFF
    else
      let rows := s.rows.map fun r =>
        let y := evalRow h e.ctx s.set.toNat r.inputs
        { r with outs := y.1, flags := y.2 }
      let put (h : Hall) : Hall :=
        { h with staging := h.staging.map fun x => if x.id = s.id then { x with rows := rows } else x }
      let far := (wSetLines h e.ctx s.set.toNat).any fun l => engRemote d1 e.ctx (.virt (128 * l)) 0
      setE (fun x => { x with granted := true, fetching := far, order := d1.nextId
                              occEnd := h.cycle + regroupOccupancy h e.ctx s.set.toNat })
        (modHall (unitStepped 4 hall { d1 with nextId := d1.nextId + 1 }) hall put)

/-- REGROUP_PASS_COMPLETE (R290). -/
def passComplete (d : Device) (hall op : Nat) : Device :=
  let h := hallOf d hall
  match h.mat.find? fun e => decide (e.id = op) && e.staging.isSome with
  | none => d
  | some e =>
    let earlier := h.mat.any fun x => x.staging.isSome && x.granted && decide (x.order < e.order)
    if !e.granted || e.fetching || decide (h.cycle < e.occEnd) || h.matHung || earlier then d
    else
      match stagingOf h e with
      | none => d
      | some s =>
        let d1 := unitStepped 4 hall (modHall (s.rows.foldl rowDone (modHall d hall (unlockOp s.lock))) hall (dropRegroup e s))
        (withUnit d1 hall some).getD d1

/-- REGROUP_PASS_COMPLETE (R290). -/
def execRegroupPassComplete (hall op : Nat) (s : State) : Out State := runDevice (onHall hall fun d => passComplete d hall op) s

end Sys2Proof.Machine
end

