-- ==== Sys2Proof/Machine/Ray.lean ====
section
/-! DEFINITION. Ray queries: structures, tests, traversal and the words on ray records (R311 to R321, R426). -/

namespace Sys2Proof.Machine

/-! ## Reading a structure -/

/-- What a step of a traversal meets instead of going on: a reason of R426, or a memory fault. -/
inductive RayBad where
  | reason (n : Nat)
  | fault (f : MFault)

/-- Bytes of a ray structure, read through L2 (R319); poisoned bytes are a memory fault. -/
def rayRead (d : Device) (ctx hall va n : Nat) : Except RayBad (List Byte × Device) :=
  let g := hallAgent hall (ctxOf d ctx).sysctx
  match engineRead d ctx g.priv .plain va n g with
  | .error f => .error (.fault f)
  | .ok (bs, d1) =>
    if enginePoisoned d1 ctx va n g then .error (.fault (xlateFault 0x44 va va)) else .ok (bs, d1)

/-- A 32-bit word of bytes. -/
def leW32 (bs : List Byte) (off : Nat) : W32 := BitVec.ofNat 32 (leNat ((bs.drop off).take 4))

/-- The structure header (R311): root, geometry table, number of entries. -/
structure RayHead where
  root : Nat
  gtab : Nat
  ngeom : Nat

/-- The header of a query's structure (R311, R426). -/
def rayHead (d : Device) (ctx hall : Nat) (va : VA) : Except RayBad (RayHead × Device) :=
  if va.toNat % 128 ≠ 0 then .error (.reason 3)
  else
    match rayRead d ctx hall va.toNat 32 with
    | .error e => .error e
    | .ok (bs, d1) =>
      let h : RayHead := { root := field (leW64 bs) 0 48, gtab := field (leW64 (bs.drop 8)) 0 48
                           ngeom := field (leW64 (bs.drop 16)) 0 16 }
      if h.root % 128 ≠ 0 ∨ h.gtab % 16 ≠ 0 then .error (.reason 3) else .ok (h, d1)

/-! ## Boxes (R312, R315) -/

/-- A finite value's rational. -/
def finite? : FVal → Option Rat
  | .num _ x => some x
  | _ => none

/-- The interval of a box on an axis, widened by so many quanta (R312, R315): origin, quantum and the 12-bit bounds. -/
def boxSpan (o : Rat) (q : Rat) (lo hi : Nat) (wide : Rat) : Rat × Rat := (o + (lo - wide) * q, o + (hi + 1 + wide) * q)

/-- The bounds on t that a slab puts on a ray: lower bounds, upper bounds; none where it misses. -/
def slab (o d : Rat) (s : Rat × Rat) : Option (List Rat × List Rat) :=
  if d = 0 then if s.1 ≤ o ∧ o ≤ s.2 then some ([], []) else none
  else
    let a := (s.1 - o) / d
    let b := (s.2 - o) / d
    some ([min a b], [max a b])

/-- The entry distance at which a segment enters a box, where it meets it: the greatest lower bound (R315). -/
def boxEnter (os ds : List Rat) (spans : List (Rat × Rat)) (lows highs : List Rat) : Option Rat :=
  let parts := (os.zip (ds.zip spans)).map fun e => slab e.1 e.2.1 e.2.2
  if parts.any Option.isNone then none
  else
    let ps := parts.filterMap id
    let lo := lows ++ ps.flatMap (·.1)
    let hi := highs ++ ps.flatMap (·.2)
    match lo with
    | [] => some 0
    | x :: t =>
      let e := t.foldl max x
      if hi.all fun h => decide (e ≤ h) then some e else none

/-- A bound of a segment as a list of rationals; a bound that no finite t meets is none. -/
def segBound (v : FVal) (lower : Bool) : Option (List Rat) :=
  match v with
  | .num _ x => some [x]
  | .inf n => if n = lower then some [] else none
  | .nan _ => none

/-- The box test of a child (R315): whether it is hit, with its entry distance. Between the exact and the enlarged box
the answer is free (log 8). -/
def boxTest (node child : Nat) (os ds : List FVal) (lo hi : FVal) (orig quanta : List FVal) (bounds : List (Nat × Nat)) :
    Option Rat :=
  match segBound lo true, segBound hi false with
  | some lows, some highs =>
    if (os ++ ds ++ orig ++ quanta).all fun v => (finite? v).isSome then
      let r (l : List FVal) : List Rat := l.map fRat
      let spans (w : Rat) : List (Rat × Rat) :=
        ((r orig).zip ((r quanta).zip bounds)).map fun e => boxSpan e.1 e.2.1 e.2.2.1 e.2.2.2 w
      let wide := boxEnter (r os) (r ds) (spans 1) lows highs
      let part : Rat := ((Config.boxEntry node child).toNat : Rat) / 256
      match boxEnter (r os) (r ds) (spans 0) lows highs, wide with
      | some x, some y => some (y + (x - y) * part)
      | some x, none => some x
      | none, some y => if Config.boxNear node child then some (y + part) else none
      | none, none => none
    else if (orig ++ quanta).all fun v => (finite? v).isSome then
      if Config.boxNear node child then some ((Config.boxEntry node child).toNat : Rat) else none
    else none
  | _, _ => none

/-- The children of a node that a segment hits, nearest first (R317); KIND 3 is an error (R426). -/
def nodeHits (node : Nat) (bs : List Byte) (os ds : List FVal) (lo hi : FVal) : Except RayBad (List RayItem) :=
  let w0c := leW32 bs 0x0C
  let orig := (List.range 3).map fun a => f32 (leW32 bs (4 * a))
  let quanta := (List.range 3).map fun a => FVal.num false (pow2 ((field (w0c.setWidth 64) (8 * a) 8 : Int) - 127))
  let w10 := leW64 (bs.drop 0x10)
  let base := field w10 7 41 * 128
  let kids := List.range (field (w0c.setWidth 64) 24 3 + 1)
  let kind (i : Nat) : Nat := field w10 (48 + 2 * i) 2
  if kids.any fun i => decide (kind i = 3) then .error (.reason 3)
  else
    let hits := kids.filterMap fun i =>
      if kind i = 0 then none
      else
        let box := leNat ((bs.drop (0x30 + 9 * i)).take 9)
        let q (n : Nat) : Nat := box / 2 ^ (12 * n) % 4096
        (boxTest node i os ds lo hi orig quanta [(q 0, q 1), (q 2, q 3), (q 4, q 5)]).map fun e => (e, i)
    let sorted := sortBy (fun a b => decide (a.1 < b.1) || (decide (a.1 = b.1) && decide (a.2 < b.2))) hits
    .ok (sorted.map fun e =>
      let a := vaNat (base + 128 * leNat ((bs.drop (0x18 + 3 * e.2)).take 3))
      if kind e.2 = 1 then .node a else .leaf a)

/-! ## Triangles (R313, R314, R316) -/

/-- The vertex indices of a leaf's triangles (R313), from the index stream. -/
def stripTris (rst : Nat) : Nat → Nat → Nat → Nat → Nat → List Byte → List (Nat × Nat × Nat)
  | 0, _, _, _, _, _ => []
  | n + 1, t, j, s1, s2, idx =>
    let at' (k : Nat) : Nat := (idx.getD k 0).toNat
    let go (j s1 s2 n' : Nat) (rest : List Byte) : List (Nat × Nat × Nat) :=
      (if j % 2 = 0 then (s1, s2, n') else (s2, s1, n')) :: stripTris rst n (t + 1) (j + 1) s2 n' rest
    if rst / 2 ^ t % 2 = 1 then go 0 (at' 0) (at' 1) (at' 2) (idx.drop 3) else go j s1 s2 (at' 0) (idx.drop 1)

/-- A leaf as read: geometry, whether it is opaque, first primitive index, triangles, and the FP32 vertices. -/
structure RayLeaf where
  geom : Nat
  opaq : Bool
  pbase : Nat
  tris : List (Nat × Nat × Nat)
  verts : List (List W32)

/-- Decoded vertices of a leaf (R314). -/
def leafVerts (geo : List Byte) (nv : Nat) (bs : List Byte) : List (List W32) :=
  (List.range nv).map fun i =>
    (List.range 3).map fun a =>
      let c := leNat ((bs.drop (6 * i + 2 * a)).take 2)
      let q := pow2 (((geo.getD (12 + a) 0).toNat : Int) - 127)
      let s := sumF .rne [f32 (leW32 geo (4 * a)), .num false ((c : Rat) * q)]
      f32Bits (roundF fp32 .rne s.1).1

/-- A leaf read (R313, R314, R426). -/
def readLeaf (d : Device) (ctx hall : Nat) (h : RayHead) (a : Nat) : Except RayBad (RayLeaf × Device) :=
  match rayRead d ctx hall a 32 with
  | .error e => .error e
  | .ok (hd, d1) =>
    let w0 := (leW32 hd 0).setWidth 64
    let nv := field w0 23 8 + 1
    let nt := field w0 16 7 + 1
    let geom := field w0 0 16
    let rst := leNat ((hd.drop 0x10).take 16)
    if rst % 2 = 0 ∨ h.ngeom ≤ geom then .error (.reason 3)
    else
      let strips := ((List.range nt).filter fun t => decide (rst / 2 ^ t % 2 = 1)).length
      match rayRead d1 ctx hall (a + 32) (6 * nv) with
      | .error e => .error e
      | .ok (vb, d2) =>
        match rayRead d2 ctx hall (a + (field ((leW32 hd 4).setWidth 64) 0 16)) (nt + 2 * strips) with
        | .error e => .error e
        | .ok (ib, d3) =>
          match rayRead d3 ctx hall (h.gtab + 16 * geom) 16 with
          | .error e => .error e
          | .ok (geo, d4) =>
            let ts := stripTris rst nt 0 0 0 0 ib
            if ts.any fun t => decide (nv ≤ t.1 ∨ nv ≤ t.2.1 ∨ nv ≤ t.2.2) then .error (.reason 3)
            else
              .ok ({ geom := geom, opaq := (geo.getD 15 0).getLsbD 0, pbase := (leW32 hd 8).toNat, tris := ts
                     verts := leafVerts geo nv vb }, d4)

/-- Negation of a value. -/
def negF : FVal → FVal
  | .num n x => .num (!n) (-x)
  | .inf n => .inf (!n)
  | .nan s => .nan s

/-- A value rounded to FP32 (R316). -/
def rneF (v : FVal) : FVal := (roundF fp32 .rne v).1

/-- |d| of an axis as a rank: finite magnitudes below infinity. -/
def axisLt (a b : FVal) : Bool := magLt a b

/-- The axis of largest |d|, the lowest on ties (R316). -/
def rayAxis (d : Nat → FVal) : Nat :=
  if !axisLt (d 0) (d 1) && !axisLt (d 0) (d 2) then 0 else if !axisLt (d 1) (d 2) then 1 else 2

/-- Whether a value is at least, or at most, zero. -/
def geZero (v : FVal) : Bool := match v with | .num _ x => decide (0 ≤ x) | .inf n => !n | _ => false
/-- At most zero. -/
def leZero (v : FVal) : Bool := match v with | .num _ x => decide (x ≤ 0) | .inf n => n | _ => false

/-- a ≤ b for values that are not NaN. -/
def leF (a b : FVal) : Bool := !isNan a && !isNan b && !ltF b a

/-- The triangle test (R316): t, u, v where the triangle is hit within its bounds and not culled. -/
def triTest (o d : Nat → FVal) (lo hi : FVal) (cull : Bool) (vs : List (List W32)) : Option (FVal × FVal × FVal) :=
  let kz := rayAxis d
  let k1 := (kz + 1) % 3
  let k2 := (k1 + 1) % 3
  let flip := match d kz with | .num _ x => decide (x < 0) | .inf n => n | _ => false
  let kx := if flip then k2 else k1
  let ky := if flip then k1 else k2
  let q (a b : FVal) : FVal := rneF (divF a b).1
  let sx := q (d kx) (d kz)
  let sy := q (d ky) (d kz)
  let sz := q (.num false 1) (d kz)
  let proj (p : List W32) : FVal × FVal × FVal :=
    let c (a : Nat) : FVal := rneF (sumF .rne [f32 (p.getD a 0), negF (o a)]).1
    let shear (s : FVal) (a : Nat) : FVal := rneF (sumF .rne [c a, negF (mulF s (c kz)).1]).1
    (shear sx kx, shear sy ky, rneF (mulF sz (c kz)).1)
  let a := proj (vs.getD 0 [])
  let b := proj (vs.getD 1 [])
  let c := proj (vs.getD 2 [])
  let cross (x1 y1 x2 y2 : FVal) : FVal := (sumF .rne [(mulF x1 y1).1, negF (mulF x2 y2).1]).1
  let u := cross c.1 b.2.1 c.2.1 b.1
  let v := cross a.1 c.2.1 a.2.1 c.1
  let w := cross b.1 a.2.1 b.2.1 a.1
  let det := (sumF .rne [u, v, w]).1
  let nonzero := match det with | .num _ x => decide (x ≠ 0) | .inf _ => true | .nan _ => false
  let inside := (geZero u && geZero v && geZero w) || (leZero u && leZero v && leZero w)
  let t := rneF (divF (sumF .rne [(mulF u a.2.2).1, (mulF v b.2.2).1, (mulF w c.2.2).1]).1 det).1
  if nonzero && inside && leF lo t && leF t hi && !(cull && !geZero det) then
    some (t, rneF (divF v det).1, rneF (divF w det).1)
  else none

/-! ## Traversal (R317) -/

/-- The components of a ray as read: origin, tmin, direction, tmax (R319). -/
def rayF (r : RayRec) (i : Nat) : FVal := f32 (r.ray.getD i 0)

/-- A ray that ends at once (R317), or that a helper lane asked (R301). -/
def rayVoid (r : RayRec) : Bool :=
  let c := (List.range 8).map (rayF r)
  let zero (v : FVal) : Bool := match v with | .num _ x => decide (x = 0) | _ => false
  decide (r.ray = []) || c.any isNan || (zero (rayF r 4) && zero (rayF r 5) && zero (rayF r 6)) || ltF (rayF r 7) (rayF r 3)

/-- The query's current upper bound (R315, R317). -/
def rayTb (r : RayRec) : FVal := if r.hit.status = 1 then f32 r.hit.t else rayF r 7

/-- A hit committed (R317): under `.closest` an equal t replaces only a greater (GEOM, primitive index). -/
def commitHit (h : RayHit) (r : RayRec) : RayRec :=
  let keep := !r.any && decide (r.hit.status = 1) && eqF (f32 h.t) (f32 r.hit.t) &&
    !lexLt [h.geom.toNat, h.prim.toNat] [r.hit.geom.toNat, r.hit.prim.toNat]
  if keep then r else { r with hit := { h with status := 1 }, stack := if r.any then [] else r.stack }

/-- The nodes and leaves on a stack. -/
def stackDepth (l : List RayItem) : Nat := (l.filter fun i => match i with | .tris _ _ => false | _ => true).length

/-- The hit of a leaf's triangle, where the ray hits it within its bounds. -/
def leafHit (r : RayRec) (l : RayLeaf) (i : Nat) : Option RayHit :=
  match l.tris[i]? with
  | none => none
  | some t =>
    let vs := [t.1, t.2.1, t.2.2].map fun k => l.verts.getD k []
    (triTest (rayF r) (fun a => rayF r (4 + a)) (rayF r 3) (rayTb r) r.cull vs).map fun x =>
      { status := 1, t := f32Bits x.1, u := f32Bits x.2.1, v := f32Bits x.2.2, prim := BitVec.ofNat 32 (l.pbase + i)
        geom := BitVec.ofNat 32 l.geom, verts := vs.flatMap id }

/-- The hits of a leaf's triangles after one of them, by t and then index (R317). -/
def leafHits (r : RayRec) (l : RayLeaf) (after : Option (W32 × Nat)) : List (RayHit × Nat) :=
  let less (x y : W32 × Nat) : Bool := ltF (f32 x.1) (f32 y.1) || (eqF (f32 x.1) (f32 y.1) && decide (x.2 < y.2))
  let hits := (List.range l.tris.length).filterMap fun k => (leafHit r l k).map fun x => (x, k)
  sortBy (fun x y => less (x.1.t, x.2) (y.1.t, y.2)) (hits.filter fun x =>
    match after with | some a => less a (x.1.t, x.2) | none => true)

/-- How a run of a traversal ends: at its end, at a candidate, or at an error. -/
inductive RayStop where
  | ended (r : RayRec) (d : Device)
  | candidate (r : RayRec) (d : Device)
  | bad (b : RayBad) (r : RayRec) (d : Device)

/-- One item of a traversal: the record afterwards, or the stop. -/
def rayItem (d : Device) (ctx hall : Nat) (h : RayHead) (r : RayRec) (i : RayItem) (rest : List RayItem) :
    Except RayStop (RayRec × Device) :=
  let os := (List.range 3).map (rayF r)
  let ds := (List.range 3).map fun a => rayF r (4 + a)
  match i with
  | .node a =>
    match rayRead d ctx hall a 128 with
    | .error e => .error (.bad e r d)
    | .ok (bs, d1) =>
      match nodeHits a bs os ds (rayF r 3) (rayTb r) with
      | .error e => .error (.bad e r d1)
      | .ok items =>
        let st := items ++ rest
        if 64 < stackDepth st then .error (.bad (.reason 2) r d1) else .ok ({ r with stack := st, visits := r.visits + 1 }, d1)
  | .leaf a =>
    match readLeaf d ctx hall h a with
    | .error e => .error (.bad e r d)
    | .ok (_, d1) => .ok ({ r with stack := .tris a none :: rest, visits := r.visits + 1 }, d1)
  | .tris a after =>
    match readLeaf d ctx hall h a with
    | .error e => .error (.bad e r d)
    | .ok (l, d1) =>
      match leafHits r l after with
      | [] => .ok ({ r with stack := rest }, d1)
      | (x, k) :: _ =>
        let r1 := { r with stack := .tris a (some (x.t, k)) :: rest }
        if l.opaq || r.opq then .ok (commitHit x r1, d1)
        else .error (.candidate { r1 with cand := { x with status := 2 } } d1)

/-- A traversal run on, for so many items at most (R317, R426). -/
def rayRun (ctx hall : Nat) (h : RayHead) : Nat → RayRec → Device → RayStop
  | 0, r, d => .bad (.reason 1) r d
  | n + 1, r, d =>
    match r.stack with
    | [] => .ended r d
    | i :: rest =>
      let visit := match i with | .tris _ _ => false | _ => true
      if visit && decide (2 ^ 20 ≤ r.visits) then .bad (.reason 1) r d
      else
        match rayItem d ctx hall h r i rest with
        | .error s => s
        | .ok (r1, d1) => rayRun ctx hall h n r1 d1

/-- More items than a query of 2^20 visits can pop: each leaf is read again for each of at most 128 triangles. -/
def rayFuel : Nat := 2 ^ 28

/-- A query run until it stops (R317). -/
def rayGo (d : Device) (ctx hall : Nat) (r : RayRec) : RayStop :=
  if rayVoid r then .ended { r with stack := [] } d
  else
    match rayHead d ctx hall r.header with
    | .error e => .bad e r d
    | .ok (h, d1) =>
      rayRun ctx hall h rayFuel (if r.begun then r else { r with begun := true, stack := [.node h.root] }) d1

/-! ## The words -/

/-- The ray record of a lane. -/
def rayOf (w : Wave) (l : Nat) : RayRec := tblGet blankRay w.gfx.rays l

/-- A lane's ray record replaced. -/
def rayPut (l : Nat) (r : RayRec) (w : Wave) : Wave := { w with gfx := { w.gfx with rays := tblSet w.gfx.rays l r } }

/-- Whether an executing lane has a query in flight (R319, R320). -/
def rayBusy (v : View) (ex : Mask) : Bool := (lanesOf v.width ex).any fun l => (rayOf v.w l).flying

/-- The result registers of a lane (R319). -/
def rayDst (v : View) (base l : Nat) : List RegLoc :=
  (List.range 4).flatMap fun i => (vWrites v (base + i) [l] fun _ => 0).map (·.1)

/-- A query word of some lanes issued: its operation, and each lane's record as the word leaves it (R319, R321). -/
def issueRays (v : View) (ls : List Nat) (base : Nat) (tok : BitVec 4) (rec : Nat → RayRec) : Eff :=
  if ls = [] then .done v.d .onward
  else
    let dsts := ls.flatMap (rayDst v base)
    .done (v.put v.d fun x =>
      let x1 := ls.foldl (fun x l => rayPut l { rec l with flying := true, op := v.w.nextOp, dst := rayDst v base l } x) x
      tokStart tok (pushOp .ray none (dsts.map fun k => (k, 0)) (some tok.toNat) 0 [] x1)) .onward

/-- RTRACE (R319). -/
def jobRtrace (w : WordE) : Job :=
  { code := w.toBits 0x01, g := w.hd.g, lanes := .each, u := w.u
    refs := vRefs (regNo w.x) 8 ++ refsOf [w.y] ++ vRefs (regNo w.z) 4, tok := eTok w
    legal := fun _ =>
      [c13 (!isV w.x) 47, groupCheck w.x 8 47, sregCheck w.y 39, c13 (!isV w.z) 31, groupCheck w.z 4 31,
       unusedField w.w 23, c14 (!w.te) 11, c14 (decide (8 ≤ w.sub.toNat)) 10, eSco w, eMod w]
    act := fun v ex =>
      if rayBusy v ex then .hold v.d
      else
        let new (l : Nat) : RayRec :=
          { blankRay with
            ray := if v.helpers.getLsbD l then []
              else (List.range 8).map fun i => vget v.d v.core v.w l (regNo w.x + i)
            header := (src64 v w.y).setWidth 48, any := w.sub.getLsbD 0, cull := w.sub.getLsbD 1
            opq := w.sub.getLsbD 2 }
        issueRays v (lanesOf v.width ex) (regNo w.z) w.tok new }
/-- RTRACE (R319): its step. -/
def execRtrace (w : WordE) (s : State) : Out State := runJob (jobRtrace w) s

/-- A field of a hit (R320). -/
def hitField (h : RayHit) (code : Nat) : W32 :=
  if code = 0 then h.status
  else if code = 1 then h.t
  else if code = 2 then h.u
  else if code = 3 then h.v
  else if code = 4 then h.prim
  else if code = 5 then h.geom
  else h.verts.getD (code - 6) 0

/-- RTGET (R320). -/
def jobRtget (w : WordA) : Job :=
  let code := w.sub.toNat % 32
  let cand := w.sub.getLsbD 5
  let j := crossJob 0x02 w 0 (fun _ => aPlain w false ++ [c14 (decide (64 ≤ w.sub.toNat) || decide (15 ≤ code)) 15])
    fun v _ _ l => (hitField (if cand then (rayOf v.w l).cand else (rayOf v.w l).hit) code, 0)
  { j with act := fun v ex => if rayBusy v ex then .hold v.d else j.act v ex }
/-- RTGET (R320): its step. -/
def execRtget (w : WordA) (s : State) : Out State := runJob (jobRtget w) s

/-- A candidate resolved (R317, R321): committed or discarded. -/
def resolveCand (r : RayRec) (accept : Bool) : RayRec :=
  let r1 := { r with cand := blankHit }
  if accept then commitHit r.cand r1 else r1

/-- RTACCEPT (R321). -/
def jobRtaccept (w : WordA) : Job :=
  let tok : BitVec 4 := w.sub.extractLsb' 0 4
  { code := w.toBits 0x03, g := w.hd.g, lanes := .each, u := w.u
    refs := vRefs (regNo w.d) 4 ++ refsOf [w.a], pops := [w.a], tok := some tok
    legal := fun _ =>
      [c13 (!isV w.d) 47, groupCheck w.d 4 47, c13 (!isAluSrc w.a) 39, c14 (!isUnused w.b) 31, c14 (!isUnused w.c) 23,
       c14 (decide (w.sub.toNat / 16 ≠ 1)) 15, c14 w.low 0] ++ aPlain w false
    act := fun v ex =>
      match popWalk v [w.a] [] with
      | (_, some bad) => .trap (popTrap bad)
      | (ents, none) =>
        let ls := (lanesOf v.width ex).filter fun l => decide ((rayOf v.w l).cand.status = 2)
        issueRays { v with d := popApply v v.d [w.a] } ls (regNo w.d) tok fun l =>
          resolveCand (rayOf v.w l) (decide (laneSrc v ents 0 w.a l ≠ 0)) }
/-- RTACCEPT (R321): its step. -/
def execRtaccept (w : WordA) (s : State) : Out State := runJob (jobRtaccept w) s

/-! ## Answers -/

/-- +∞ as FP32 bits. -/
def infBits : W32 := 0x7F800000

/-- A lane's answer (R319): its record is settled, its results are written, and the answer is an event of the unit's
stream. -/
def rayAnswer (d : Device) (core slot lane : Nat) (r : RayRec) (vals : List W32) : Device :=
  match waveOf d core slot with
  | none => d
  | some w =>
    let d1 := modWave d core slot (rayPut lane { r with flying := false, parked := none })
    match findOp w .ray r.op with
    | none => d1
    | some o =>
      emit (laneDone d1 core slot w.block o r.dst vals 0) (.ray (hallOfCore core)) (.answer core slot lane (vals.headD 0))

/-- The values of a query that ended (R319). -/
def hitVals (h : RayHit) (status : W32) : List W32 := if status = 0 then [0, infBits, 0, 0] else [status, h.t, h.u, h.v]

/-- A query that failed (R426): its answer, and its record on the unit's answer stream. -/
def rayFail (d : Device) (core slot lane : Nat) (r : RayRec) (w : Wave) (reason : Nat) : Device :=
  let r1 := { r with hit := { blankHit with status := 3 }, cand := blankHit, stack := [] }
  let d1 := rayAnswer d core slot lane r1 [3, infBits, 0, 0]
  match tblFind d.blocks w.block with
  | none => d1
  | some b => faultRecord d1 (.ray (hallOfCore core)) w.ctx 0x57 false 0 (BitVec.ofNat 64 reason) (blockWhere b)

/-- A query in flight runs until it stops, and answers (R317, R319, R426). -/
def rayStop (d : Device) (core slot lane : Nat) : Device :=
  match waveOf d core slot with
  | none => d
  | some w =>
    let r := rayOf w lane
    if !r.flying || r.parked.isSome then d
    else
      match rayGo d w.ctx (hallOfCore core) r with
      | .ended r1 d1 => rayAnswer d1 core slot lane { r1 with stack := [] } (hitVals r1.hit r1.hit.status)
      | .candidate r1 d1 => rayAnswer d1 core slot lane r1 (hitVals r1.cand 2)
      | .bad (.reason n) r1 d1 => rayFail d1 core slot lane r1 w n
      | .bad (.fault f) r1 d1 =>
        if engParks d1 w.ctx f then
          match tblFind d1.blocks w.block with
          | none => d1
          | some b =>
            modWave (parkEngine d1 (.ray (hallOfCore core)) w.ctx f (blockWhere b)) core slot
              (rayPut lane { r1 with parked := some (f.addr.setWidth 48) })
        else rayFail d1 core slot lane r1 w 4

/-- Whether a hall's ray traversal unit may serve a lane's query (R308, R427): one begun goes on unless the unit is being
reloaded, another begins under its context's image. -/
def rayReady (d : Device) (core slot lane : Nat) : Bool :=
  match waveOf d core slot with
  | none => false
  | some w =>
    if (rayOf w lane).begun then !unitStopped d 0 (hallOfCore core) else unitReady d 0 (hallOfCore core) w.ctx

/-- RAY_QUERY_STOP (R317, R319, R426). -/
def execRayQueryStop (core slot lane : Nat) (s : State) : Out State :=
  runDevice (onHall (hallOfCore core) fun d =>
    if rayReady d core slot lane then unitStepped 0 (hallOfCore core) (rayStop d core slot lane) else d) s

end Sys2Proof.Machine
end

