-- ==== Sys2Proof/Machine/Save.lean ====
section
/-! DEFINITION. Block records (R214 to R216): what pre-emption and CTXSAVE withdraw (Table 2.4), the record of a block as
bytes, and a block restored from its record (R52, R53). -/

namespace Sys2Proof.Machine

/-! ## Engine operations at pre-emption (Table 2.4) -/

/-- The operations of a queue, among those of some blocks, that are recorded (Table 2.4, R253). -/
def stoppedOps (mine : Nat → Bool) (ops : List CopyOp) : List CopyOp := (ops.filter fun o => mine o.block).filter copyStops

/-- Whether a matrix entry of some blocks is withdrawn: it is not granted. -/
def entryStops (mine : Nat → Bool) (e : MatEntry) : Bool := mine e.block && !e.granted && e.staging.isNone

/-- Whether an operation of a wave has to end before its block is saved. -/
def opBusy (o : LongOp) : Bool :=
  match o.kind with
  | .tlbinv => true
  | .csload => true
  | .ctxSave => true
  | .ctxRest => true
  | .fill => true
  | .evict => true
  | _ => false

/-- Whether a hall's engines still run operations of some blocks that are not withdrawn. -/
def enginesBusy (mine : Nat → Bool) (h : Hall) : Bool :=
  (h.mat.any fun e => mine e.block && !entryStops mine e && e.staging.isNone) ||
  (h.staging.any fun s => s.rows.any fun r => mine r.block) ||
  h.cq.any fun q =>
    let gone := (stoppedOps mine q.2).map (·.id)
    q.2.any fun o => mine o.block && !gone.contains o.id

/-- The waves of some blocks, by core and slot. -/
def wavesOf (d : Device) (mine : Nat → Bool) : List (Nat × Nat × Wave) :=
  d.cores.flatMap fun c => (c.2.waves.filter fun e => mine e.2.block).map fun e => (c.1, e.1, e.2)

/-- Whether some blocks have operations that must end before they are saved. -/
def saveBusy (d : Device) (mine : Nat → Bool) : Bool :=
  ((wavesOf d mine).any fun e => e.2.2.ops.any opBusy || e.2.2.gfx.rays.any fun r => r.2.flying) ||
  d.halls.any fun e => enginesBusy mine e.2

/-- An operation of a wave completed at the halt (R50, step 3). -/
def settleOp (core slot : Nat) (d : Device) (o : LongOp) : Device :=
  match waveOf d core slot with
  | none => d
  | some w =>
    match o.kind with
    | .alu => completeOp d core slot w o
    | .load => completeOp d core slot w o
    | .store => completeOp d core slot w o
    | .cwb => completeOp d core slot w o
    | .query => completeOp d core slot w o
    | .perfc => perfcDone d core slot w o
    | .alcatt => if o.args = [] then completeOp d core slot w o else d
    | _ => d

/-- Step 3 of R50 for some blocks: loads, long ALU words, queries and PERFC complete, stores are acknowledged; a stopped
copy has told its arrival word of the bytes landed. -/
def settleOps (d : Device) (mine : Nat → Bool) : Device :=
  let d1 := (wavesOf d mine).foldl (fun d e => e.2.2.ops.foldl (settleOp e.1 e.2.1) d) d
  d1.halls.foldl (fun d e => e.2.cq.foldl (fun d q =>
    match q.2 with
    | o :: _ => if mine o.block && copyStops o then raiseOwed d e.1 q.1 o else d
    | [] => d) d) d1

/-- A hall without the withdrawn operations of some blocks. -/
def withdrawHall (mine : Nat → Bool) (h : Hall) : Hall :=
  let gone := (h.mat.filter (entryStops mine)).map (·.id) ++ (h.cq.flatMap fun q => (stoppedOps mine q.2).map (·.id))
  keepRows (fun r => !mine r.block) { h with
    mat := h.mat.filter fun e => !gone.contains e.id
    cq := h.cq.map fun q => (q.1, q.2.filter fun o => !gone.contains o.id)
    locks := h.locks.filter fun e => !gone.contains e.2.op }

/-- A wave without the operations that are withdrawn. -/
def withdrawWave (w : Wave) : Wave :=
  { w with ops := w.ops.filter fun o => decide (o.kind ≠ .decomp) && decide (o.kind ≠ .ncall) && decide (o.kind ≠ .alcatt) }

/-- The operations that Table 2.4 withdraws, gone from the engines and the waves. -/
def withdraw (d : Device) (mine : Nat → Bool) : Device :=
  { d with
    halls := tblMap (fun _ => withdrawHall mine) d.halls
    cores := tblMap (fun _ k => { k with
      waves := tblMap (fun _ w => if mine w.block then withdrawWave w else w) k.waves }) d.cores }

/-! ## Engine records (R215) -/

/-- An engine record: its kind, issuing slot, token and completion mode, arrival operand, word, four operand words and
payload. -/
structure EngRec where
  kind : Nat
  slot : Nat
  tokm : Nat
  arv : W64
  code : W64
  args : List W64
  payload : List Byte
  deriving DecidableEq, Repr

/-- 64-bit words as bytes. -/
def wordBytes (ws : List W64) : List Byte := ws.flatMap fun w => leBytes 8 w.toNat

/-- Bytes as 64-bit words. -/
def bytesWords (n : Nat) (bs : List Byte) : List W64 :=
  (List.range n).map fun i => leW64 ((bs.drop (8 * i)).take 8)

/-- A range lock in a payload (Table 2.4). -/
def lockWords (l : RangeLock) : List W64 :=
  [BitVec.ofNat 64 (l.space + 256 * nat1 l.dest + 512 * nat1 l.voided), BitVec.ofNat 64 l.lo, BitVec.ofNat 64 l.hi]

/-- The range locks of an operation as words, with their number before them. -/
def opLocks (h : Hall) (id : Nat) : List W64 :=
  let ls := (h.locks.filter fun e => decide (e.2.op = id)).map (·.2)
  BitVec.ofNat 64 ls.length :: ls.flatMap lockWords

/-- The range locks that a payload begins with, for an operation, and the words after them. -/
def readLocks (op : Nat) (queue : Option Nat) (block ctx : Nat) (ws : List W64) : List RangeLock × List W64 :=
  let n := (ws.headD 0).toNat % 65
  ((List.range n).map fun i =>
    let a := ws.getD (1 + 3 * i) 0
    { op := op, queue := queue, block := block, dest := a.getLsbD 8, space := field a 0 8, ctx := ctx
      lo := (ws.getD (2 + 3 * i) 0).toNat, hi := (ws.getD (3 + 3 * i) 0).toNat, voided := a.getLsbD 9 },
   ws.drop (1 + 3 * n))

/-- The record of a withdrawn matrix pass (kind 1). -/
def matRec (h : Hall) (e : MatEntry) : EngRec :=
  { kind := 1, slot := e.slot, tokm := e.word.tok.toNat + 16 * e.word.cm.toNat, arv := e.arv, code := e.word.toBits e.opc
    args := [e.desc0, e.desc1, BitVec.ofNat 64 ((e.tiles.zip (List.range 8)).map fun x => x.1 * 16 ^ x.2).sum,
             BitVec.ofNat 64 (e.wop.getD 0)]
    payload := wordBytes (opLocks h e.id ++ [e.opA, e.opB] ++ e.image) }

/-- The record of a copy's remainder (kind 2). -/
def copyRec (h : Hall) (o : CopyOp) : EngRec :=
  { kind := 2, slot := o.slot, tokm := o.word.tok.toNat + 16 * nat1 o.word.te + 32 * nat1 o.arv.isSome
    arv := o.arv.getD 0, code := o.word.toBits o.opc
    args := [o.y, o.x, BitVec.ofNat 64 (copyLeft o), BitVec.ofNat 64 o.unit]
    payload := wordBytes (opLocks h o.id ++
      [o.sh0, o.sh1, BitVec.ofNat 64
        (o.flags.toNat + 256 * o.estat.toNat + 65536 * nat1 o.priv + 131072 * nat1 o.finished + 262144 * o.owed)] ++
      o.clear.map fun b => b.setWidth 64) }

/-- The word of a call row's instruction, as far as its outputs are pending: kept with the wave's operation. -/
def callRec (w : Wave) (slot : Nat) (set : VA) (op : Nat) (rows : List CallRow) : EngRec :=
  let n := (rows.head?.map fun r => r.inputs.length).getD 0
  let at' (l : Nat) : Option CallRow := rows.find? fun r => decide (r.lane = l)
  let o := w.ops.find? fun o => decide (o.id = op)
  { kind := 3, slot := slot, tokm := (o.bind (·.tok)).getD 0, arv := 0, code := ((o.map (·.args)).getD []).headD 0
    args := [maskOf (rows.map (·.lane)), set.setWidth 64, BitVec.ofNat 64 op,
             BitVec.ofNat 64 ((o.map fun o => o.flags.toNat).getD 0)]
    payload := ((List.range w.width).flatMap fun l => leBytes 4 (((at' l).map fun r => r.handle.toNat).getD 0)) ++
      (List.range n).flatMap fun i => (List.range w.width).flatMap fun l =>
        leBytes 4 (((at' l).map fun r => (r.inputs.getD i 0).toNat).getD 0) }

/-- The record of a withdrawn ALCATT (kind 4). -/
def attRec (slot : Nat) (o : LongOp) : EngRec :=
  { kind := 4, slot := slot, tokm := 0, arv := 0, code := o.args.getD 4 0
    args := [o.args.headD 0, o.args.getD 5 0, o.args.getD 1 0,
             BitVec.ofNat 64 ((o.args.getD 2 0).toNat % 2 ^ 48 + 2 ^ 48 * (o.args.getD 3 0).toNat)]
    payload := [] }

/-- The rows of one word in one bin. -/
def binRecs (core slot : Nat) (w : Wave) (b : Bin) : List EngRec :=
  let mine := b.rows.filter fun r => decide (r.core = core) && decide (r.slot = slot)
  (listNub (fun a b => decide (a = b)) (mine.map (·.op))).map fun op =>
    callRec w slot b.set op (mine.filter fun r => decide (r.op = op))

/-- The engine records of a block. -/
def engRecs (d : Device) (mine : Nat → Bool) (bid : Nat) (b : Block) : List EngRec :=
  let h := hallOf d (hallOfCore b.core)
  let ws := (coreOf d b.core).waves.filter fun e => decide (e.2.block = bid)
  ((h.mat.filter fun e => decide (e.block = bid) && entryStops mine e).map (matRec h)) ++
  (h.cq.flatMap fun q => ((stoppedOps mine q.2).filter fun o => decide (o.block = bid)).map (copyRec h)) ++
  (ws.flatMap fun e => h.bins.flatMap fun x => binRecs b.core e.1 e.2 x) ++
  (ws.flatMap fun e => (e.2.ops.filter fun o => decide (o.kind = .alcatt)).map (attRec e.1))

/-- An engine record's bytes. -/
def EngRec.bytes (r : EngRec) : List Byte :=
  wordBytes ([BitVec.ofNat 64 (r.kind * 2 ^ 56 + r.slot * 2 ^ 32 + r.tokm), r.arv, r.code] ++
    (List.range 4).map (fun i => r.args.getD i 0) ++ [BitVec.ofNat 64 r.payload.length]) ++ r.payload

/-- The engine records that stand in some bytes. -/
def readEngRecs : Nat → List Byte → List EngRec
  | 0, _ => []
  | n + 1, bs =>
    let ws := bytesWords 8 bs
    let w0 := ws.getD 0 0
    let len := (ws.getD 7 0).toNat
    { kind := field w0 56 8, slot := field w0 32 6, tokm := field w0 0 16, arv := ws.getD 1 0, code := ws.getD 2 0
      args := (ws.drop 3).take 4, payload := (bs.drop 64).take len } :: readEngRecs n (bs.drop (64 + len))

/-! ## Wave records (R216) -/

/-- Bytes up to a multiple of 256. -/
def pad256 (bs : List Byte) : List Byte := bs ++ List.replicate ((256 - bs.length % 256) % 256) 0

/-- The window of the decomposition that a matrix entry holds for its wave (R150). -/
def entryWindow (w : Wave) (e : MatEntry) : Option Nat :=
  (w.ops.find? fun o => decide (o.kind = .decomp) && decide (some o.id = e.wop)).bind (·.win)

/-- The words left in the lookahead window of the operation that holds a token of the wave in a slot of a core, 15 for none
(Table 8.8). -/
def lawOf (core slot : Nat) (w : Wave) (h : Hall) (k : Nat) : Nat :=
  let byTok := w.ops.find? fun o => decide (o.kind = .ncall) && decide (o.tok = some k)
  let byEntry := (h.mat.find? fun e =>
    decide (e.core = core) && decide (e.slot = slot) && e.staging.isNone && !e.granted &&
      decide (xTok e.word = some (BitVec.ofNat 4 k))).bind fun e =>
    w.ops.find? fun o => decide (o.kind = .decomp) && decide (some o.id = e.wop)
  match byTok, byEntry with
  | some o, _ => o.win.getD 15
  | none, some o => o.win.getD 15
  | none, none => 15

/-- The window of a withdrawn ALCATT. -/
def lawaOf (w : Wave) : Nat :=
  match w.ops.find? fun o => decide (o.kind = .alcatt) with | some o => o.win.getD 15 | none => 15

/-- The queues of a core that are bound to a slot. -/
def boundQueues (d : Device) (core slot : Nat) : List (Nat × ApQueue) :=
  (coreOf d core).queues.filter fun e => decide (e.2.slot = some slot)

/-- The fixed words of a wave record (Table 8.8). A path switch that is due shows in the fairness timer (R54). -/
def fixedWords (d : Device) (core slot : Nat) (w : Wave) : List W64 :=
  let n (x : Nat) : W64 := BitVec.ofNat 64 x
  let h := hallOf d (hallOfCore core)
  let due := w.pos.yieldDue || w.cnt.deferred.isSome
  let fair := min (if due then max w.cnt.fair 4096 else w.cnt.fair) 8191
  (List.range 64).map (sget w) ++ (List.range 7).map (fun i => tblGet 0#64 w.preds i) ++
  [n (slot * 2 ^ 58 + w.pos.paths.length * 2 ^ 51 + w.pos.run * 2 ^ 44 + w.pos.clpos.toNat * 2 ^ 40 + 2 * nat1 w.pos.yrank +
      nat1 (w.halted && w.parked.isNone)),
   n (fair * 65536 + w.rfbase % 65536), n (w.trap.trcause.toNat * 65536 + w.fmode.toNat * 256 + w.fflags.toNat),
   w.trap.bsbase.setWidth 64, w.trap.bslane.setWidth 64, w.trap.spillh.setWidth 64,
   w.cnt.wcycle, w.cnt.wissue, w.cnt.spass, w.cnt.grain, w.tokPend.setWidth 64] ++
  (List.range 16).map (fun k => n (lawOf core slot w h k)) ++
  [w.trap.trvec.setWidth 64, w.trap.strvec.setWidth 64, w.trap.trfbase.setWidth 64,
   n (w.trap.trdepth.toNat * 2 ^ 48 + w.trap.trlvl.toNat * 256 + w.trap.wdlim.toNat), w.gfx.dsb.setWidth 64,
   n ((boundQueues d core slot).length * 2 ^ 24 + nat1 (decide (w.gfx.rays ≠ [])) * 65536 + w.gfx.verts.length),
   n (lawaOf w)] ++ List.replicate 23 0

/-- A path-table entry's words. -/
def pathWords (p : Path) : List W64 :=
  [BitVec.ofNat 64 (p.pc.toNat / 8 * 8 + 2 * nat1 p.fresh + nat1 p.yielded + p.depth.toNat * 2 ^ 48), p.mask]

/-- A queue record's bytes (Table 8.9). -/
def queueBytes (width : Nat) (e : Nat × ApQueue) : List Byte :=
  let q := e.2
  let n (x : Nat) : W64 := BitVec.ofNat 64 x
  wordBytes [n (128 * nat1 q.sovf + 64 * nat1 q.ssp + 32 * nat1 q.gsp + 16 * nat1 q.sbnd + 8 * nat1 q.gbnd + e.1),
    q.gbase, q.gstride, n (q.gcount * 2 ^ 32 + (q.gnext - q.entries.length)), q.sqbase, q.sqstride,
    n (q.scount * 2 ^ 32 + q.snext), q.gmask, q.smask, 0] ++
  (List.range width).flatMap (fun l => leBytes 4 (if q.gbnd then (q.goffs.getD l 0).toNat else 0)) ++
  (List.range width).flatMap fun l => leBytes 4 (if q.sbnd then (q.soffs.getD l 0).toNat else 0)

/-- The six words of a hit in a ray record. -/
def hitWords (h : RayHit) : List W32 := [h.status, h.t, h.u, h.v, h.prim, h.geom]

/-- A node or leaf of a traversal stack as a number: its 128-byte line, and whether it is a leaf. -/
def itemNat : RayItem → Nat
  | .node a => a / 128 * 2
  | .leaf a => a / 128 * 2 + 1
  | .tris a _ => a / 128 * 2 + 1

/-- The leaf whose triangles a traversal stopped in, with the index of the candidate's triangle. -/
def trisOf : List RayItem → Option (Nat × Nat)
  | .tris a after :: _ => some (a, (after.map (·.2)).getD 0)
  | _ => none

/-- The 424 bytes of a ray record's traversal state: the query's flags, the leaf in which it stopped, counts, the vertices of
the two hits, and the stack, 42 bits an item. The form is the model's (R216 leaves it to the unit's image; log 18). -/
def rayState (r : RayRec) : List Byte :=
  let t := trisOf r.stack
  let items := r.stack.filter fun i => match i with | .tris _ _ => false | _ => true
  leBytes 8 (nat1 r.any + 2 * nat1 r.cull + 4 * nat1 r.opq + 8 * nat1 r.begun + 16 * nat1 t.isSome +
      256 * ((t.map (·.2)).getD 0 % 128) + 65536 * (items.length % 128) + 2 ^ 24 * r.visits) ++
    leBytes 8 ((t.map (·.1)).getD 0) ++
    ((List.range 9).flatMap fun i => leBytes 4 (r.hit.verts.getD i 0).toNat) ++
    ((List.range 9).flatMap fun i => leBytes 4 (r.cand.verts.getD i 0).toNat) ++
    leBytes 336 (((List.range items.length).zip items).map fun e => itemNat e.2 * 2 ^ (42 * e.1)).sum

/-- A ray record's bytes (R216). -/
def rayBytes (r : Option RayRec) : List Byte :=
  match r with
  | none => List.replicate 512 0
  | some r =>
    ((hitWords r.hit ++ hitWords r.cand ++ (List.range 8).map (fun i => r.ray.getD i 0)).flatMap fun x => leBytes 4 x.toNat) ++
    leBytes 8 r.header.toNat ++ rayState r

/-- A vertex-buffer entry's bytes. -/
def vertexBytes (v : Vertex) : List Byte :=
  leBytes 16 v.attrs.length ++ ((List.range 4).flatMap fun i => leBytes 4 (v.pos.getD i 0).toNat) ++
  (List.range 16).flatMap fun i => leBytes 4 (v.attrs.getD i 0).toNat

/-- A wave record (R216). -/
def waveRecord (d : Device) (core slot : Nat) (w : Wave) : List Byte :=
  let blank : Path := { pc := 0, depth := 0, mask := 0, yielded := false, fresh := false }
  wordBytes (fixedWords d core slot w) ++
  wordBytes ((List.range w.width).flatMap fun i => pathWords (w.pos.paths.getD i blank)) ++
  ((List.range w.width).flatMap fun l => leBytes 4 (tblGet 0#32 w.lfsr l).toNat ++ leBytes 4 (tblGet 0#32 w.wb l).toNat ++
    leBytes 4 (tblGet 0#32 w.old l).toNat ++ leBytes 4 (nat1 (w.gfx.helper.getLsbD l))) ++
  ((List.range (w.width * (8 + w.nstk))).flatMap fun i => leBytes 4 (rfGet d core (w.rfbase + i)).toNat) ++
  ((boundQueues d core slot).flatMap (queueBytes w.width)) ++
  (if w.gfx.rays = [] then [] else (List.range w.width).flatMap fun l => rayBytes (tblFind w.gfx.rays l)) ++
  w.gfx.verts.flatMap vertexBytes

/-! ## Block records (R215) -/

/-- The granules of a block's allocation outside alcoves. -/
def ownGranules (b : Block) : List Nat := ((List.range b.ngran).map fun i => b.sgran + i).filter fun g => !b.freed.contains g

/-- The accumulator tiles that a block holds, in the order of its names. -/
def blockTiles (b : Block) : List Nat := (List.range b.acct).map (physTile b)

/-- The waves of a block in slot order. -/
def blockWaves (d : Device) (bid : Nat) (b : Block) : List (Nat × Wave) :=
  (coreOf d b.core).waves.filter fun e => decide (e.2.block = bid)

/-- The bytes of a metadata slot's image, which goes with a tile (R274). -/
def mdTile : Nat := 0xC00

/-- The sections of a block record after its header: waves, scratchpad, attachments, tiles, metadata, engine records. -/
def sections (d : Device) (mine : Nat → Bool) (bid : Nat) (b : Block) : List (List Byte) :=
  let h := hallOfCore b.core
  [(blockWaves d bid b).flatMap fun e => waveRecord d b.core e.1 e.2,
   (ownGranules b).flatMap fun g => spadRead d b.core (4096 * g) 4096,
   b.attach.flatMap fun a => wordBytes [a.name, BitVec.ofNat 64 (a.gen.toNat * 2 ^ 48 + nat1 a.affinity)],
   (blockTiles b).flatMap fun t => (List.range 64).flatMap fun i => (List.range 128).flatMap fun j =>
     leBytes 10 (accGet d h t i j).toNat,
   (blockTiles b).flatMap fun t => mdRead d h (slotBase t) mdTile,
   (engRecs d mine bid b).flatMap EngRec.bytes]

/-- The offsets of the sections that begin after the waves, and the end. -/
def offsetsFrom : Nat → List (List Byte) → List Nat
  | at', [] => [at']
  | at', s :: t => at' :: offsetsFrom (at' + (pad256 s).length) t

/-- A block record (R215), from the grid whose block it is. -/
def blockRecord (d : Device) (mine : Nat → Bool) (bid : Nat) (b : Block) (g : Grid) : List Byte :=
  let n (x : Nat) : W64 := BitVec.ofNat 64 x
  let ss := sections d mine bid b
  let offs := offsetsFrom 0x100 ss
  let head : List W64 :=
    [n (offs.getD 6 0), n (b.core * 2 ^ 39 + b.slot0 * 2 ^ 33 + (b.nwaves - 1) * 2 ^ 29 + g.lpb.wavew.toNat * 2 ^ 27),
     g.lpb.va.setWidth 64, g.seq, b.linear, n (b.sgran * 64 + (b.ngran + 63) % 64), n (b.acct * 2 ^ 48 + b.mmap.toNat),
     n (b.preq.toNat * 2 ^ 32 + (engRecs d mine bid b).length * 65536 + b.attach.length)] ++
    (List.range 5).map (fun i => n (offs.getD (i + 1) 0)) ++ [n (b.acct * mdTile)] ++ List.replicate 10 0
  wordBytes head ++ ((List.range 8).flatMap fun i => leBytes 4 (bget b i).toNat) ++ List.replicate 32 0 ++ ss.flatMap pad256

/-- What a wave's record has no field for. -/
def waveMore (core : Nat) (w : Wave) : WaveMore :=
  { orph := w.tokOrph, sf := w.trap.sf, taken := w.trap.taken, haltDue := w.pos.haltDue, hall := hallOfCore core
    words := w.cnt.wissue.toNat - w.cnt.base.toNat, owed := 0, arw := w.arw, pix := w.gfx.pix, triangles := w.gfx.triangles }

/-- The poison marks of a block's granules, tiles and metadata (R409). -/
def blockMarks (d : Device) (b : Block) : List (Nat × Nat) :=
  let h := hallOfCore b.core
  let ts := blockTiles b
  d.st.poison.filter fun e =>
    (decide (e.1 = 4) && (ownGranules b).any fun g => (unitsOf 4 (spadKey b.core (4096 * g)) 4096).contains e.2) ||
    (decide (e.1 = 6) && ts.any fun t => decide (accKey h t 0 0 ≤ e.2) && decide (e.2 < accKey h t 0 0 + 8192)) ||
    (decide (e.1 = 7) && ts.any fun t => (unitsOf 4 (h * 65536 + slotBase t) mdTile).contains e.2)

/-- What a block's record has no field for, before the engine operations that it records are withdrawn. -/
def blockMore (d : Device) (mine : Nat → Bool) (addr bid : Nat) (b : Block) : SavedMore :=
  let h := hallOf d (hallOfCore b.core)
  { addr := addr, freed := b.freed, poison := blockMarks d b
    copies := (h.cq.flatMap fun q => (stoppedOps mine q.2).filter fun o => decide (o.block = bid)).map (·.born)
    wins := (h.mat.filter fun e => decide (e.block = bid) && entryStops mine e).map fun e =>
      (waveOf d e.core e.slot).bind fun w => entryWindow w e
    waves := (blockWaves d bid b).map fun e => waveMore b.core e.2 }

/-! ## Restoring a block (R52, R53) -/

/-- Bytes as a number, from an offset. -/
def nAt (bs : List Byte) (off n : Nat) : Nat := leNat ((bs.drop off).take n)

/-- A restored hit. -/
def readHit (bs : List Byte) (off : Nat) (verts : List W32) : RayHit :=
  { status := leW32 bs off, t := leW32 bs (off + 4), u := leW32 bs (off + 8), v := leW32 bs (off + 12)
    prim := leW32 bs (off + 16), geom := leW32 bs (off + 20), verts := verts }

/-- A traversal stack from its numbers. -/
def readItem (x : Nat) : RayItem := if x % 2 = 1 then .leaf (x / 2 % 2 ^ 41 * 128) else .node (x / 2 % 2 ^ 41 * 128)

/-- A restored ray record (R216), its traversal state as `rayState` lays it out. -/
def readRay (bs : List Byte) : RayRec :=
  let s := leW64 ((bs.drop 88).take 8)
  let verts (off : Nat) : List W32 := (List.range 9).map fun i => leW32 bs (off + 4 * i)
  let cand := readHit bs 24 (verts 140)
  let packed := nAt bs 176 336
  let items := (List.range (field s 16 7)).map fun i => readItem (packed / 2 ^ (42 * i) % 2 ^ 42)
  { blankRay with
    hit := readHit bs 0 (verts 104), cand := cand
    ray := (List.range 8).map fun i => leW32 bs (48 + 4 * i), header := BitVec.ofNat 48 (nAt bs 80 6)
    any := s.getLsbD 0, cull := s.getLsbD 1, opq := s.getLsbD 2, begun := s.getLsbD 3, visits := field s 24 32
    stack := if s.getLsbD 4 then .tris (nAt bs 96 6) (some (cand.t, field s 8 7)) :: items else items }

/-- A restored vertex. -/
def readVertex (bs : List Byte) : Vertex :=
  { pos := (List.range 4).map fun i => leW32 bs (16 + 4 * i)
    attrs := (List.range (min (nAt bs 0 4) 16)).map fun i => leW32 bs (32 + 4 * i) }

/-- A restored access-processor queue (Table 8.9): bound again, nothing gathered. -/
def readQueue (bs : List Byte) (width slot : Nat) : Nat × ApQueue :=
  let w (i : Nat) : W64 := leW64 ((bs.drop (8 * i)).take 8)
  (field (w 0) 0 2,
   { slot := some slot, gbnd := (w 0).getLsbD 3, sbnd := (w 0).getLsbD 4, gsp := (w 0).getLsbD 5, ssp := (w 0).getLsbD 6
     sovf := (w 0).getLsbD 7, gbase := w 1, gstride := w 2, gcount := field (w 3) 32 32, gnext := field (w 3) 0 32
     goffs := (List.range width).map fun l => leW32 bs (80 + 4 * l), gmask := w 7, entries := [], sqbase := w 4
     sqstride := w 5, scount := field (w 6) 32 32, snext := field (w 6) 0 32
     soffs := (List.range width).map fun l => leW32 bs (80 + 4 * width + 4 * l), smask := w 8 })

/-- A wave as its record gives it: the wave, its register words, its queues, the windows of its tokens and of an ALCATT,
and the record's length. -/
structure SavedWave where
  slot : Nat
  wave : Wave
  image : List W32
  queues : List (Nat × ApQueue)
  laws : List Nat
  lawa : Nat
  len : Nat

/-- A wave record read (Table 8.8), for a wave of a width and a stack. -/
def readWave (bs : List Byte) (base : Wave) (more : Option WaveMore) : SavedWave :=
  let w (i : Nat) : W64 := leW64 ((bs.drop (8 * i)).take 8)
  let W := base.width
  let pos := w 71
  let npath := field pos 51 7
  let at' := 1024 + 16 * W
  let rf := 1024 + 32 * W
  let regs := W * (8 + base.nstk)
  let qs := rf + 4 * regs
  let nq := min (field (w 103) 24 3) 4
  let nr := (w 103).getLsbD 16
  let nv := field (w 103) 0 9
  let rs := qs + nq * (80 + 8 * W)
  let vs := rs + nat1 nr * 512 * W
  let lane (k : Nat) : Tbl W32 := (List.range W).map fun l => (l, leW32 bs (at' + 16 * l + 4 * k))
  let path (i : Nat) : Path :=
    let x := leW64 ((bs.drop (1024 + 16 * i)).take 8)
    { pc := BitVec.ofNat 48 (field x 3 45 * 8), depth := x.extractLsb' 48 16, mask := leW64 ((bs.drop (1032 + 16 * i)).take 8)
      yielded := x.getLsbD 0, fresh := x.getLsbD 1 }
  { slot := field pos 58 6, laws := (List.range 16).map (fun k => field (w (82 + k)) 0 4), lawa := field (w 104) 0 4
    image := (List.range regs).map fun i => leW32 bs (rf + 4 * i)
    queues := (List.range nq).map fun i => readQueue (bs.drop (qs + i * (80 + 8 * W))) W (field pos 58 6)
    len := vs + 96 * nv
    wave := { base with
      pos := { base.pos with
        paths := (List.range (min npath W)).map path, run := field pos 44 7, clpos := pos.extractLsb' 40 4, hdr := none
        yieldDue := false, yrank := pos.getLsbD 1, begun := true, haltDue := (more.map (·.haltDue)).getD 0 }
      rfbase := field (w 72) 0 16
      sregs := (List.range 64).map fun i => (i, w i)
      preds := (List.range 7).map fun i => (i, w (64 + i))
      tokPend := (w 81).setWidth 16, tokOrph := (more.map (·.orph)).getD 0
      lfsr := lane 0, wb := lane 1, old := lane 2
      fflags := (w 73).extractLsb' 0 7, fmode := (w 73).extractLsb' 8 3
      halted := pos.getLsbD 0
      trap := { trcause := (w 73).extractLsb' 16 8, trlvl := (w 101).extractLsb' 8 2, trdepth := (w 101).extractLsb' 48 16
                trvec := (w 98).setWidth 48, strvec := (w 99).setWidth 48, trfbase := (w 100).setWidth 48
                spillh := (w 76).setWidth 48, bsbase := (w 74).setWidth 48, bslane := (w 75).setWidth 32
                wdlim := (w 101).extractLsb' 0 6, sf := more.bind (·.sf), taken := (more.map (·.taken)).getD 0 }
      cnt := { wcycle := w 77, wissue := w 78, base := w 78 - BitVec.ofNat 64 ((more.map (·.words)).getD 0), spass := w 79
               grain := w 80 + BitVec.ofNat 64 ((more.map (·.owed)).getD 0), fair := field (w 72) 16 13, wd := 0
               deferred := none }
      arw := more.bind (·.arw)
      gfx := { dsb := (w 102).setWidth 48
               helper := maskOf ((List.range W).filter fun l => (leW32 bs (at' + 16 * l + 12)).getLsbD 0)
               verts := (List.range (min nv 256)).map fun i => readVertex (bs.drop (vs + 96 * i))
               pix := more.bind (·.pix), triangles := (more.map (·.triangles)).getD 0
               rays := if nr then (List.range W).filterMap fun l =>
                   let x := (bs.drop (rs + 512 * l)).take 512
                   if x.all fun b => decide (b = 0) then none else some (l, readRay x)
                 else [] } } }

/-- The waves of a block record, read one after another. -/
def readWaves (bs : List Byte) (base : Nat → Wave) (more : List WaveMore) : Nat → Nat → List SavedWave
  | _, 0 => []
  | i, n + 1 =>
    let x := readWave bs (base i) more[i]?
    x :: readWaves (bs.drop x.len) base more (i + 1) n

/-- A block record as it is read: the block without its grid, its waves, the grid, and the bytes of each section. -/
structure SavedBlock where
  bytes : List Byte
  block : Block
  gid : Nat
  grid : Grid
  waves : List SavedWave
  more : SavedMore
  engs : List EngRec

/-- The grid whose block a record holds, by the launch parameter block and the sequence number. -/
def recordGrid (d : Device) (bs : List Byte) : Option (Nat × Grid) :=
  d.grids.find? fun e => decide (e.2.lpb.va.toNat = nAt bs 0x10 6) && decide (e.2.seq.toNat = nAt bs 0x18 8)

/-- A block record read (R215). -/
def readBlock (d : Device) (bs : List Byte) (more : SavedMore) : Option SavedBlock :=
  match recordGrid d bs with
  | none => none
  | some (gid, g) =>
    let w (i : Nat) : W64 := leW64 ((bs.drop (8 * i)).take 8)
    let core := field (w 1) 39 9
    let slot0 := field (w 1) 33 6
    let nw := field (w 1) 29 4 + 1
    let b : Block :=
      { grid := gid, ctx := g.ctx, core := core, slot0 := slot0, nwaves := nw, linear := w 4, dpos := 0, ref := core
        sgran := field (w 5) 6 6, ngran := g.lpb.granules, freed := more.freed, acct := field (w 6) 48 4
        mmap := (w 6).setWidth 48, bregs := (List.range 8).map fun i => (i, leW32 bs (0xC0 + 4 * i)), bwritten := 0, bnotes := []
        preq := (w 7).extractLsb' 32 3, grains := g.lpb.grains, current := g.lpb.current, attach := []
        pixel := g.parent.isSome, ended := false }
    let base (i : Nat) : Wave := startWave d.nextId b g (hallOf d (hallOfCore core)).cycle i (slot0 + i) 0 0
    some { bytes := bs, gid := gid, grid := g, more := more
           block := b, waves := readWaves (bs.drop 0x100) base more.waves 0 nw
           engs := readEngRecs (field (w 7) 16 16) (bs.drop (w 12).toNat) }

/-- Whether a record agrees with itself and with the core it names (R392, INFO 3): its size, slots, and width, which is that of
the core's waves where it has any (R25). -/
def recordSound (d : Device) (r : SavedBlock) : Bool :=
  let bs := r.bytes
  let size := nAt bs 0 8
  decide (size % 256 = 0) && decide (size = bs.length) && decide (nAt bs 0x60 8 ≤ size) &&
  decide (field (leW64 ((bs.drop 8).take 8)) 27 2 = r.grid.lpb.wavew.toNat) && decide (r.block.nwaves = r.grid.lpb.nwaves + 1) &&
  decide ((r.waves.head?).map (·.slot) = some r.block.slot0) &&
  ((coreOf d r.block.core).waves.all fun e => decide (e.2.width = r.grid.lpb.width)) &&
  (r.waves.zip (r.waves.drop 1)).all fun e => decide (e.1.slot < e.2.slot)

/-- Whether register words of a core hold no wave. -/
def wordsOpen (k : Core) (at' n : Nat) : Bool :=
  decide (at' + n ≤ Config.rfWords) && k.waves.all fun e =>
    decide (e.2.rfbase + e.2.width * (8 + e.2.nstk) ≤ at') || decide (at' + n ≤ e.2.rfbase)

/-- Whether what a record names is free (R53, R392): slots, register words, granules, tiles, queues. -/
def recordFree (d : Device) (r : SavedBlock) : Bool :=
  let b := r.block
  let k := coreOf d b.core
  (r.waves.all fun x => (tblFind k.waves x.slot).isNone) &&
  (r.waves.all fun x => wordsOpen k x.wave.rfbase (x.wave.width * (8 + x.wave.nstk)) &&
    x.queues.all fun q => (apqOf d b.core q.1).slot.isNone) &&
  ((ownGranules b).all fun g => !granuleTaken d b.core g) &&
  (blockTiles b).all fun t => (freeTiles d (hallOfCore b.core)).contains t

/-- The alcoves that a record's attachments name and that still exist: entry, the generation at the attachment, which a seal
since then has left behind (R215, R257), and whether it is an affinity. -/
def recordAlcoves (d : Device) (r : SavedBlock) : List Attach :=
  let at' := nAt r.bytes 0x48 8
  (List.range (nAt r.bytes 0x38 2)).filterMap fun i =>
    let name := leW64 ((r.bytes.drop (at' + 16 * i)).take 8)
    let x := leW64 ((r.bytes.drop (at' + 16 * i + 8)).take 8)
    match alcFind d r.block.ctx name with
    | some e => some { entry := e, name := name, gen := x.extractLsb' 48 16, affinity := x.getLsbD 0 }
    | none => none

/-- An operation's place on the engines at a reissue: the range locks added, if the table has room (R52). -/
def relock (d : Device) (h : Nat) (ls : List RangeLock) : Option Device :=
  if lockRoom (hallOf d h) ls.length then some (modHall d h (lockAll ls)) else none

/-- A withdrawn matrix pass reissued. -/
def reissueMat (d : Device) (r : EngRec) (bid : Nat) (b : Block) (w : Wave) (win : Option Nat) : Option Device :=
  let h := hallOfCore b.core
  let id := d.nextId
  let ws := readLocks id none bid b.ctx (bytesWords (r.payload.length / 8) r.payload)
  let x := WordX.ofBits r.code
  let opc : BitVec 8 := r.code.extractLsb' 56 8
  let op := (r.args.getD 3 0).toNat
  if 32 ≤ (hallOf d h).mat.length ∨ (hallOf d h).staging.any (fun s => !s.posted) then none
  else
    match relock { d with nextId := id + 1 } h ws.1 with
    | none => none
    | some d1 =>
      let e : MatEntry :=
        { id := id, core := b.core, slot := r.slot, block := bid, ctx := b.ctx, priv := privilegedWave d w
          wop := if op = 0 then none else some op, prio := w.prio, opc := opc, word := x, opA := ws.2.getD 0 0
          opB := ws.2.getD 1 0, desc0 := r.args.getD 0 0, desc1 := r.args.getD 1 0, arv := r.arv, image := ws.2.drop 2
          tiles := entryNames b opc x, staging := none, age := (hallOf d h).cycle, granted := false, order := 0, occEnd := 0
          done := false, failed := false, flags := 0, estat := 0, status := 0, parked := none, fetching := false }
      let d2 := modHall d1 h fun k => { k with mat := k.mat ++ [e] }
      some (if op = 0 then d2 else modWave d2 b.core r.slot fun w =>
        { w with ops := w.ops ++ [{ id := op, kind := .decomp, win := win
                                    regs := [.sreg (regNo x.b + 1)], writes := [(.sreg (regNo x.b + 1), 0)], tok := none
                                    flags := 0, args := [], ports := [] }]
                 nextOp := max w.nextOp (op + 1) })

/-- An operation put into its queue in the order of first issues: before those of its context that were issued later and have
not begun, which an earlier record brought back (R253). -/
def insertCopy (o : CopyOp) : List CopyOp → List CopyOp
  | [] => [o]
  | x :: t => if x.ctx = o.ctx ∧ !x.begun ∧ o.born < x.born then o :: x :: t else x :: insertCopy o t

/-- A copy's remainder reissued, with the number of its first issue; 0 for one that is not known. -/
def reissueCopy (d : Device) (r : EngRec) (bid : Nat) (b : Block) (w : Wave) (born : Nat) : Option Device :=
  let h := hallOfCore b.core
  let id := d.nextId
  let x := WordE.ofBits r.code
  let q := cpQueue x
  let ws := readLocks id (some q) bid b.ctx (bytesWords (r.payload.length / 8) r.payload)
  let st := ws.2.getD 2 0
  if 16 ≤ (cqOf (hallOf d h) q).length then none
  else
    match relock { d with nextId := id + 1 } h ws.1 with
    | none => none
    | some d1 =>
      let o : CopyOp :=
        { id := id, born := if born = 0 then id else born, core := b.core, slot := r.slot, block := bid, ctx := b.ctx
          priv := st.getLsbD 16 && privilegedWave d w, opc := r.code.extractLsb' 56 8, word := x
          x := r.args.getD 1 0, y := r.args.getD 0 0, sh0 := ws.2.getD 0 0, sh1 := ws.2.getD 1 0
          arv := if r.tokm / 32 % 2 = 1 then some r.arv else none, clear := (ws.2.drop 3).map fun w => w.setWidth 8
          begun := st.getLsbD 17, unit := (r.args.getD 3 0).toNat, owed := field st 18 46, finished := st.getLsbD 17
          flags := st.extractLsb' 0 7, estat := st.extractLsb' 8 8, parked := none, moved := d.fcycle }
      some (modHall d1 h fun k => { k with cq := tblSet k.cq q (insertCopy o (cqOf k q)) })

/-- The rows of a withdrawn neural call. -/
def callRows (d : Device) (r : EngRec) (bid : Nat) (b : Block) (w : Wave) : List CallRow :=
  let x := WordN.ofBits r.code
  let v : Wave := { w with trap := { w.trap with sf := none } }
  (lanesOf w.width (r.args.getD 0 0)).map fun l =>
    { core := b.core, slot := r.slot, block := bid, op := (r.args.getD 2 0).toNat, lane := l
      handle := BitVec.ofNat 16 (nAt r.payload (4 * l) 2)
      inputs := (List.range (x.ni.toNat + 1)).map fun i => leW32 r.payload (4 * (w.width * (1 + i) + l))
      dst := (List.range (x.no.toNat + 1)).filterMap fun i => (vword v l (regNo x.out + i)).map RegLoc.rf
      age := (hallOf d (hallOfCore b.core)).cycle, outs := [], flags := 0 }

/-- A withdrawn neural call reissued (R52): its rows placed in bins, its operation outstanding again. -/
def reissueCall (d : Device) (r : EngRec) (bid : Nat) (b : Block) (w : Wave) (win : Nat) : Option Device :=
  let set : VA := (r.args.getD 1 0).setWidth 48
  let hall := hallOfCore b.core
  let rows := callRows d r bid b w
  let dst := rows.flatMap (·.dst)
  let op := (r.args.getD 2 0).toNat
  match withUnit d hall (placeRows (rows.map (rowIn d hall b.ctx set))) with
  | none => none
  | some d1 =>
    some (modWave d1 b.core r.slot fun w =>
      let grow (o : LongOp) : LongOp :=
        if o.id = op then { o with regs := o.regs ++ dst, writes := o.writes ++ dst.map fun k => (k, 0) } else o
      if w.ops.any fun o => decide (o.id = op) then { w with ops := w.ops.map grow }
      else
        { w with ops := w.ops ++ [{ id := op, kind := .ncall, win := if win = 15 then none else some win, regs := dst
                                    writes := dst.map fun k => (k, 0), tok := some (r.tokm % 16)
                                    flags := (r.args.getD 3 0).setWidth 7, args := [r.code], ports := [] }]
                 nextOp := max w.nextOp (op + 1) })

/-- A withdrawn ALCATT reissued: it waits for the alcove that has its name by then (log 18). -/
def reissueAtt (d : Device) (r : EngRec) (b : Block) (win : Nat) : Device :=
  let reg := (r.args.getD 1 0).toNat % 256
  let place := r.args.getD 3 0
  let made : W64 := BitVec.ofNat 64 (madeOf d b.ctx (r.args.getD 0 0))
  modWave d b.core r.slot fun w =>
    { w with ops := w.ops ++ [{ id := w.nextOp, kind := .alcatt, win := if win = 15 then none else some win
                                regs := [.sreg reg], writes := [], tok := none, flags := 0, ports := []
                                args := [r.args.getD 0 0, r.args.getD 2 0, BitVec.ofNat 64 (field place 0 48),
                                         BitVec.ofNat 64 (field place 48 4), r.code, BitVec.ofNat 64 reg, made] }]
             nextOp := w.nextOp + 1 }

/-- The engine records of a block with what they have no field for: a copy's number, a decomposition's window. -/
def notedRecs : List Nat → List (Option Nat) → List EngRec → List (EngRec × Nat × Option Nat)
  | _, _, [] => []
  | copies, wins, r :: t =>
    if r.kind = 1 then (r, 0, wins.headD none) :: notedRecs copies (wins.drop 1) t
    else if r.kind = 2 then (r, copies.headD 0, none) :: notedRecs (copies.drop 1) wins t
    else (r, 0, none) :: notedRecs copies wins t

/-- The engine records of a block reissued in order (R52): none while one finds no place. -/
def reissue (bid : Nat) (b : Block) (ws : List SavedWave) : List (EngRec × Nat × Option Nat) → Device → Option Device
  | [], d => some d
  | (r, born, win) :: t, d =>
    match waveOf d b.core r.slot, ws.find? fun x => decide (x.slot = r.slot) with
    | some w, some x =>
      let law (k : Nat) := x.laws.getD k 15
      let next := match r.kind with
        | 1 => reissueMat d r bid b w (match xTok (WordX.ofBits r.code) with
            | some k => if law k.toNat = 15 then none else some (law k.toNat)
            | none => win)
        | 2 => reissueCopy d r bid b w born
        | 3 => reissueCall d r bid b w (law (r.tokm % 16))
        | 4 => some (reissueAtt d r b x.lawa)
        | _ => some d
      match next with
      | some d1 => reissue bid b ws t d1
      | none => none
    | _, _ => reissue bid b ws t d

/-- The register image of a wave loaded. -/
def loadImage (core : Nat) (d : Device) (x : SavedWave) : Device :=
  ((List.range x.image.length).zip x.image).foldl (fun d e => rfSet d core (x.wave.rfbase + e.1) e.2) d

/-- The scratchpad, tiles and metadata of a block loaded from its record, with their poison marks. -/
def loadStores (d : Device) (r : SavedBlock) : Device :=
  let b := r.block
  let h := hallOfCore b.core
  let off (i : Nat) : Nat := nAt r.bytes (0x40 + 8 * i) 8
  let gs := ownGranules b
  let ts := blockTiles b
  let d1 := ((List.range gs.length).zip gs).foldl (fun d e =>
    spadWrite d b.core (4096 * e.2) ((r.bytes.drop (off 0 + 4096 * e.1)).take 4096)) d
  let d2 := ((List.range ts.length).zip ts).foldl (fun d e =>
    let image := (r.bytes.drop (off 2 + 81920 * e.1)).take 81920
    (List.range 8192).foldl (fun d k =>
      accSet d h e.2 (k / 128) (k % 128) (BitVec.ofNat 80 (nAt image (10 * k) 10)) false) d) d1
  let d3 := ((List.range ts.length).zip ts).foldl (fun d e =>
    mdWrite d h (slotBase e.2) ((r.bytes.drop (off 3 + mdTile * e.1)).take mdTile)) d2
  { d3 with st := { d3.st with poison := d3.st.poison ++ r.more.poison.filter fun x => !d3.st.poison.contains x } }

/-- What restoring a block comes to: done, or alcoves and engine places to wait for. -/
inductive Restored where
  | done (d : Device) (bid : Nat)
  | wait (d : Device)

/-- A block restored from a record whose resources are free (R52): alcoves first, then stores, waves, engine records.
`counted` says that its attachments are still counted; refills take no granule of `held`. -/
def restoreBlock (d : Device) (r : SavedBlock) (counted : Bool) (held : List Nat) : Restored :=
  let b := r.block
  let alcs := recordAlcoves d r
  let away := alcs.filter fun a => !alcoveHere d a.entry b.core
  if away ≠ [] then .wait (away.foldl (fun d a => bringAlcove d a.entry b.core (ownGranules b ++ held)) d)
  else
    let bid := d.nextId
    let b1 := { b with attach := if counted then alcs else [] }
    let d1 := loadStores { d with nextId := bid + 1, blocks := tblSet d.blocks bid b1 } r
    let d2 := modCore (r.waves.foldl (loadImage b.core) d1) b.core fun k =>
      { k with
        waves := r.waves.foldl (fun t x => tblSet t x.slot x.wave) k.waves
        queues := r.waves.foldl (fun t x => x.queues.foldl (fun t q => tblSet t q.1 q.2) t) k.queues }
    let d3 := if counted then d2 else alcs.foldl (fun d a => attachBlock d bid a.entry a.affinity) d2
    match reissue bid b r.waves (notedRecs r.more.copies r.more.wins r.engs) d3 with
    | some d4 => .done (hallChanged d4 (hallOfCore b.core)) bid
    | none => .wait d

end Sys2Proof.Machine
end

