-- ==== Sys2Proof/Machine/Preempt.lean ====
section
/-! DEFINITION. Pre-emption and return of a context (R50 to R54), hall owners (R346), the resumption of parked and halted
waves (R210, R402), and the words CTXSAVE and CTXREST (R213, R392). -/

namespace Sys2Proof.Machine

/-! ## Pre-emption (R50, R51) -/

/-- Whether a block is placed and none of its waves has issued (R50). -/
def blockFresh (d : Device) (bid : Nat) (b : Block) : Bool :=
  (blockWaves d bid b).all fun e => !e.2.pos.begun

/-- An undone block's place among its grid's positions, or its pixel wave's among the waiting (R50). -/
def undonePlace (d : Device) (bid : Nat) (b : Block) : Device :=
  match tblFind d.grids b.grid with
  | none => d
  | some g =>
    match g.parent, (blockWaves d bid b).head? with
    | some geo, some (_, w) =>
      match w.gfx.pix with
      | some x =>
        let p : PixPending :=
          { grid := b.grid, gallery := galleryOf (hallOfCore b.core)
            mask := (w.pos.paths.head?.map (·.mask)).getD 0, helper := w.gfx.helper, wave := x }
        modDraw d geo fun y => { y with pending := p :: y.pending, pixelBlocks := y.pixelBlocks - 1 }
      | none => d
    | _, _ => modGrid d b.grid fun g => { g with undone := sortBy (fun a b => decide (a.1 < b.1)) ((b.dpos, b.ref) :: g.undone) }

/-- A placed block undone (R50, step 1): its resources freed, its budget debit returned. The debit returns to the interval
that is running, also where an earlier one was debited (DESIGN CHOICE, log 116). -/
def undoBlock (d : Device) (e : Nat × Block) : Device :=
  let d1 := undonePlace d e.1 e.2
  removeBlock (modPw d1 (hallOfCore e.2.core) fun p => { p with erem := p.erem + e.2.grains }) e.1 e.2

/-- A context's blocks that are not terminated, in ascending core and slot order. -/
def ctxBlocks (d : Device) (ctx : Nat) : List (Nat × Block) :=
  sortBy (fun a b => lexLt [a.2.core, a.2.slot0] [b.2.core, b.2.slot0])
    (d.blocks.filter fun e => decide (e.2.ctx = ctx) && !e.2.ended)

/-- A request to pre-empt a context (R50, step 1). -/
def requestPreempt (d : Device) (ctx : Nat) : Device :=
  if (ctxOf d ctx).req || ((ctxOf d ctx).saved && !(ctxOf d ctx).resume) then d
  else
    ((ctxBlocks d ctx).filter fun e => blockFresh d e.1 e.2).foldl undoBlock (modCtx d ctx fun k => { k with req := true })

/-- A write of a context's register at 0x18 (Table 13.1): EVQ, then REQ or RESUME. A context without a resident block may be
told to resume though SAVED reads 0: so a checkpoint's contexts are (R357). -/
def preemptWrite (d : Device) (ctx : Nat) (value : W64) : Device :=
  let d1 := modCtx d ctx fun k => { k with evq := value.setWidth 8 }
  let d2 := if value.getLsbD 63 then requestPreempt d1 ctx else d1
  if value.getLsbD 62 then modCtx d2 ctx fun k => { k with
    resume := k.resume || (!k.req && (k.saved || decide (ctxBlocks d2 ctx = []))) } else d2

/-- PREEMPT_REQUEST (R50, R346). -/
def execPreemptRequest (ctx : Nat) (value : W64) (s : State) : Out State :=
  runDevice (fun d => if ctx < 64 then preemptWrite d ctx value else d) s

/-- The waves of a context stop issuing (R50, step 2); their reservations are cleared (R139). -/
def preemptHalt (d : Device) (ctx : Nat) : Device :=
  let k := ctxOf d ctx
  if k.req && !k.halting then
    mapWaves (modCtx d ctx fun k => { k with halting := true }) fun w => if w.ctx = ctx then { w with resv := [] } else w
  else d

/-- PREEMPT_HALT (R50). -/
def execPreemptHalt (ctx : Nat) (s : State) : Out State := runDevice (fun d => preemptHalt d ctx) s

/-- The block records of a context's save area with their addresses (R214), and the area's end. -/
def areaRecords (d : Device) (mine : Nat → Bool) : Nat → List (Nat × Block) → List (Nat × Nat × Block × List Byte) × Nat
  | at', [] => ([], at')
  | at', e :: t =>
    match tblFind d.grids e.2.grid with
    | none => areaRecords d mine at' t
    | some g =>
      let bs := blockRecord d mine e.1 e.2 g
      let r := areaRecords d mine (at' + bs.length) t
      ((at', e.1, e.2, bs) :: r.1, r.2)

/-- Who reads and writes a save area apart from its block records: a copy engine with the privilege capability (R51). -/
def areaAgent : Agent := { hall := none, priv := true, safe := true }

/-- Writes of copy engines with privilege, in order: none where one faults. -/
def writeAll (ctx : Nat) : List (Agent × Nat × List Byte) → Device → Option Device
  | [], d => some d
  | (g, va, bs) :: t, d =>
    match engineWrite d ctx ctx true .plain (vaNat va) bs g with
    | .error _ => none
    | .ok d1 => writeAll ctx t d1

/-- A saved block gone from its core; its attachments stay counted (R51). -/
def leaveSaved (d : Device) (e : Nat × Block) : Device :=
  let d1 := freeSlots d e.1 e.2.core
  hallChanged { d1 with blocks := tblErase d1.blocks e.1 } (hallOfCore e.2.core)

/-- The event that a pre-emption is complete (R50, step 6), and the record of an evacuation (R416, R438). -/
def savedEvent (d : Device) (ctx : Nat) (bs : List (Nat × Block)) : Device :=
  let k := ctxOf d ctx
  let at' (z : Nat) : Where := ((bs.find? fun e => decide (hallOfCore e.2.core / 4 = z)).map fun e =>
    { blockWhere e.2 with hdr := 0, word := 0, slot := 0 }).getD { hdr := 0, word := 0, core := 0, slot := 0, linear := 0 }
  k.evac.foldl (fun d z => faultRecord d (.sensor z) ctx 0x54 false 0 (BitVec.ofNat 64 z) (at' z))
    (emit d (.launch k.evq.toNat) (.preempted ctx))

/-- The save of a context (R50, steps 3 to 6; R51): held while an operation that completes is in progress, while a matrix
engine is being reset (R420), or while an access to the save area faults; a context with no block, which has nothing to save,
is saved all the same (DESIGN CHOICE, log 142). A request that comes while the context resumes is
held too, its waves halted, until every saved block is restored or ended (DESIGN CHOICE, log 117). -/
def preemptSave (d0 : Device) (ctx : Nat) : Device :=
  let k := ctxOf d0 ctx
  let bs := ctxBlocks d0 ctx
  if !k.halting || decide (k.records ≠ []) || bs.any fun e => (hallOf d0 (hallOfCore e.2.core)).matHung then d0
  else
    let mine (b : Nat) : Bool := bs.any fun e => decide (e.1 = b)
    let d := settleOps d0 mine
    if saveBusy d mine then d
    else
      let base := k.csa.toNat
      let rs := areaRecords d mine 0x100 bs
      let head := wordBytes ([BitVec.ofNat 64 rs.1.length, BitVec.ofNat 64 rs.2, BitVec.ofNat 64 ctx] ++ List.replicate 5 0)
      let written := writeAll ctx ((rs.1.map fun r => (copyAgent (hallOfCore r.2.2.1.core) true, base + r.1, r.2.2.2)) ++
        [(areaAgent, base, head)]) d
      match (match written with | none => if bs = [] then some d else none | some d1 => some d1) with
      | none => d
      | some d1 =>
        let more := rs.1.map fun r => blockMore d mine (vaNat (base + r.1)) r.2.1 r.2.2.1
        let d2 := bs.foldl leaveSaved (savedEvent (withdraw d1 mine) ctx bs)
        modCtx d2 ctx fun k =>
          { k with req := false, halting := false, saved := true, resume := false, more := more, evac := [] }

/-- PREEMPT_SAVE (R50, R51). -/
def execPreemptSave (ctx : Nat) (s : State) : Out State := runDevice (fun d => preemptSave d ctx) s

/-! ## Return (R52, R53) -/

/-- The records of a save area, read from their headers: address and core; none where a read faults. -/
def areaIndex (ctx : Nat) : Nat → Nat → Device → Option (List (Nat × Nat) × Device)
  | 0, _, d => some ([], d)
  | n + 1, va, d =>
    match engineRead d ctx true .plain (vaNat va) 16 areaAgent with
    | .error _ => none
    | .ok (bs, d1) =>
      match areaIndex ctx n (va + nAt bs 0 8) d1 with
      | none => none
      | some (t, d2) => some ((vaNat va, field (leW64 (bs.drop 8)) 39 9) :: t, d2)

/-- The return of a context complete (R53). -/
def ctxResumed (k : Ctx) : Ctx := { k with resume := false, saved := false, records := [], more := [] }

/-- The start of a context's return: its records are found. It is held while one of their halls stands in a closed zone (R438).
A context saved with no block returns though its save area cannot be read (DESIGN CHOICE, log 142). -/
def contextResume (d : Device) (ctx : Nat) : Device :=
  let k := ctxOf d ctx
  if !k.resume || decide (k.records ≠ []) then d
  else
    match engineRead d ctx true .plain k.csa.toNat 8 areaAgent with
    | .error _ => if k.saved ∧ k.more = [] then modCtx d ctx ctxResumed else d
    | .ok (bs, d1) =>
      match areaIndex ctx (min (leNat bs) 30720) (k.csa.toNat + 0x100) d1 with
      | none => d
      | some (rs, d2) =>
        let shut (h : Nat) : Bool := (hallOf d h).ck.service && (hallOf d h).ck.stopped
        if rs.any fun r => shut (hallOfCore r.2) then d
        else modCtx d2 ctx fun k => if rs = [] then ctxResumed k else { k with records := rs, saved := true }

/-- CONTEXT_RESUME (R52, R53). -/
def execContextResume (ctx : Nat) (s : State) : Out State := runDevice (fun d => contextResume d ctx) s

/-- A context's choices of a core that failed are due again (R39, R52). -/
def retryCtx (ctx : Nat) (d : Device) : Device :=
  { d with grids := tblMap (fun _ g =>
      if g.ctx = ctx then { g with tried := none, draw := { g.draw with tried := false } } else g) d.grids }

/-- A record done with: the context's return is complete with the last, and the DFE resumes placement on its hall with the hall's
last (R52). -/
def recordGone (d : Device) (ctx index : Nat) : Device :=
  let rs := listDrop (ctxOf d ctx).records index
  let d1 := modCtx d ctx fun k => if rs = [] then ctxResumed k else { k with records := rs }
  match (ctxOf d ctx).records[index]? with
  | some r => if rs.any fun x => decide (hallOfCore x.2 = hallOfCore r.2) then d1 else retryCtx ctx d1
  | none => d1

/-- What is kept beside a record. -/
def keptMore (d : Device) (ctx addr : Nat) : SavedMore :=
  ((ctxOf d ctx).more.find? fun m => decide (m.addr = addr)).getD { addr := addr, freed := [], poison := [], copies := [], wins := [], waves := [] }

/-- A block record read from virtual memory. -/
def fetchRecord (d : Device) (ctx hall addr : Nat) : Except MFault (Option SavedBlock × Device) :=
  let g := copyAgent hall true
  match engineRead d ctx true .plain addr 8 g with
  | .error f => .error f
  | .ok (hd, d1) =>
    match engineRead d1 ctx true .plain addr (min (leNat hd) 0x4000000) g with
    | .error f => .error f
    | .ok (bs, d2) => .ok (readBlock d2 bs (keptMore d2 ctx addr), d2)

/-- The granules that the saved blocks of a core are to have again. -/
def heldGranules (d : Device) (ctx core : Nat) : List Nat :=
  ((ctxOf d ctx).records.filter fun r => decide (r.2 = core)).flatMap fun r =>
    match fetchRecord d ctx (hallOfCore core) r.1 with
    | .ok (some x, _) => ownGranules x.block
    | _ => []

/-- A saved block of a hall out of service, ended (R53). -/
def endSaved (d : Device) (ctx : Nat) (r : SavedBlock) : Device :=
  let bid := d.nextId
  let b := { r.block with attach := recordAlcoves d r, ended := true }
  let d1 := { d with nextId := bid + 1, blocks := tblSet d.blocks bid b }
  let d2 := faultRecord d1 (.launch (ctxOf d ctx).evq.toNat) ctx 0x5A true 0 (BitVec.ofNat 64 (hallOfCore b.core)) (blockWhere b)
  let d3 := releaseAttachments d2 bid
  countRetired (modGrid { d3 with blocks := tblErase d3.blocks bid } b.grid fun g => { g with bad := true }) b

/-- A saved block's return (R53): it waits for its hall, its resources, its alcoves and its engine operations' places. -/
def blockRestore (d : Device) (ctx index : Nat) : Device :=
  let k := ctxOf d ctx
  match k.records[index]? with
  | none => d
  | some (addr, core) =>
    let h := hallOf d (hallOfCore core)
    match fetchRecord d ctx (hallOfCore core) addr with
    | .error _ => d
    | .ok (none, d0) => recordGone d0 ctx index
    | .ok (some r, d0) =>
      if !h.ck.service then recordGone (endSaved d0 ctx r) ctx index
      else if h.owner ≠ some ctx ∨ h.ck.held ∨ h.ck.stopped ∨ !recordFree d0 r then d0
      else
        match restoreBlock d0 r true (heldGranules d0 ctx core) with
        | .wait d1 => d1
        | .done d1 _ => recordGone d1 ctx index

/-- BLOCK_RESTORE (R53). -/
def execBlockRestore (ctx index : Nat) (s : State) : Out State := runDevice (fun d => blockRestore d ctx index) s

/-! ## Hall owners (R38, R346) -/

/-- A write of a hall's owner register: what takes effect once it may; a write that changes no owner leaves its CTX field at
once. A hall out of service keeps VALID 0, by which the register shows it (R24; DEDUCED, log 118). -/
def ownerWrite (d : Device) (hall : Nat) (value : W64) : Device :=
  modHall d hall fun h =>
    let o : Option Nat := if value.getLsbD 6 && h.ck.service then some (field value 0 6) else none
    if o = h.owner then { h with nextOwner := none, lastOwner := if o = none then value.setWidth 6 else h.lastOwner }
    else { h with nextOwner := some o, nextCtx := value.setWidth 6 }

/-- A hall's owner register as it reads (R346): VALID and CTX. -/
def ownerWord (h : Hall) : W64 :=
  match h.owner with
  | some c => BitVec.ofNat 64 (64 + c % 64)
  | none => h.lastOwner.setWidth 64

/-- HALL_OWNER_WRITE (R346). -/
def execHallOwnerWrite (hall : Nat) (value : W64) (s : State) : Out State :=
  runDevice (fun d => if hall < Config.halls then ownerWrite d hall value else d) s

/-- Whether a pixel wave of a context waits for placement in a gallery (R296). -/
def pixelWaits (d : Device) (ctx gallery : Nat) : Bool :=
  d.grids.any fun g => decide (g.2.ctx = ctx) && g.2.draw.pending.any fun p => decide (p.gallery = gallery)

/-- Whether a hall's owner may change: no block is resident, and the former owner's pixel waves keep a hall (R346). -/
def ownerFree (d : Device) (hall : Nat) : Bool :=
  decide (hallBlocks d hall = []) &&
  match (hallOf d hall).owner with
  | none => true
  | some c =>
    (ownedHalls d c).any (fun h => decide (h ≠ hall) && decide (galleryOf h = galleryOf hall)) ||
      !pixelWaits d c (galleryOf hall)

/-- A hall's change of owner (R85, R291, R346): the former owner's resident alcoves are evicted, the weight cache is
dropped. -/
def ownerChange (d : Device) (hall : Nat) : Device :=
  let h := hallOf d hall
  match h.nextOwner with
  | none => d
  | some o =>
    if !ownerFree d hall then d
    else
      let d1 := (hallAlcoves d hall).foldl (fun d i =>
        let a := alcOf d i
        if a.state = 1 ∧ !a.busy ∧ some a.owner.toNat = h.owner then startEvict d i else d) d
      modHall d1 hall fun h =>
        { h with owner := if h.ck.service then o else none, lastOwner := h.nextCtx, nextOwner := none, wlines := [], wsets := [] }

/-- HALL_OWNER_CHANGE (R346). -/
def execHallOwnerChange (hall : Nat) (s : State) : Out State := runDevice (fun d => ownerChange d hall) s

/-! ## Parked and halted waves resumed (R210, R402) -/

/-- A wave that is no longer halted: its watchdog counts from 0 (R394), a parked one replays its word (R402), and no failed walk
answers it any more (R399). -/
def unhalt (w : Wave) : Wave :=
  { w with halted := false, parked := none, walkFaults := [], cnt := { w.cnt with wd := 0 } }

/-- The queues of slots of a core without an entry whose gather met a fault: it is made again (R399, R402). -/
def regather (slots : List Nat) (k : Core) : Core :=
  { k with queues := tblMap (fun _ q => match q.slot with
      | some s => if slots.contains s then dropBad q else q
      | none => q) k.queues }

/-- Whether something is parked on a page. -/
def onPage (p : Option VA) (page : Nat) : Bool := match p with | some a => decide (a.toNat / 65536 = page) | none => false

/-- The waves of a context that are parked on a page go on, each replaying its word (R402, R441). -/
def replayPage (ctx page : Nat) (d : Device) : Device :=
  let parked (w : Wave) : Bool := decide (w.ctx = ctx) && onPage w.parked page
  let freed (k : Core) : List Nat := (k.waves.filter fun e => parked e.2).map (·.1)
  mapWaves { d with cores := tblMap (fun _ k => regather (freed k) k) d.cores } fun w => if parked w then unhalt w else w

/-- A write to FRESUME (R402): every wave and engine operation of the context parked on the page goes on. -/
def fresume (d : Device) (ctx : Nat) (va : VA) : Device :=
  let page := va.toNat / 65536
  let wave (w : Wave) : Wave :=
    if w.ctx = ctx then
      { w with gfx := { w.gfx with rays := tblMap (fun _ r => if onPage r.parked page then { r with parked := none } else r) w.gfx.rays } }
    else w
  let hall (h : Hall) : Hall :=
    { h with
      mat := h.mat.map fun e => if e.ctx = ctx ∧ onPage e.parked page then { e with parked := none } else e
      cq := h.cq.map fun q => (q.1, q.2.map fun o => if o.ctx = ctx ∧ onPage o.parked page then { o with parked := none, moved := d.fcycle } else o) }
  let d1 := mapWaves (replayPage ctx page d) wave
  { d1 with
    halls := tblMap (fun _ => hall) d1.halls
    alcoves := tblMap (fun _ a => if a.owner.toNat = ctx ∧ onPage a.parked page then { a with parked := none } else a) d1.alcoves
    parking := d1.parking.filter fun e => !(decide (e.1 = ctx) && decide (e.2 = page)) }

/-- FRESUME (R402). -/
def execFresume (ctx : Nat) (va : VA) (s : State) : Out State := runDevice (fun d => fresume d ctx va) s

/-- HALTED cleared in a wave-slot entry (R210, R402): the wave goes on, a parked one replays its word. -/
def waveResume (d : Device) (core slot : Nat) : Device :=
  match waveOf d core slot with
  | some w => if w.halted then modCore (modWave d core slot unhalt) core (regather [slot]) else d
  | none => d

/-- WAVE_RESUME (R210, R211). -/
def execWaveResume (core slot : Nat) (s : State) : Out State := runDevice (fun d => waveResume d core slot) s

/-! ## CTXSAVE and CTXREST (R213, R392) -/

/-- The word's fields (R208); a refusal comes before its token (R395). -/
def ctxJob (opc : BitVec 8) (w : WordE) (early : View → Mask → Option Trap) (act : View → Mask → Eff) : Job :=
  { eJob opc w [w.x, w.y] (fun v => [c16 (!v.priv), sregCheck w.x 47, sregCheck w.y 39, unusedField w.z 31,
    unusedField w.w 23, eSco w, eMod w, c14 (!w.te) 11, c14 (decide (w.sub ≠ 0)) 10]) act with early := early }

/-- A refusal of R392. -/
def ctxRefuse (v : View) (ex : Mask) (info : Nat) : Option Trap := some (wordTrap v 0x1A ex info)

/-- The block whose first wave stands in a slot. -/
def firstBlock (d : Device) (core slot : Nat) : Option (Nat × Block) :=
  match waveOf d core slot with
  | some w =>
    match tblFind d.blocks w.block with
    | some b => if b.slot0 = slot ∧ !b.ended then some (w.block, b) else none
    | none => none
  | none => none

/-- Whether every wave of a block is halted, or has ended. -/
def blockHalted (d : Device) (bid : Nat) (b : Block) : Bool :=
  (blockWaves d bid b).all fun e => e.2.halted || decide (e.2.pos.paths = [])

/-- The record of a block written at a virtual address (R213). -/
def saveRecord (d : Device) (ctx va bid : Nat) (b : Block) : Except MFault Device :=
  match tblFind d.grids b.grid with
  | none => .ok d
  | some g =>
    engineWrite d ctx ctx true .plain va (blockRecord d (fun x => decide (x = bid)) bid b g)
      (copyAgent (hallOfCore b.core) true)

/-- The refusal of a CTXSAVE (R392): INFO 1, or 4 for an access to the record that faults. -/
def saveRefusal (w : WordE) (v : View) (ex : Mask) : Option Trap :=
  let y := src64 v w.y
  match firstBlock v.d (field y 0 9) (field y 16 6) with
  | none => ctxRefuse v ex 1
  | some (bid, b) =>
    if !blockHalted v.d bid b then ctxRefuse v ex 1
    else
      match saveRecord v.d v.w.ctx (vaNat (src64 v w.x).toNat) bid b with
      | .error f => ctxRefuse v ex (4 + 256 * f.cause.toNat)
      | .ok _ => none

/-- CTXSAVE (R213, R392): refused at issue, or begun. -/
def jobCtxsave (w : WordE) : Job :=
  ctxJob 0x13 w (saveRefusal w) fun v _ =>
    let y := src64 v w.y
    match firstBlock v.d (field y 0 9) (field y 16 6) with
    | none => .hold v.d
    | some (bid, _) =>
      .done (v.put v.d fun x => eStart w
        (pushOp .ctxSave none [] (some w.tok.toNat) 0 [src64 v w.x, BitVec.ofNat 64 bid] x)) .onward
/-- CTXSAVE (R213): its step. -/
def execCtxsave (w : WordE) (s : State) : Out State := runJob (jobCtxsave w) s

/-- The block of a CTXREST restored with its waves halted. -/
def haltRestored (d : Device) (core bid : Nat) : Device :=
  modCore d core fun k => { k with waves := tblMap (fun _ w =>
    if w.block = bid ∧ w.pos.paths ≠ [] then { w with halted := true } else w) k.waves }

/-- The record that a CTXREST names, read. -/
def restRecord (w : WordE) (v : View) : Except MFault (Option SavedBlock × Device) :=
  fetchRecord v.d v.w.ctx (field (src64 v w.y) 0 9 / 4) (vaNat (src64 v w.x).toNat)

/-- The refusal of a CTXREST (R392): INFO 4, 3 or 2. -/
def restRefusal (w : WordE) (v : View) (ex : Mask) : Option Trap :=
  let y := src64 v w.y
  match restRecord w v with
  | .error f => ctxRefuse v ex (4 + 256 * f.cause.toNat)
  | .ok (none, _) => ctxRefuse v ex 3
  | .ok (some r, d0) =>
    if !recordSound d0 r ∨ r.block.core ≠ field y 0 9 ∨ r.block.slot0 ≠ field y 16 6 then ctxRefuse v ex 3
    else if !recordFree d0 r then ctxRefuse v ex 2
    else none

/-- CTXREST (R213, R392). -/
def jobCtxrest (w : WordE) : Job :=
  ctxJob 0x14 w (restRefusal w) fun v _ =>
    match restRecord w v with
    | .ok (some r, d0) =>
      match restoreBlock d0 r false [] with
      | .wait d => .hold d
      | .done d bid =>
        .done (v.put (haltRestored d r.block.core bid) fun x => eStart w
          (pushOp .ctxRest none [] (some w.tok.toNat) 0 [] x)) .onward
    | _ => .hold v.d
/-- CTXREST (R213): its step. -/
def execCtxrest (w : WordE) (s : State) : Out State := runJob (jobCtxrest w) s

/-- The end of a CTXSAVE (R213): once the block's operations of Table 2.4 are settled, its record is written, and visible to
the issuing wave once the token is idle: its core keeps no older copy (R134). -/
def recordSave (d : Device) (core slot op : Nat) (o : LongOp) : Device :=
  let bid := (o.args.getD 1 0).toNat
  match tblFind d.blocks bid, waveOf d core slot with
  | some b, some w =>
    let mine (x : Nat) : Bool := decide (x = bid)
    if !blockHalted d bid b then d
    else
      let d1 := settleOps d mine
      if saveBusy d1 mine then d1
      else
        let va := vaNat (o.args.headD 0).toNat
        match saveRecord d1 w.ctx va bid b with
        | .error _ => d1
        | .ok d2 =>
          let more := blockMore d1 mine va bid b
          let d3 := modCtx (withdraw d2 mine) w.ctx fun k =>
            { k with more := more :: k.more.filter fun m => decide (m.addr ≠ va) }
          completeKind (l1Acquire d3 core) core slot .ctxSave op
  | _, _ => completeKind d core slot .ctxSave op

/-- The end of a CTXSAVE or a CTXREST. -/
def recordDone (d : Device) (core slot op : Nat) : Device :=
  match waveOf d core slot with
  | none => d
  | some w =>
    match findOp w .ctxSave op with
    | some o => recordSave d core slot op o
    | none => completeKind d core slot .ctxRest op

/-- CONTEXT_RECORD_DONE (R213). -/
def execContextRecordDone (core slot op : Nat) (s : State) : Out State := runDevice (onHall (hallOfCore core) fun d => recordDone d core slot op) s

end Sys2Proof.Machine
end

