-- ==== Sys2Proof/Machine/Coolant.lean ====
section
/-! DEFINITION. Coolant zones (R342, R437 to R439): grants, valves, sensor events, evacuation and the overheat stop. -/

namespace Sys2Proof.Machine

/-- The halls of a compute zone (R19). -/
def zoneHalls (z : Nat) : List Nat := if z < 32 then (List.range 4).map fun i => 4 * z + i else []

/-- The valve steps granted to all zones but one (R342). -/
def otherGrants (pl : Plant) (z : Nat) : Nat :=
  ((List.range 36).map fun y => if y = z then 0 else (zoneOf pl y).grant.toNat).sum

/-- The grant that a write stores (R342): at least MIN, and the largest that keeps the sum within 6,000 gill. -/
def clampGrant (pl : Plant) (z : Nat) (written min' : BitVec 4) : BitVec 4 :=
  BitVec.ofNat 4 (min (max written.toNat min'.toNat) (375 - otherGrants pl z))

/-- A device step for each hall of a zone. -/
def eachHall (z : Nat) (f : Device → Nat → Device) (d : Device) : Device := (zoneHalls z).foldl f d

/-- A hall of a closed zone admissible again (R438). -/
def reopenHall (d : Device) (h : Nat) : Device :=
  retarget (modCk d h fun k => { k with held := false, stopped := false }) (flightNo h)

/-- A write of a zone's MIN, GRANT and TGT (Table 12.3); it reopens a closed zone (R438). -/
def grantWrite (z : Nat) (value : W64) (s : State) : State :=
  let min' : BitVec 4 := value.extractLsb' 60 4
  let shut := (zoneOf s.plant z).closed
  { s with
    plant := modZone s.plant z fun x =>
      { x with min := min', grant := clampGrant s.plant z (value.extractLsb' 56 4) min', tgt := value.extractLsb' 32 16
               closed := false }
    dev := if shut then eachHall z reopenHall s.dev else s.dev }

/-- COOLANT_GRANT_WRITE (R342). -/
def execCoolantGrantWrite (zone : Nat) (value : W64) (s : State) : Out State :=
  .next (if zone < 36 then grantWrite zone value s else s)

/-- A zone with what its sensors read: a reading that fails its check leaves the old values and takes the budget away
until a valid one (R437). -/
def readZone (r : ZoneReading) (x : Zone) : Zone :=
  if r.valid then { x with temp := r.temp, flow := r.flow, press := r.press, dry := r.dry, failed := false }
  else { x with failed := true, tbud := 0 }

/-- The valve one step nearer the grant (R342); an evacuation or a closed zone holds it (R438). -/
def stepValve (x : Zone) : Zone :=
  if x.evacuating || x.closed then x
  else if x.valve.toNat < x.grant.toNat then { x with valve := x.valve + 1 }
  else if x.grant.toNat < x.valve.toNat then { x with valve := x.valve - 1 }
  else x

/-- A coolant event's telemetry entry (R437); the spec states no DATA (log 16). -/
def coolantEntry (z code : Nat) (d : Device) : Device := telemetryPut d (.sensor z) 3 code z (openTel 3 code)

/-- The events of a reading (Table 20.3), by their codes in ascending order. -/
def readingCodes (r : ZoneReading) (x : Zone) : List Nat :=
  if !r.valid then [4]
  else
    (if x.tgt.toNat + 160 < r.temp.toNat then [1] else []) ++
    (if r.flow.toNat < 12 * x.valve.toNat ∧ 1000 ≤ r.lowUs then [2] else []) ++
    (if r.press.toNat < 50 ∨ 400 < r.press.toNat then [3] else [])

/-- What a zone's sensors read, with the events that it raises (R437). -/
def senseZone (zone : Nat) (r : ZoneReading) (s : State) : State :=
  { s with
    plant := modZone s.plant zone (readZone r)
    dev := (readingCodes r (zoneOf s.plant zone)).foldl (fun d c => coolantEntry zone c d) s.dev }

/-- COOLANT_EVENT (R437). -/
def execCoolantEvent (zone : Nat) (r : ZoneReading) (s : State) : Out State :=
  .next (if zone < 36 then senseZone zone r s else s)

/-- VALVE_STEP (R342). -/
def execValveStep (zone : Nat) (r : ZoneReading) (s : State) : Out State :=
  let s1 := senseZone zone r s
  .next (if zone < 36 then { s1 with plant := modZone s1.plant zone stepValve } else s)

/-- The contexts with a resident block in a zone. -/
def zoneCtxs (d : Device) (z : Nat) : List Nat :=
  listNub (fun a b => decide (a = b)) ((zoneHalls z).flatMap fun h => (hallBlocks d h).map fun e => e.2.ctx)

/-- A hall of an evacuated zone: no energy, its target the floor (R438, step 1). -/
def evacuateHall (d : Device) (h : Nat) : Device :=
  retarget (modPw (modCk d h fun k => { k with held := true }) h fun p => { p with erem := 0 }) (flightNo h)

/-- A context pre-empted for an evacuation (R438, step 2). -/
def evacuateCtx (z : Nat) (d : Device) (c : Nat) : Device :=
  modCtx (requestPreempt d c) c fun k => { k with evac := k.evac ++ [z] }

/-- The ports while zone 34 is dry, or once it no longer is (R438). -/
def slowPorts (slow : Bool) (pl : Plant) : Plant :=
  { pl with ports := (List.range 16).map fun p => (p, { tblGet blankPort pl.ports p with slow := slow }) }

/-- DRY in a zone (R438): a compute zone is evacuated; in zone 34 the ports go to one lane. What zones 32, 33 and 35 slow
is timing (NOTES, Scope). The pre-emptions give back the grains of blocks that they withdraw, and the zone's halls keep none. -/
def evacuate (z : Nat) (s : State) : State :=
  let d1 := coolantEntry z 5 s.dev
  let cs := zoneCtxs s.dev z
  let pl := modZone s.plant z fun x =>
    { x with evacuating := true, tbud := 0, valve := if z < 32 then 15 else x.valve }
  { s with
    dev := eachHall z evacuateHall (cs.foldl (evacuateCtx z) d1)
    plant := if z = 34 then slowPorts true pl else pl }

/-- COOLANT_EVACUATION (R438). -/
def execCoolantEvacuation (zone : Nat) (s : State) : Out State :=
  let x := zoneOf s.plant zone
  .next (if zone < 36 ∧ x.dry ∧ !x.evacuating ∧ !x.closed then evacuate zone s else s)

/-- A hall whose zone is restored. -/
def releaseHall (d : Device) (h : Nat) : Device := retarget (modCk d h fun k => { k with held := false }) (flightNo h)

/-- A hall whose zone is closed: its clock stops. -/
def stopHall (d : Device) (h : Nat) : Device := modCk d h fun k => { k with stopped := true }

/-- The end of an evacuation (R438, step 4), at a reading of the zone's sensors. -/
def endEvacuation (z : Nat) (r : ZoneReading) (s0 : State) : State :=
  let s := senseZone z r s0
  let pl := s.plant
  let x := zoneOf pl z
  let well := !x.dry && decide (x.temp.toNat ≤ x.tgt.toNat)
  if 32 ≤ z then
    let pl1 := modZone pl z fun y => { y with evacuating := false }
    { s with plant := if x.dry then pl else if z = 34 then slowPorts false pl1 else pl1 }
  else if well then
    { s with plant := modZone pl z fun y => { y with evacuating := false }
             dev := coolantEntry z 7 (eachHall z releaseHall s.dev) }
  else
    { s with plant := modZone pl z fun y => { y with evacuating := false, closed := true, valve := 0 }
             dev := coolantEntry z 8 (eachHall z stopHall s.dev) }

/-- EVACUATION_END (R438). -/
def execEvacuationEnd (zone : Nat) (r : ZoneReading) (s : State) : Out State :=
  .next (if zone < 36 ∧ (zoneOf s.plant zone).evacuating then endEvacuation zone r s else s)

/-- A hall stopped for heat (R439). -/
def overheatHall (z : Nat) (d : Device) (h : Nat) : Device :=
  clearHall (modCk d h fun k => { k with stopped := true }) h (.sensor z) 0x55 (BitVec.ofNat 64 z)

/-- An overheat stop (R439): it overrides an evacuation. A periphery zone has no halls to stop. -/
def overheat (z : Nat) (s : State) : State :=
  { s with
    plant := if z < 32 then modZone s.plant z fun x => { x with evacuating := false, closed := true } else s.plant
    dev := coolantEntry z 6 (eachHall z (overheatHall z) s.dev) }

/-- OVERHEAT_STOP (R439). -/
def execOverheatStop (zone : Nat) (s : State) : Out State :=
  let x := zoneOf s.plant zone
  .next (if zone < 36 ∧ 1760 ≤ x.temp.toNat then overheat zone s else s)

end Sys2Proof.Machine
end

