-- ==== Sys2Proof/Machine/Apc.lean ====
section
/-! DEFINITION. The privileged control registers (R6, R81, R211, R337, R342, R346, R347, R352, R401, R413, R417) and the
accesses of the application processor complex to the on-chip windows (R77, R345). -/

namespace Sys2Proof.Machine

/-- A 64-bit register of the privileged control window: its part, unit, and word within the unit's registers. -/
inductive Reg where
  | queue (q w : Nat)
  | ctx (c w : Nat)
  | owner (h : Nat)
  | route (m : Nat)
  | errCount
  | errLog (n w : Nat)
  | telCount
  | tel (n w : Nat)
  | coolant (z w : Nat)
  | margin (h : Nat)
  | alcove (i w : Nat)
  | power (h w : Nat)
  | module (w : Nat)
  | slot (core s w : Nat)
  deriving DecidableEq, Repr

/-- The first address of the privileged control window (Table 1.4). -/
def ctrlBase : Nat := 0x200020000000

/-- The register at an offset in the window, a multiple of 8. -/
def regAt (o : Nat) : Option Reg :=
  if o % 8 ≠ 0 then none
  else
    let w (base size : Nat) : Nat × Nat := ((o - base) / size, (o - base) % size / 8)
    if o < 0x4000 then (if (w 0 64).2 < 5 then some (.queue (w 0 64).1 (w 0 64).2) else none)
    else if 0x10000 ≤ o ∧ o < 0x11000 then some (.ctx (w 0x10000 64).1 (w 0x10000 64).2)
    else if 0x20000 ≤ o ∧ o < 0x20400 then some (.owner (w 0x20000 8).1)
    else if 0x30000 ≤ o ∧ o < 0x30200 then some (.route (w 0x30000 8).1)
    else if o = 0x4FFF8 then some .errCount
    else if 0x50000 ≤ o ∧ o < 0x51000 then some (.errLog (w 0x50000 16).1 (w 0x50000 16).2)
    else if o = 0x6FFF8 then some .telCount
    else if 0x70000 ≤ o ∧ o < 0x74000 then some (.tel (w 0x70000 16).1 (w 0x70000 16).2)
    else if 0x80000 ≤ o ∧ o < 0x80480 then some (.coolant (w 0x80000 32).1 (w 0x80000 32).2)
    else if 0x90000 ≤ o ∧ o < 0x90400 then some (.margin (w 0x90000 8).1)
    else if 0x100000 ≤ o ∧ o < 0x120000 then some (.alcove (w 0x100000 32).1 (w 0x100000 32).2)
    else if 0x200000 ≤ o ∧ o < 0x201000 then some (.power (w 0x200000 32).1 (w 0x200000 32).2)
    else if 0x210000 ≤ o ∧ o < 0x210010 then some (.module (w 0x210000 16).2)
    else if 0x400000 ≤ o ∧ o < 0x480000 then
      some (.slot ((w 0x400000 16).1 / 64) ((w 0x400000 16).1 % 64) (w 0x400000 16).2)
    else none

/-! ## Reads -/

/-- A launch queue's registers (Table 13.2). -/
def readQueueReg (k : LaunchQueue) (w : Nat) : W64 :=
  match w with
  | 0 => BitVec.ofNat 64 (nat1 k.en * 2 ^ 63 + k.prio.toNat * 2 ^ 48 + k.rbase.toNat)
  | 1 => BitVec.ofNat 64 (k.entries.length * 65536 + 2 * nat1 k.err + nat1 k.ovf)
  | 3 => k.seq
  | 4 => k.ctx.setWidth 64
  | _ => 0

/-- A context's registers (Tables 13.1, 18.1, 19.2). -/
def readCtxReg (d : Device) (c w : Nat) : W64 :=
  let k := ctxOf d c
  match w with
  | 0 => k.l0base
  | 1 => k.scbase.setWidth 64
  | 2 => k.csa.setWidth 64
  | 3 => BitVec.ofNat 64 (nat1 k.req * 2 ^ 63 + nat1 k.resume * 2 ^ 62 + nat1 k.saved * 2 ^ 61 + k.evq.toNat)
  | 4 => k.frbase ||| BitVec.ofNat 64 (nat1 k.sysctx * 2 ^ 63)
  | 5 => k.frhead.setWidth 64
  | 6 => BitVec.ofNat 64 (nat1 k.park * 2 ^ 63 + (d.parking.filter fun e => decide (e.1 = c)).length)
  | _ => 0

/-- A coolant zone's words (Table 12.3). -/
def readZoneReg (z : Zone) (w : Nat) : W64 :=
  match w with
  | 0 => z.owners
  | 1 => BitVec.ofNat 64 (z.min.toNat * 2 ^ 60 + z.grant.toNat * 2 ^ 56 + z.valve.toNat * 2 ^ 52 + z.tgt.toNat * 2 ^ 32 +
      z.temp.toNat * 65536 + z.flow.toNat)
  | 2 => BitVec.ofNat 64 (z.press.toNat * 2 ^ 48 + nat1 z.dry * 2 ^ 47 + z.tbud.toNat)
  | _ => 0

/-- An Alcove Table entry's words (Table 4.4). -/
def readAlcoveReg (a : Alcove) (w : Nat) : W64 :=
  match w with
  | 0 => a.name
  | 1 => BitVec.ofNat 64 (a.owner.toNat * 2 ^ 58 + a.hall.toNat * 2 ^ 51 + a.core.toNat * 2 ^ 49 + a.offset.toNat * 2 ^ 43 +
      a.size.toNat * 2 ^ 38 + a.state.toNat * 2 ^ 36 + a.life.toNat * 2 ^ 34 + nat1 a.sealed * 2 ^ 33 + nat1 a.busy * 2 ^ 32 +
      a.gen.toNat * 65536 + a.lease.toNat)
  | 2 => BitVec.ofNat 64 (a.attach.toNat * 2 ^ 48 + a.backing.toNat)
  | _ => BitVec.ofNat 64 (a.remain.toNat * 2 ^ 48 + a.queue.toNat * 2 ^ 40)

/-- A hall's power registers (Table 12.2). -/
def readPowerReg (p : HallPower) (w : Nat) : W64 :=
  match w with
  | 0 => p.ibud ++ p.ebud
  | 1 => p.erem ++ p.irem
  | 2 => BitVec.ofNat 64 (p.stallm.toNat * 2 ^ 48 + p.busy.toNat * 2 ^ 32 + nat1 p.drop * 2 ^ 11 + p.cls.toNat * 256 +
      nat1 p.gov * 128 + p.gcap.toNat * 16)
  | _ => p.overspend ++ p.emeas

/-- A wave-slot entry's words (Table 8.5). -/
def readSlotReg (d : Device) (core s w : Nat) : W64 :=
  if w = 0 then
    match waveOf d core s with
    | none => 0
    | some x => BitVec.ofNat 64 (2 ^ 63 + nat1 x.halted * 2 ^ 62 + x.ctx * 2 ^ 56 +
        (if x.width = 16 then 0 else if x.width = 32 then 1 else 2) * 2 ^ 54 + x.rfbase)
  else BitVec.ofNat 64 (2 * nat1 ((coreOf d core).dbg.getLsbD s))

/-- A word of a ring entry. -/
def readLog (e : Option Log16) (w : Nat) : W64 :=
  match e with | none => 0 | some x => if w = 0 then x.w0 else x.w1

/-- A register read (R6). -/
def readReg (s : State) (r : Reg) : W64 :=
  let d := s.dev
  match r with
  | .queue q w => readQueueReg (queueOf d q) w
  | .ctx c w => readCtxReg d c w
  | .owner h => ownerWord (hallOf d h)
  | .route m => (tblGet 0#16 d.routes m).setWidth 64
  | .errCount => d.errCount.setWidth 64
  | .errLog n w => readLog (tblFind d.errlog n) w
  | .telCount => d.telCount.setWidth 64
  | .tel n w => readLog (tblFind d.telemetry n) w
  | .coolant z w => readZoneReg (zoneOf s.plant z) w
  | .margin h =>
    BitVec.ofNat 64 ((flightAt d h).floor.toNat * 2 ^ 35 + (hallOf d h).ck.cap.toNat * 2 ^ 32 + (hallOf d h).ck.margin.toNat)
  | .alcove i w => readAlcoveReg (alcOf d i) w
  | .power h w => readPowerReg (hallOf d h).pw w
  | .module w => if w = 0 then d.nhmax ++ d.nhmeas else 0
  | .slot core s w => readSlotReg d core s w

/-! ## Writes -/

/-- A write of a launch queue's register (Table 13.2) by an application core. -/
def writeQueueReg (apc : Nat) (d : Device) (q w : Nat) (x : W64) : Device :=
  match w with
  | 0 => modQueue d q fun k => { k with en := x.getLsbD 63, prio := x.extractLsb' 48 2, rbase := x.setWidth 48 }
  | 1 =>
    let d1 := modQueue d q fun k => { k with err := k.err && !x.getLsbD 1, ovf := k.ovf && !x.getLsbD 0 }
    if x.getLsbD 2 then queueReset d1 q else d1
  | 2 => enqueue d apc q x
  | 4 => modQueue d q fun k => { k with ctx := x.setWidth 6 }
  | _ => d

/-- The bits [51:12] of a word, where a page-aligned base stands. -/
def baseField (x : W64) : W64 := x &&& 0x000FFFFFFFFFF000

/-- A write of a context's register. -/
def writeCtxReg (d : Device) (c w : Nat) (x : W64) : Device :=
  match w with
  | 0 => modCtx d c fun k => { k with l0base := baseField x }
  | 1 => modCtx d c fun k => { k with scbase := x.setWidth 48 }
  | 2 => modCtx d c fun k => { k with csa := x.setWidth 48 }
  | 3 => preemptWrite d c x
  | 4 => modCtx d c fun k => { k with sysctx := x.getLsbD 63, frbase := baseField x }
  | 6 => modCtx d c fun k => { k with park := x.getLsbD 63 }
  | 7 => fresume d c (x.setWidth 48)
  | _ => d

/-- A write of an Alcove Table entry's RW fields: ignored where the entry is free (R81). A LEASE alcove whose REMAIN is
written 0 ends at the next boundary at which it is unattached, not at the write (DESIGN CHOICE, log 120). -/
def writeAlcoveReg (d : Device) (i w : Nat) (x : W64) : Device :=
  if (alcOf d i).state = 0 then d
  else
    match w with
    | 1 => modAlc d i fun a => { a with life := x.extractLsb' 34 2, lease := x.extractLsb' 0 16 }
    | 3 => modAlc d i fun a => { a with remain := x.extractLsb' 48 16 }
    | _ => d

/-- A write of a hall's power register: IREM follows IBUD at once (R338). -/
def writePowerReg (d : Device) (h w : Nat) (x : W64) : Device :=
  match w with
  | 0 => refreshIrem (modPw d h fun p => { p with ibud := x.extractLsb' 32 32, ebud := x.extractLsb' 0 32 }) h
  | 2 => modPw d h fun p => { p with gov := x.getLsbD 7, gcap := x.extractLsb' 4 3 }
  | _ => d

/-- A write of a wave-slot entry (Table 8.5). -/
def writeSlotReg (d : Device) (core s w : Nat) (x : W64) : Device :=
  if w = 0 then (if x.getLsbD 62 then waveResume d core s else d)
  else modCore d core fun k => { k with dbg := maskSet k.dbg s (x.getLsbD 1) }

/-- A register written by an application core: RO fields keep their value, RW fields take theirs, W1C bits clear (R6), and
what the register's own rule says happens. -/
def writeReg (apc : Nat) (s : State) (r : Reg) (x : W64) : State :=
  let dev (d : Device) : State := { s with dev := d }
  match r with
  | .queue q w => dev (writeQueueReg apc s.dev q w x)
  | .ctx c w => dev (writeCtxReg s.dev c w x)
  | .owner h => dev (ownerWrite s.dev h x)
  | .route m => dev { s.dev with routes := tblSet s.dev.routes m (x.setWidth 16) }
  | .coolant z w =>
    if w = 0 then { s with plant := modZone s.plant z fun k => { k with owners := x } }
    else if w = 1 then grantWrite z x s else s
  | .alcove i w => dev (writeAlcoveReg s.dev i w x)
  | .power h w => dev (writePowerReg s.dev h w x)
  | .slot core k w => dev (writeSlotReg s.dev core k w x)
  | .errCount => s
  | .errLog _ _ => s
  | .telCount => s
  | .tel _ _ => s
  | .margin _ => s
  | .module _ => s

/-- REGISTER_WRITE (R6): a write at a module-local address of the control window, by application core 0 or by Fustias
(Table 1.4; log 121). -/
def execRegisterWrite (addr : Nat) (value : W64) (s : State) : Out State :=
  .next (if addr < ctrlBase then s else match regAt (addr - ctrlBase) with | some r => writeReg 0 s r value | none => s)

/-! ## Window accesses (R77, Table 4.2) -/

/-- Whether an access keeps the granule rules of its window. -/
def windowLegal (a : ApcAccess) : Bool :=
  let size := decide (a.size = 1) || decide (a.size = 2) || decide (a.size = 4) || decide (a.size = 8)
  match regionOf a.addr with
  | .mem => size && decide (regionOf (a.addr + a.size - 1) = .mem)
  | .safe => size && decide (regionOf (a.addr + a.size - 1) = .safe)
  | .rfile => decide (a.size = 4) && decide (a.addr % 4 = 0)
  | .spad => decide (1 ≤ a.size) && decide (a.size ≤ 8) && decide (regionOf (a.addr + a.size - 1) = .spad)
  | .accmd =>
    let o := (accOffset a.addr).2
    size && (if o < 0xF0000 then decide ((o % 0x14000) % 10 + a.size ≤ 10) else decide (o % 4 + a.size ≤ 4))
  | .weights => size && decide (a.addr % 128 + a.size ≤ 128)
  | .ctrl => decide (a.size = 8) && (regAt (a.addr - ctrlBase)).isSome
  | .reserved => false

/-- What an access returns to its core: a value, or an access fault. -/
def apcAnswer (apc : Nat) (x : Option W64) (s : State) : State :=
  { s with plant := { s.plant with apcOut := s.plant.apcOut ++ [(apc, x)] } }

/-- The number that stands for the APC as the last writer of a line. -/
def apcOwner : Nat := 65

/-- What a read that its window admits finds: a register of the control window, or bytes. -/
def windowRead (a : ApcAccess) (s : State) : W64 :=
  match if regionOf a.addr = .ctrl then regAt (a.addr - ctrlBase) else none with
  | some r => readReg s r
  | none => leW64 ((List.range a.size).map fun i => physByte s.dev (domainAddr s.dev a.addr + i))

/-- What a write that its window admits does. -/
def windowStore (a : ApcAccess) (x : W64) (s : State) : State :=
  match if regionOf a.addr = .ctrl then regAt (a.addr - ctrlBase) else none with
  | some r => writeReg a.apc s r x
  | none => { s with dev := physWrite s.dev apcOwner (domainAddr s.dev a.addr) (leBytes a.size x.toNat) }

/-- An access of an application core at a module-local address: performed, or refused with an access fault. -/
def windowAccess (a : ApcAccess) (s : State) : State :=
  if !windowLegal a then apcAnswer a.apc none s
  else
    match a.wdata with
    | some x => windowStore a x s
    | none => apcAnswer a.apc (some (windowRead a s)) s

/-- WINDOW_ACCESS (R77): by a core of the APC, once boot has released the APC (R355). -/
def execWindowAccess (a : ApcAccess) (s : State) : Out State := .next (if s.plant.apcUp then windowAccess a s else s)

end Sys2Proof.Machine
end

