-- ==== Sys2Proof/Machine/Atomics.lean ====
section
/-! DEFINITION. Atomics, reductions and STCND (R124, R230 to R233). -/

namespace Sys2Proof.Machine

/-- An FP32 result of two values as bits; atomics raise no flag (R230). -/
def fp32Op (f : FVal → FVal → FVal × Flags) (a b : Nat) : Nat :=
  encodeF fp32 (f (decodeF fp32 (a % 2 ^ 32)) (decodeF fp32 (b % 2 ^ 32))).1

/-- The new value of an atomic on `w`-bit values (Table 9.2). -/
def atomicOp (aop w : Nat) (sg : Bool) (old d swap : Nat) : Nat :=
  let ord (x : Nat) : Int := intOf w sg x
  match aop with
  | 0 => (old + d) % 2 ^ w
  | 1 => (old + (2 ^ w - d)) % 2 ^ w
  | 2 => if ord d < ord old then d else old
  | 3 => if ord old < ord d then d else old
  | 4 => old &&& d
  | 5 => old ||| d
  | 6 => old ^^^ d
  | 7 => d
  | 8 => if old = d then swap else old
  | 9 => fp32Op (addF fp32 .rne) old d
  | 10 => fp32Op minF old d
  | 11 => fp32Op maxF old d
  | 12 => if d ≤ old then 0 else old + 1
  | _ => if old = 0 ∨ d < old then d else old - 1

/-- The checks that MA-format words share (R230). -/
def atomicChecks (w : WordMA) : List Check :=
  let n := dataRegs (szBytes w.sz)
  let fp := decide (9 ≤ w.aop.toNat) && decide (w.aop.toNat ≤ 11)
  [baseCheck w.a 39, indexCheck w.b 31, c13 (!isV w.c) 23, c14 (decide (13 < w.aop.toNat)) 15,
   c14 (!([2, 3].contains w.sz.toNat) || (fp && decide (w.sz ≠ 2))) 11,
   c14 (w.sg && !([2, 3].contains w.aop.toNat)) 8, groupCheck w.c n 23,
   c14 (decide (w.aop = 8) && isV w.c && !vGroupOk (regNo w.c + n) n) 23]

/-- The data and swap values of a lane (R147, R230). -/
def atomicData (v : View) (w : WordMA) (l : Nat) : Nat × Nat :=
  let n := dataRegs (szBytes w.sz)
  (leNat (groupBytes v l (regNo w.c) n), if w.aop = 8 then leNat (groupBytes v l (regNo w.c + n) n) else 0)

/-- The new value of a lane's atomic. -/
def atomicNew (v : View) (w : WordMA) (l old : Nat) : Nat :=
  let d := atomicData v w l
  atomicOp w.aop.toNat (8 * szBytes w.sz) w.sg old d.1 d.2

/-- Atomics of lanes on global memory, one after another (R124, R230): each lane's old bytes. The core's own copy of the
line goes. -/
def atomicLanes (v : View) (w : WordMA) : List (Nat × List Piece) → Device → List (Nat × List Byte) × Device
  | [], d => ([], d)
  | (l, ps) :: t, d =>
    let old := piecesRead d v.w.ctx .plain ps
    let d1 := storePieces v .plain 2 ps (leBytes (szBytes w.sz) (atomicNew v w l (leNat old))) d
    let r := atomicLanes v w t d1
    ((l, old) :: r.1, r.2)

/-- The registers that an MA-format word names. -/
def atomicRefs (w : WordMA) (dst : Nat) : List RegRef :=
  let n := dataRegs (szBytes w.sz)
  refsOf [w.a, w.b] ++ vRefs (regNo w.c) (if w.aop = 8 then 2 * n else n) ++ vRefs (regNo w.d) dst

/-- The address of a lane of an MA-format word (R218). -/
def atomicAddr (v : View) (w : WordMA) (l : Nat) : Nat := addrOf v w.a w.b 0 l

/-- An atomic that returns its old values: outstanding as a load and as a store (R143); a helper lane receives 0
(R220). -/
def atomicDone (v : View) (w : WordMA) (once : Bool) (ex : Mask) (ports : List RemotePart) (olds : List (Nat × List Byte))
    (d : Device) : Eff :=
  let ws := groupWrites v (regNo w.d) (dataRegs (szBytes w.sz)) (targets v once ex) fun l =>
    loadWords false (laneBytes v once olds l)
  .done (v.put d fun wv =>
    pushOpTo ports .store none [] none 0 [] (pushOpTo ports .load (windowOf (some w.hd.md)) ws none 0 v.place wv)) .onward

/-- ATOM or RED (R230). -/
def atomicJob (opc : BitVec 8) (w : WordMA) (red : Bool) (legal : List Check) : Job :=
  let n := szBytes w.sz
  { code := w.toBits opc, g := w.hd.g, lanes := .each, u := w.tl.u, uniOk := true, mem := true
    refs := atomicRefs w (if red then 0 else dataRegs n)
    legal := fun _ => atomicChecks w ++ legal
    act := fun v ex =>
      let once := w.tl.u || v.uni
      if memHeld v w.tl (!red) true then .hold v.d
      else
        match checkLanes v { rd := true, w := true, x := false } .plain (onceMask once ex)
            ((accessLanes v once ex true).map fun l => (l, atomicAddr v w l, n)) with
        | .wait d => .hold d
        | .trap t => .trap t
        | .ok ls =>
          let r := atomicLanes v w ls (acquired v w.tl)
          let ports := lanesPorts v.d ls
          if red then storeDone v ports r.2 else atomicDone v w once ex ports r.1 r.2 }

/-- The checks of D in an atomic that returns its old value. -/
def atomicDst (w : WordMA) : List Check := [c13 (!isV w.d) 47, groupCheck w.d (dataRegs (szBytes w.sz)) 47]

/-- ATOM (R230). -/
def jobAtom (w : WordMA) : Job :=
  atomicJob 0x10 w false (atomicDst w ++ tailChecks w.tl [0, 1, 2, 3] false 2)
/-- ATOM (R230): its step. -/
def execAtom (w : WordMA) (s : State) : Out State := runJob (jobAtom w) s

/-- RED (R230). -/
def jobRed (w : WordMA) : Job :=
  atomicJob 0x12 w true
    (c14 (!isUnused w.d) 47 :: c14 (decide (w.hd.md ≠ 0)) 51 :: tailChecks w.tl [0, 2] false 2)
/-- RED (R230): its step. -/
def execRed (w : WordMA) (s : State) : Out State := runJob (jobRed w) s

/-- Atomics of lanes on scratchpad, one after another (R230). -/
def spadAtomics (v : View) (w : WordMA) : List (Nat × Nat × Nat × Nat) → Device → List (Nat × List Byte) × Device
  | [], d => ([], d)
  | (l, c, off, n) :: t, d =>
    let old := spadRead d c off n
    let r := spadAtomics v w t (spadWrite d c off (leBytes n (atomicNew v w l (leNat old))))
    ((l, old) :: r.1, r.2)

/-- ATOMS (R230, R231). -/
def jobAtoms (w : WordMA) : Job :=
  let n := szBytes w.sz
  { code := w.toBits 0x11, g := w.hd.g, lanes := .each, u := w.tl.u, uniOk := true, mem := true
    refs := atomicRefs w (dataRegs n)
    legal := fun _ => atomicChecks w ++ atomicDst w ++ tailChecks w.tl [0, 1, 2, 3] false 1
    act := fun v ex =>
      let once := w.tl.u || v.uni
      let as := (accessLanes v once ex true).map fun l =>
        let p := spadPlace v (isRc w.tl) (atomicAddr v w l)
        (l, p.1, p.2, n)
      spadAccess v once ex w.tl n true true false as fun d =>
        let r := spadAtomics v w as d
        atomicDone v w once ex [] r.1 r.2 }
/-- ATOMS (R230): its step. -/
def execAtoms (w : WordMA) (s : State) : Out State := runJob (jobAtoms w) s

/-- Whether a lane's STCND succeeds (R233): its reservation is held, and the access is aligned and lies within it. -/
def stcndHolds (d : Device) (v : View) (n l : Nat) (ps : List Piece) : Bool :=
  match waveOf d v.core v.slot, ps with
  | some w, [p] =>
    match tblFind w.resv l with
    | some a => decide (p.pa % n = 0) && decide (a ≤ p.pa) && decide (p.pa + n ≤ a + 8)
    | none => false
  | _, _ => false

/-- STCND of lanes, one after another: the lanes that fail (R233). -/
def stcndLanes (v : View) (w : WordMA) : List (Nat × List Piece) → Device → List Nat × Device
  | [], d => ([], d)
  | (l, ps) :: t, d =>
    let n := szBytes w.sz
    let ok := stcndHolds d v n l ps
    let d1 := if ok then storePieces v .plain 2 ps (storeData v w.c n l) d else d
    let r := stcndLanes v w t (v.put d1 fun wv => { wv with resv := tblErase wv.resv l })
    (if ok then r.1 else l :: r.1, r.2)

/-- STCND (R233). -/
def jobStcnd (w : WordMA) : Job :=
  let n := szBytes w.sz
  { code := w.toBits 0x14, g := w.hd.g, lanes := .each, u := w.tl.u, uniOk := true, mem := true, refs := atomicRefs w 1
    legal := fun _ => atomicChecks w ++ [c13 (!isV w.d) 47, c14 (decide (w.aop ≠ 0)) 15] ++
      tailChecks w.tl [0, 2] false 0
    act := fun v ex =>
      let once := w.tl.u || v.uni
      if memHeld v w.tl true true then .hold v.d
      else
        match checkLanes v { rd := true, w := true, x := false } .plain (onceMask once ex)
            ((accessLanes v once ex true).map fun l => (l, atomicAddr v w l, n)) with
        | .wait d => .hold d
        | .trap t => .trap t
        | .ok ls =>
          let r := stcndLanes v w ls v.d
          let ws := vWrites v (regNo w.d) (targets v once ex) fun l =>
            if r.1.contains (if once then v.lane0 else l) then 1 else 0
          let ports := lanesPorts v.d ls
          .done (v.put r.2 fun wv =>
            pushOpTo ports .store none [] none 0 [] (pushOpTo ports .load (windowOf (some w.hd.md)) ws none 0 v.place wv)) .onward }
/-- STCND (R233): its step. -/
def execStcnd (w : WordMA) (s : State) : Out State := runJob (jobStcnd w) s

end Sys2Proof.Machine
end

