-- ==== Sys2Proof/Machine/Shake.lean ====
section
/-! DEFINITION. SHAKE256, with which images are measured (R355), as FIPS 202 defines it (log 9). -/

namespace Sys2Proof.Machine

/-- The rotation offsets of Keccak-f[1600], by lane x + 5y. -/
def keccakRot : List Nat :=
  [0, 1, 62, 28, 27, 36, 44, 6, 55, 20, 3, 10, 43, 25, 39, 41, 45, 15, 21, 8, 18, 2, 61, 56, 14]

/-- The round constants of Keccak-f[1600]. -/
def keccakRc : List W64 :=
  [0x0000000000000001, 0x0000000000008082, 0x800000000000808A, 0x8000000080008000, 0x000000000000808B, 0x0000000080000001,
   0x8000000080008081, 0x8000000000008009, 0x000000000000008A, 0x0000000000000088, 0x0000000080008009, 0x000000008000000A] ++
  [0x000000008000808B, 0x800000000000008B, 0x8000000000008089, 0x8000000000008003, 0x8000000000008002, 0x8000000000000080,
   0x000000000000800A, 0x800000008000000A, 0x8000000080008081, 0x8000000000008080, 0x0000000080000001, 0x8000000080008008]

/-- Lane (x, y) of a Keccak state. -/
def lane5 (a : List W64) (x y : Nat) : W64 := a.getD (x % 5 + 5 * (y % 5)) 0

/-- The state whose lane (x, y) a function gives. -/
def lanes5 (f : Nat → Nat → W64) : List W64 := (List.range 25).map fun i => f (i % 5) (i / 5)

/-- One round of Keccak-f[1600]. -/
def keccakRound (a : List W64) (rc : W64) : List W64 :=
  let c := (List.range 5).map fun x => lane5 a x 0 ^^^ lane5 a x 1 ^^^ lane5 a x 2 ^^^ lane5 a x 3 ^^^ lane5 a x 4
  let t := lanes5 fun x y => lane5 a x y ^^^ c.getD ((x + 4) % 5) 0 ^^^ (c.getD ((x + 1) % 5) 0).rotateLeft 1
  let b := lanes5 fun x y =>
    let sx := (x + 3 * y) % 5
    (lane5 t sx x).rotateLeft (keccakRot.getD (sx + 5 * x) 0)
  lanes5 fun x y =>
    let v := lane5 b x y ^^^ (~~~lane5 b (x + 1) y &&& lane5 b (x + 2) y)
    if x + y = 0 then v ^^^ rc else v

/-- Keccak-f[1600]. -/
def keccakF (a : List W64) : List W64 := keccakRc.foldl keccakRound a

/-- A block of 136 bytes absorbed. -/
def absorb (a : List W64) (bs : List Byte) : List W64 :=
  keccakF ((List.range 25).map fun i => a.getD i 0 ^^^ leW64 ((bs.drop (8 * i)).take 8))

/-- The whole message absorbed, with its padding, in at most so many blocks. -/
def absorbAll : Nat → List W64 → List Byte → List W64
  | 0, a, _ => a
  | n + 1, a, bs =>
    if bs.length < 136 then
      let z := bs ++ 0x1F#8 :: List.replicate (135 - bs.length) 0
      absorb a (z.take 135 ++ [z.getD 135 0 ||| 0x80])
    else absorbAll n (absorb a (bs.take 136)) (bs.drop 136)

/-- The first `n` bytes, at most 136, of SHAKE256 of a message. -/
def shake256 (bs : List Byte) (n : Nat) : List Byte :=
  ((absorbAll (bs.length / 136 + 1) (List.replicate 25 0) bs).flatMap fun w => leBytes 8 w.toNat).take n

/-- The measurement register extended by an image (R355). -/
def extendM (m image : List Byte) : List Byte := shake256 (m ++ shake256 image 64) 64

end Sys2Proof.Machine
end

