-- ==== Sys2Proof/Machine/ControlStore.lean ====
section
/-! DEFINITION. CSLOAD and the images of microcoded units (R308 to R310, R428). -/

namespace Sys2Proof.Machine

/-- An image read by CSLOAD: the reason that it is refused for, 0 for none, and its header and microcode. -/
structure ImageRead where
  reason : Nat
  bytes : List Byte

/-- The reason of R428 that an image's header gives, 0 for none. -/
def headReason (hd : List Byte) (kind : Nat) : Nat :=
  let len := nAt hd 8 4
  if nAt hd 0 4 ≠ 0x4A435331 then 1
  else if 4 < nAt hd 4 4 % 8 ∨ 4 < kind then 2
  else if len % 16 ≠ 0 ∨ 16384 < len then 3
  else 0

/-- An image read and checked (R309, R428). A signature longer than an image is no signature. -/
def readImage (d : Device) (ctx va kind : Nat) : Except MFault ImageRead :=
  match engineRead d ctx true .plain va 64 with
  | .error f => .error f
  | .ok (hd, _) =>
    let r := headReason hd kind
    if r ≠ 0 then .ok { reason := r, bytes := [] }
    else
      match engineRead d ctx true .plain va (64 + nAt hd 8 4) with
      | .error f => .error f
      | .ok (bs, _) =>
        if 0x10000 < nAt hd 0x18 8 then .ok { reason := 4, bytes := [] }
        else
          match engineRead d ctx true .plain (vaNat (va + nAt hd 0x10 8)) (nAt hd 0x18 8) with
          | .error f => .error f
          | .ok (sig, _) =>
            if Config.falconOk bs sig then .ok { reason := 0, bytes := bs } else .ok { reason := 4, bytes := [] }

/-- The record of an image refused (R428), on the wave's source in program order (R22). -/
def refuseImage (v : View) (kind reason : Nat) : Device :=
  faultRecord v.d v.src v.w.ctx 0x58 false 0 (BitVec.ofNat 64 (kind + 16 * reason))
    { blockWhere v.blk with hdr := 0, word := 0, slot := 0 }

/-- CSLOAD (R310): the image is read and checked, and refused with a record, or recorded when the word completes. -/
def jobCsload (w : WordE) : Job :=
  ctxJob 0x10 w (fun _ _ => none) fun v _ =>
    let y := src64 v w.y
    match readImage v.d v.w.ctx (vaNat (src64 v w.x).toNat) (field y 0 3) with
    | .error f => memTrap v f
    | .ok r =>
      let d := if r.reason = 0 then v.d else refuseImage v (field y 0 3) r.reason
      .done (v.put d fun x => eStart w (pushOp .csload none [] (some w.tok.toNat) 0
        (y :: BitVec.ofNat 64 r.reason :: r.bytes.map fun b => b.setWidth 64) x)) .onward
/-- CSLOAD (R310): its step. -/
def execCsload (w : WordE) (s : State) : Out State := runJob (jobCsload w) s

/-- An image recorded for a context and a kind (R308). An earlier one is kept while a unit still runs it (R310). -/
def recordImage (d : Device) (ctx kind : Nat) (bs : List Byte) : Device :=
  let old (x : UnitImage) : Bool :=
    decide (x.ctx = ctx) && decide (x.kind = kind) && !d.units.any fun u => decide (u.image = some x.id)
  { d with
    nextId := d.nextId + 1
    images := { id := d.nextId, ctx := ctx, kind := kind, bytes := bs } :: d.images.filter fun x => !old x }

/-- The version that a control-store image's header gives (Table 11.2). -/
def headVersion (bs : List Byte) : W32 := BitVec.ofNat 32 (nAt bs 0x0C 4)

/-- The end of a CSLOAD (R310, R355, R428): recorded, measured and its version noted, unless it was refused. -/
def csloadEnd (core slot op : Nat) (o : LongOp) (s : State) : State :=
  let y := o.args.headD 0
  let bs : List Byte := (o.args.drop 2).map fun w => w.setWidth 8
  if o.args.getD 1 0 = 0 then
    { s with
      dev := completeKind (recordImage s.dev (field y 16 6) (field y 0 3) bs) core slot .csload op
      plant := { s.plant with measure := extendM s.plant.measure bs, versions := s.plant.versions ++ [headVersion bs] } }
  else { s with dev := completeKind s.dev core slot .csload op }

/-- CSLOAD_COMPLETE (R310). -/
def execCsloadComplete (core slot op : Nat) (s : State) : Out State :=
  .next (match (waveOf s.dev core slot).bind fun w => findOp w .csload op with
    | none => s
    | some o => if engineRuns s.dev (hallOfCore core) then csloadEnd core slot op o s else s)

end Sys2Proof.Machine
end

