-- ==== Sys2Proof/Machine/Boot.lean ====
section
/-! DEFINITION. Boot and attestation (R355, R356), the management port (R352, R354), checkpoint and restore (R357, R444,
R445). -/

namespace Sys2Proof.Machine

/-- Bytes sent on the management port. -/
def mgmt (bs : List Byte) (pl : Plant) : Plant := { pl with mgmtOut := pl.mgmtOut ++ [bs] }

/-- Whether an image verifies (R355): Fustias's own by its read-only store, any other by its Falcon-1024 signature. -/
def imageOk (i : SignedImage) : Bool := if i.role = 0 then Config.romOk i.bytes i.sig else Config.falconOk i.bytes i.sig

/-- The version of an image: that of a control-store image stands in its header (R309). -/
def imageVersion (i : SignedImage) : W32 := if 3 ≤ i.role then headVersion i.bytes else i.version

/-- The images of a boot verified, measured and loaded in the order of their roles (R355): one that is missing or does not
verify stops it, and the stage, its number in that order, is reported; after the last the APC is released. -/
def bootImages : List Nat → List SignedImage → Plant → Plant
  | [], _, pl => { pl with bootStage := pl.bootStage + 1, apcUp := true }
  | r :: rs, is, pl =>
    let at' := { pl with bootStage := pl.bootStage + 1 }
    match is with
    | [] => mgmt (leBytes 1 at'.bootStage) at'
    | i :: t =>
      if i.role = r ∧ imageOk i then
        bootImages rs t { at' with measure := extendM pl.measure i.bytes, versions := pl.versions ++ [imageVersion i]
                                   loaded := pl.loaded ++ [i] }
      else mgmt (leBytes 1 at'.bootStage) at'

/-- MODULE_BOOT (R355): once, from reset: Fustias's firmware, the APC's, the DFE's, the five stock images. -/
def execModuleBoot (images : List SignedImage) (s : State) : Out State :=
  .next (if s.plant.bootStage = 0 then { s with plant := bootImages (List.range 8) images s.plant } else s)

/-- An image that arrives on the management port (R354): one that verifies is measured, and from then on stands for its role in
place of the one loaded before, with its version (R355; DEDUCED, log 147). One that does not verify is not loaded. -/
def takeUpdate (s : State) (i : SignedImage) : State :=
  if 8 ≤ i.role || !imageOk i then s
  else
    { s with plant := { s.plant with
        measure := extendM s.plant.measure i.bytes, versions := s.plant.versions ++ [imageVersion i]
        loaded := (s.plant.loaded.filter fun x => decide (x.role ≠ i.role)) ++ [i], updates := s.plant.updates ++ [i] } }

/-- What an attestation answer states (R356): the nonce, M, the module number, the image versions. -/
def attestation (nonce : List Byte) (s : State) : List Byte :=
  nonce ++ s.plant.measure ++ leBytes 1 s.dev.modno.toNat ++ s.plant.versions.flatMap fun v => leBytes 4 v.toNat

/-- ATTESTATION_REQUEST (R356). -/
def execAttestationRequest (nonce : List Byte) (s : State) : Out State :=
  .next (if nonce.length = 32 then
    { s with plant := mgmt (attestation nonce s ++ Config.attestSign (attestation nonce s)) s.plant }
  else s)

/-- An address of module `m` named as module `n`'s, and the other way round. -/
def swapModule (m n a : Nat) : Nat :=
  if moduleOf a = m then n * 2 ^ 46 + localOf a else if moduleOf a = n then m * 2 ^ 46 + localOf a else a

/-- A table keyed by units of `size` bytes of physical memory, keyed by the addresses after a change of numbers. -/
def swapKeys {β : Type} (f : Nat → Nat) (size : Nat) (t : Tbl β) : Tbl β :=
  t.foldl (fun u e => tblSet u (f (size * e.1) / size) e.2) []

/-- The module's number changed (R352): what its memory holds, in L2 and in device memory, is found at the new addresses,
and no core keeps a line of L1 or a reservation. -/
def renumber (number : BitVec 6) (d : Device) : Device :=
  let f := swapModule d.modno.toNat number.toNat
  { d with
    modno := number
    cores := tblMap (fun _ k => { k with l1 := [], waves := tblMap (fun _ w => { w with resv := [] }) k.waves }) d.cores
    apcs := tblMap (fun _ k => { k with resv := none }) d.apcs
    st := { d.st with
      mem := d.st.mem.foldl (fun m e => memSet m (f e.1) e.2) []
      l2 := swapKeys f 128 d.st.l2
      back := swapKeys f 256 d.st.back
      poison := d.st.poison.map fun e => if e.1 = 2 then (2, f (16 * e.2) / 16) else e } }

/-- MODULE_NUMBER_ASSIGN (R352, R354). -/
def execModuleNumberAssign (number : Nat) (s : State) : Out State :=
  .next { s with dev := if BitVec.ofNat 6 number = s.dev.modno then s.dev else renumber (BitVec.ofNat 6 number) s.dev }

/-- CAPTURE_READ (R354): device memory as it stands, under any dirty line. -/
def execCaptureRead (addr len : Nat) (s : State) : Out State :=
  .next (if addr + len ≤ 0x6000000000 then
    { s with plant := mgmt ((List.range len).map fun i => rawByte s.dev (domainAddr s.dev (addr + i))) s.plant }
  else s)

/-! ## Checkpoint (R357, R444, R445) -/

/-- The bytes that each copy engine copies between device memory and the safe tier (R357): 3 GiB for each of 128. -/
def tierPart : Nat := 0xC0000000

/-- The safe tier's first address (Table 1.4). -/
def safeBase (d : Device) : Nat := domainAddr d 0x10000000000

/-- A range of cells made a copy of another. -/
def copyRange (src dst n : Nat) (m : Memory) : Memory :=
  (m.filter fun e => decide (e.1 < dst)) ++
  (m.filterMap fun e => if src ≤ e.1 ∧ e.1 < src + n then some (e.1 - src + dst, e.2) else none) ++
  m.filter fun e => decide (dst + n ≤ e.1)

/-- The poison marks of a range made those of another (R444). -/
def copyPoison (src dst n : Nat) (p : List (Nat × Nat)) : List (Nat × Nat) :=
  (p.filter fun e => !(decide (e.1 = 2) && decide (dst ≤ 16 * e.2) && decide (16 * e.2 < dst + n))) ++
  p.filterMap fun e => if e.1 = 2 ∧ src ≤ 16 * e.2 ∧ 16 * e.2 < src + n then some (2, e.2 - src / 16 + dst / 16) else none

/-- A copy of `n` bytes between device memory and the safe tier through L2: no line of the range written stays dirty. -/
def moveRange (src dst n : Nat) (d : Device) : Device :=
  { d with st := { d.st with
      mem := copyRange src dst n d.st.mem
      poison := copyPoison src dst n d.st.poison
      l2 := d.st.l2.filter fun e => !(decide (dst ≤ 128 * e.1) && decide (128 * e.1 < dst + n)) } }

/-- The copy between device memory and the safe tier (R357): copy engine n's 3 GiB from n × 3 GiB to the same offset. -/
def moveTier (src dst : Nat) (d : Device) : Device :=
  (List.range Config.halls).foldl (fun d n => moveRange (src + n * tierPart) (dst + n * tierPart) tierPart d) d

/-- Whether every range of a checkpoint has a copy engine: its own, or that of the other hall of its flight (R440, R444). -/
def tierServed (d : Device) : Bool :=
  (List.range Config.halls).all fun n => (hallOf d n).ck.service || (hallOf d (n / 2 * 2 + (1 - n % 2))).ck.service

/-- The address of the checkpoint record (R357). -/
def recordBase (d : Device) : Nat := safeBase d + 0x6000000000

/-- The checkpoint record (R357): sequence number, module number, VALID, and M after them (log 20). -/
def checkpointRecord (seq : W64) (valid : Bool) (s : State) : List Byte :=
  leBytes 8 seq.toNat ++ leBytes 8 s.dev.modno.toNat ++ leBytes 8 (nat1 valid) ++ List.replicate 40 0 ++ s.plant.measure

/-- Memory with the checkpoint record. -/
def putRecord (seq : W64) (valid : Bool) (s : State) : State :=
  { s with dev := { s.dev with st := { s.dev.st with
      mem := memPut s.dev.st.mem (recordBase s.dev) (checkpointRecord seq valid s) } } }

/-- A checkpoint entry (R444, R445); the spec states neither its SOURCE nor its DATA (log 16). -/
def checkpointEntry (code : Nat) (d : Device) : Device :=
  telemetryPut d (.monitor (openTel 9 (16 + code))) 9 code (openTel 9 (16 + code)) (openTel 9 code)

/-- Whether a hall is out of service, so that a checkpoint takes longer (R444). -/
def tierSlow (d : Device) : Bool := d.halls.any fun e => !e.2.ck.service

/-- The contexts that a checkpoint pre-empts first (R357): all that are not saved out. -/
def unsavedCtxs (d : Device) : List Nat := (List.range 64).filter fun c => !((ctxOf d c).saved && !(ctxOf d c).resume)

/-- Whether an operation of a copy engine writes the safe tier. -/
def writesTier (d : Device) (o : CopyOp) : Bool :=
  let safe (pa : Nat) : Bool := !isRemote d pa && decide (regionOf (localOf pa) = .safe)
  match opDst o with
  | .virt va => match walkTables d o.ctx (vaNat va) with | .ok te _ _ => safe (te.pa + (vaNat va - te.page)) | _ => false
  | .spad _ _ => false
  | .phys pa => safe pa

/-- The safe tier fails a write after its own remapping (R444): each copy under way that writes it stops, and its fault raise
carries RANGE. -/
def failTier (d : Device) : Device :=
  d.halls.foldl (fun d e => e.2.cq.foldl (fun d q =>
    match q.2 with
    | o :: _ =>
      if o.begun && !o.finished && writesTier d o then
        stopCopy d e.1 q.1 o { rank := 6, cause := 0x32, info := 0, addr := BitVec.ofNat 64 (safeBase d), page := 0 }
      else d
    | [] => d) d) d

/-- CHECKPOINT (R357, R444): the contexts pre-empted, and once all are saved out VALID cleared, device memory copied and the
record written; a failed write, or a range that no engine serves, leaves VALID clear. It takes longer where a hall is out of
service or the tier remaps blocks. -/
def execCheckpoint (seq : W64) (tier : TierWrites) (s : State) : Out State :=
  let s1 := putRecord seq false s
  .next (if unsavedCtxs s.dev ≠ [] then { s with dev := (unsavedCtxs s.dev).foldl requestPreempt s.dev }
    else if tier = .fails ∨ !tierServed s1.dev then
      { s1 with dev := checkpointEntry 1 (if tier = .fails then failTier s1.dev else s1.dev) }
    else
      let s2 := { s1 with dev := moveTier (domainAddr s1.dev 0) (safeBase s1.dev) s1.dev }
      let s3 := if tierSlow s2.dev || tier = .remapped then { s2 with dev := checkpointEntry 2 s2.dev } else s2
      putRecord seq true s3)

/-- Why a restore does not proceed (R445): 1 VALID, 2 the module's number, 3 M. -/
def restoreReason (s : State) : Option Nat :=
  let at' := recordBase s.dev
  if leNat (memBytes s.dev.st.mem (at' + 16) 8) ≠ 1 then some 1
  else if leNat (memBytes s.dev.st.mem (at' + 8) 8) ≠ s.dev.modno.toNat then some 2
  else if memBytes s.dev.st.mem (at' + 64) 64 ≠ s.plant.measure then some 3
  else none

/-- A context told to resume from the save area that a checkpoint has brought back (R52, R357); one that has blocks runs on
(DEDUCED, log 20). -/
def resumeRestored (d : Device) (c : Nat) : Device :=
  if ctxBlocks d c ≠ [] then d
  else modCtx d c fun k => { k with req := false, halting := false, saved := true, resume := true, records := [] }

/-- CHECKPOINT_RESTORE (R357, R445). -/
def execCheckpointRestore (s : State) : Out State :=
  .next (match restoreReason s with
    | some r => { s with plant := mgmt (leBytes 1 r) s.plant, dev := checkpointEntry 3 s.dev }
    | none =>
      { s with dev := (List.range 64).foldl resumeRestored (moveTier (safeBase s.dev) (domainAddr s.dev 0) s.dev) })

end Sys2Proof.Machine
end

