-- ==== Sys2Proof/Machine/Clause.lean ====
section
/-! DEFINITION. Clause headers (R141 to R145), the fetch of code words, and the steps that time and page walks take for
a wave: the fairness timer and its deferral (R45), the progress watchdog (R394) and the end of a page walk (R93). -/

namespace Sys2Proof.Machine

/-- What fetching a code word comes to: its bits, a page walk to wait for, or a fault. -/
inductive Fetched where
  | ok (w : W64)
  | wait (d : Device)
  | bad (f : MFault)

/-- The fault of a fetched piece's content (R398). -/
def fetchFault (v : View) (ps : List Piece) : Option MFault :=
  ps.foldl (fun o p => leastFault o (pieceFault v.d v.w.ctx .plain 16 true p)) none

/-- The bytes of a code piece: what memory held when the grid began where the grid has stored since (R141). -/
def codeBytes (v : View) (p : Piece) : List Byte :=
  ((List.range p.len).zip (pieceRead v.d v.w.ctx .plain p)).map fun e => (tblFind v.grid.shadow (p.pa + e.1)).getD e.2

/-- The 8 bytes of code at an address (R141, R397): leaf entries with X set; no range lock stops a fetch. -/
def fetchCode (v : View) (va : VA) : Fetched :=
  let n : Need := { rd := false, w := false, x := true }
  let t := lanePieces v.d v.core v.w.ctx v.w.walkFaults n v.priv (pageCuts va.toNat 8)
  if t.2.1 ≠ [] then .wait (t.2.1.foldl (fun d a => requestWalk d v.core v.slot v.w.ctx a false true) v.d)
  else
    match t.2.2 with
    | some f => .bad f
    | none =>
      match fetchFault v t.1 with
      | some f => .bad f
      | none => .ok (leW64 (t.1.flatMap (codeBytes v)))

/-- Whether a word carries `.uni`, by the place of U in its format (Tables 7.3, 7.7, 7.9 and 7.11). -/
def uniBit (cls : BitVec 4) (code : W64) : Bool :=
  let o := field code 56 8
  match cls.toNat with
  | 0 => if o = 0x24 ∨ (0x28 ≤ o ∧ o ≤ 0x2E) then code.getLsbD 51 else code.getLsbD 7
  | 3 => if 0x20 ≤ o ∧ o ≤ 0x38 then code.getLsbD 0 else code.getLsbD 2
  | 5 => if o = 0x01 then code.getLsbD 0 else if 0x10 ≤ o ∧ o ≤ 0x12 then code.getLsbD 2 else code.getLsbD 7
  | _ => false

/-- The address of word `i` of the clause at the running path (R141). -/
def View.wordVa (v : View) (i : Nat) : VA := v.p.pc + BitVec.ofNat 48 (8 * (i + 1))

/-- The bits that a frame's IWORD takes where the word could not be fetched. FREE VALUE, log 17. -/
def unreadWord (va : VA) : W64 := BitVec.ofNat 64 (Config.choice (2 ^ 20 + va.toNat))

/-- A cause taken at the running path's clause header, which is then the resume position (R379, Table 18.4). -/
def headerTrap (v : View) (iword : W64) (t : Trap) : Device := takeFault v t iword v.p.pc 0

/-- A fault of an instruction fetch, taken at the header (R397), or at the place inside the clause that the wave returns to
(R56). -/
def fetchTrap (v : View) (va : VA) (f : MFault) : Device :=
  match trapOfFaults (some v.active) [(v.lane0, f)] with
  | some t => takeFault v t (unreadWord va) v.p.pc v.w.pos.clpos
  | none => v.d

/-- Whether a CONTROL opcode is a control transfer (R145): all but YIELD, NOP and WAITK. -/
def isTransfer (code : W64) : Bool :=
  let o := field code 56 8
  decide (1 ≤ o) && decide (o ≤ 14) && decide (o ≠ 9) && decide (o ≠ 10) && decide (o ≠ 11)

/-- A header that Table 18.6 makes illegal (cause 0x10). -/
def headerBad (h : Header) : Bool :=
  h.cls.getLsbD 3 || decide (h.res ≠ 0) || (h.uni && decide (h.cls ≠ 0) && decide (h.cls ≠ 3) && decide (h.cls ≠ 5))

/-- The look at a clause's words before the first issues: clear, a misplaced transfer, or a fetch in the way. -/
inductive Scan where
  | clear
  | misplaced (i : Nat)
  | stop (d : Device)

/-- The words of a clause that begins, in order: each can be fetched (R397), and none but the last of a CONTROL clause is a
control transfer (Table 18.6). -/
def scanWords (v : View) (h : Header) : List Nat → Scan
  | [] => .clear
  | i :: t =>
    match fetchCode v (v.wordVa i) with
    | .wait d => .stop d
    | .bad f => .stop (fetchTrap v (v.wordVa i) f)
    | .ok w =>
      if h.cls = 6 ∧ i < h.count.toNat ∧ isTransfer w then .misplaced i else scanWords v h t

/-- What the wait fields of a header come to: the clause may begin, after the reads they make; it is held; or a trap stands
at the header. -/
inductive Waits where
  | pass (d : Device)
  | held (d : Device)
  | trap (t : Trap)

/-- WAITAR (R143): the arrival word that s63 names. -/
def waitArrival (v : View) : Waits :=
  let op := sget v.w 63
  match arFind v v.active op true false with
  | .stop (.trap t) => .trap t
  | .stop (.hold d) => .held d
  | .stop _ => .held v.d
  | .at loc =>
    if (arGen v.d loc).extractLsb' 0 16 = op.extractLsb' 48 16 then .held v.d else .pass (arSeen v.core loc v.d)

/-- The wait fields of a header, evaluated together (R143, R393, R395). -/
def headerWaits (v : View) (h : Header) : Waits :=
  if h.waitar && isPending v.w (.s 63) then .held v.d
  else if h.waitar && decide ((sget v.w 63).extractLsb' 0 3 ≠ 0) then .trap (wordTrap v 0x14 v.active 2)
  else if v.w.tokOrph &&& h.waitk ≠ 0 then .trap (wordTrap v 0x20 v.active (v.w.tokOrph &&& h.waitk).toNat)
  else
    match (if h.waitar then waitArrival v else Waits.pass v.d) with
    | .pass d =>
      if v.w.tokPend &&& h.waitk ≠ 0 ∨ (h.waitld ≠ 15 ∧ h.waitld.toNat < loadsOut v.w) ∨
          (h.waitst ≠ 15 ∧ h.waitst.toNat < storesOut v.w) then .held v.d
      else .pass d
    | r => r

/-- The physical lines that a clause's header and words stand in, as the core's TLBs show them. -/
def codeLines (v : View) (h : Header) : List Nat :=
  let t := lanePieces v.d v.core v.w.ctx v.w.walkFaults { rd := false, w := false, x := true } v.priv
    (pageCuts v.p.pc.toNat (8 * (h.count.toNat + 2)))
  t.1.flatMap fun p => unitsOf 128 p.pa p.len

/-- A line that a core fetches: in its instruction cache of 512 lines, or filled from L2 for the context (Table 1.2, R98).
The bytes are those of `codeBytes` (R141). -/
def icacheLine (core ctx : Nat) (d : Device) (line : Nat) : Device :=
  let use (k : Core) : Core := { k with icache := (line :: k.icache.filter fun x => decide (x ≠ line)).take 512 }
  modCore (if (coreOf d core).icache.contains line then d else l2Access d ctx (128 * line) 128) core use

/-- The clause begun: its lines in the instruction cache, its header in force. -/
def takeHeader (v : View) (h : Header) : Device :=
  v.put ((codeLines v h).foldl (icacheLine v.core v.w.ctx) v.d) fun w => { w with pos := { w.pos with hdr := some h.toBits } }

/-- A header's structure checks (R385): where it fails one, the device after the trap or the wait. -/
def headerChecks (v : View) (h : Header) : Option Device :=
  if headerBad h then some (headerTrap v h.toBits (wordTrap v 0x10 v.active 0))
  else
    match scanWords v h ((List.range (h.count.toNat + 1)).drop v.w.pos.clpos.toNat) with
    | .clear => none
    | .misplaced i => some (headerTrap v h.toBits (wordTrap v 0x11 v.active i))
    | .stop d => some d

/-- A wave at a clause header (R44, R45, R56, R143): a due yield is made first; a wave that returns to the clause's
inside begins without its waits. -/
def beginClause (v : View) (h : Header) : Device :=
  if v.w.halted then v.d
  else if v.w.pos.yieldDue && decide (v.w.trap.trlvl = 0) && decide (v.w.pos.clpos = 0) then
    v.put v.d fun w => pathBoundary v.p.mask (leaveClause w)
  else
    match headerChecks v h with
    | some d => d
    | none =>
      if v.w.pos.clpos ≠ 0 then takeHeader v h
      else
        match headerWaits v h with
        | .pass d => takeHeader { v with d := d } h
        | .held d => d
        | .trap t => headerTrap v h.toBits t

/-- The clause header for the wave that is selected. -/
def clauseStep (h : Header) (d : Device) : Out Device :=
  match view d with
  | none => .fault .noWave
  | some v0 =>
    match settleArw v0 with
    | none => .next d
    | some v => .next (beginClause v h)

/-- CLAUSE_HEADER (R143). -/
def execClauseHeader (h : Header) (s : State) : Out State := onDevice (clauseStep h) s

/-- The executing lanes of a word whose opcode is not listed (R385): by the guard field's place in Table 7.2. -/
def reservedLanes (v : View) (cls : BitVec 4) (code : W64) : Mask :=
  let g : Guard := (headOf code).g
  let once := decide (cls = 2) || decide (cls = 4) || decide (cls = 7) || v.uni
  if once then if guardOf v.w g v.lane0 then v.active else 0 else guardMask v.w g v.active

/-- A word whose opcode is not listed (Table 18.6): it traps with cause 0x12 where it has an executing lane, and has no
effect otherwise. -/
def reservedWord (v : View) (cls : BitVec 4) (code : W64) : Device :=
  if waveHeld v then v.d
  else
    let ex := reservedLanes v cls code
    if ex = 0 then finish v v.d .onward else trapHere v code (wordTrap v 0x12 ex cls.toNat)

/-- The fairness timer of a wave reaches 4,096 (R45). -/
def fairnessStep (d : Device) (core slot : Nat) : Device :=
  modWave d core slot fun w =>
    if 4096 ≤ w.cnt.fair ∧ w.trap.trlvl = 0 ∧ w.cnt.deferred = none ∧ !w.pos.yieldDue then dueYield w else w

/-- FAIRNESS_TIMER (R45). -/
def execFairnessTimer (core slot : Nat) (s : State) : Out State := runDevice (onHall (hallOfCore core) fun d => fairnessStep d core slot) s

/-- The end of a deferral (R45): 256 hall cycles have passed, or no lane of the running path holds a reservation. -/
def deferOver (w : Wave) (t : Nat) : Bool :=
  let mask := ((w.pos.paths[w.pos.run]?).map fun p => p.mask).getD 0
  decide (t + 256 ≤ w.cnt.fair) || !(w.resv.any fun e => mask.getLsbD e.1)

/-- RESERVATION_DEFER_EXPIRE (R45). -/
def execReservationDeferExpire (core slot : Nat) (s : State) : Out State :=
  runDevice (onHall (hallOfCore core) fun d => modWave d core slot fun w =>
    match w.cnt.deferred with
    | some t =>
      if deferOver w t then
        { w with pos := { w.pos with yieldDue := true }, cnt := { w.cnt with deferred := none } }
      else w
    | none => w) s

/-- The watchdog's records, one for each entry of the path table, in entry order (R394). -/
def watchdogRecords (v : View) : Device :=
  (indexed v.w.pos.paths).foldl (fun d e =>
    faultRecord d v.src v.w.ctx 0x21 false e.2.mask (BitVec.ofNat 64 v.w.cnt.wd)
      { v.here with hdr := e.2.pc, word := if e.1 = v.w.pos.run then v.w.pos.clpos else 0 }) v.d

/-- The running path's next word, as far as it can be fetched. -/
def nextCode (v : View) : W64 :=
  let va := v.wordVa v.w.pos.clpos.toNat
  match fetchCode v va with | .ok w => w | _ => unreadWord va

/-- The progress watchdog of a wave reaches 2^sr.wdlim (R394); none fires once the wave's context halts (R396). -/
def watchdogStep (d : Device) (core slot : Nat) : Device :=
  match viewAt d core slot with
  | none => d
  | some v =>
    if v.w.trap.wdlim ≠ 0 ∧ !v.w.halted ∧ !(ctxOf d v.w.ctx).halting ∧ !awaitsRecords d core v.w.ctx ∧ 2 ^ v.w.trap.wdlim.toNat ≤ v.w.cnt.wd then
      let code := nextCode v
      takeTrap { v with d := watchdogRecords v } (wordTrap v 0x21 v.active v.w.cnt.wd) code v.p.pc v.w.pos.clpos
    else d

/-- PROGRESS_WATCHDOG (R394). -/
def execProgressWatchdog (core slot : Nat) (s : State) : Out State := runDevice (onHall (hallOfCore core) fun d => watchdogStep d core slot) s

/-- A walk's translation placed in the TLBs of the waves that wait for it (R93). -/
def walkFill (te : TlbEntry) (d : Device) (c : Nat) : Device :=
  modHall (modCore d c fun k => { k with tlb := tlbFill 64 k.tlb te }) (hallOfCore c)
    (setTlb fun l => tlbFill 4096 l te)

/-- A failed walk told to a wave that waits for it (R397, R399). -/
def walkTell (f : WalkFault) (d : Device) (e : Nat × Nat) : Device :=
  modWave d e.1 e.2 fun w => { w with walkFaults := w.walkFaults ++ [f] }

/-- The end of a page walk that a walker has taken (R93, R399): its translation, or its failure, reaches every requester; one
that TLBINV named is made again. Its walker takes the next. A requester in a hall that is in a hop takes nothing until its clock
runs (R335): the walk stays for it; one in a hall that is stopped asks again when it runs. -/
def walkEnd (d : Device) (k : Nat) : Device :=
  match tblFind d.walks k with
  | none => d
  | some w0 =>
    let runs (e : Nat × Nat) : Bool := clockRuns d (hallOfCore e.1)
    let w := { w0 with waiters := w0.waiters.filter runs }
    let late := w0.waiters.filter fun e => !runs e && (hallOf d (hallOfCore e.1)).ck.service && !(hallOf d (hallOfCore e.1)).ck.stopped
    let d0 := if late = [] then dropWalk d k else { d with walks := tblSet d.walks k { w0 with waiters := late } }
    if !w.begun then d
    else if w.discard then dropWalk d k
    else if w.waiters = [] then d0
    else
      let fault (cause : BitVec 8) (info : Nat) : WalkFault :=
        { page := BitVec.ofNat 48 (w.va.toNat / 65536), cause := cause, info := BitVec.ofNat 64 info }
      match walkTables d0 w.ctx w.va.toNat with
      | .absent info => w.waiters.foldl (walkTell (fault 0x30 info)) (tableReads d0 w.ctx w.va.toNat)
      | .badTable pa => w.waiters.foldl (walkTell (fault 0x32 pa)) (tableReads d0 w.ctx w.va.toNat)
      | .ok _ _ _ =>
        match walkNow d0 w.ctx w.va.toNat w.write with
        | .error _ => d0
        | .ok (te, d1) => (w.waiters.map (·.1)).foldl (walkFill te) d1

/-- PAGE_WALK_COMPLETE (R93). -/
def execPageWalkComplete (walk : Nat) (s : State) : Out State := runDevice (fun d => walkEnd d walk) s

end Sys2Proof.Machine
end

