-- ==== Sys2Proof/Machine/MatEngine.lean ====
section
/-! DEFINITION. The arbiter of a hall's matrix engine and the completion of its entries (R266 to R268, R402, R406). -/

namespace Sys2Proof.Machine

/-- Whether an older entry of its block names a tile or slot that an entry names (R266). -/
def matBlocked (h : Hall) (e : MatEntry) : Bool :=
  h.mat.any fun x => x.staging.isNone && decide (x.block = e.block) && decide (x.id < e.id) && x.tiles.any e.tiles.contains

/-- Whether an entry may be granted (R266, R402); one whose block is being saved is withdrawn instead (Table 2.4). -/
def matEligible (d : Device) (h : Hall) (e : MatEntry) : Bool :=
  !e.granted && e.parked.isNone && (e.staging.isSome || (!matBlocked h e && !stopping d e.ctx e.block))

/-- The rank of an entry, least first: regroup entries in flush order (R289), then priority and age (R266). -/
def matRank (h : Hall) (e : MatEntry) : List Nat :=
  match stagingOf h e with
  | some s => 0 :: stageRank s
  | none => [1, if e.age + 8192 ≤ h.cycle then 0 else 4 - e.prio, e.age, e.core, e.slot, e.id]

/-- Whether the engine is free to take an entry: none runs, and it is not stopped (R266, R420). -/
def matFree (h : Hall) : Bool := !h.matHung && !(h.mat.any fun e => e.granted && decide (h.cycle < e.occEnd))

/-- The entry that the arbiter grants next (R266). -/
def matNext (d : Device) (h : Hall) : Option MatEntry :=
  leastBy (fun a b => lexLt (matRank h a) (matRank h b)) (h.mat.filter (matEligible d h))

/-- Whether the table holds an eligible entry and none runs (R419). -/
def matStands (d : Device) (h : Hall) : Bool := matFree h && h.mat.any (matEligible d h)

/-- An entry changed. -/
def modEntry (d : Device) (hall id : Nat) (f : MatEntry → MatEntry) : Device :=
  modHall d hall fun h => { h with mat := h.mat.map fun x => if x.id = id then f x else x }

/-- An entry granted, its grant numbered (R268). -/
def grantMark (d : Device) (hall id : Nat) (f : MatEntry → MatEntry) : Device :=
  modEntry (modHall { d with nextId := d.nextId + 1 } hall fun h => { h with matIdle := 0 }) hall id fun x =>
    { f x with granted := true, order := d.nextId }

/-- An entry leaves the table (R265); flushed bins may then post. -/
def dropEntry (d : Device) (hall id : Nat) : Device :=
  let d1 := modHall d hall fun h => { h with mat := h.mat.filter fun x => decide (x.id ≠ id) }
  (withUnit d1 hall some).getD d1

/-- MDECOMP's status register released, with its status where there is one (R279, R281). -/
def settleDecomp (d : Device) (e : MatEntry) (status : Option W64) : Device :=
  match e.wop, waveOf d e.core e.slot with
  | some id, some w =>
    if w.block ≠ e.block then d
    else
      match findOp w .decomp id with
      | none => d
      | some o =>
        let ws := match status with | some x => o.regs.map fun r => (r, x) | none => []
        completeOp d e.core e.slot w { o with writes := ws }
  | _, _ => d

/-- An entry discarded for a fault (Table 19.3): its locks go, its token is orphaned, its record is written, and its
fault raise, where it has an arrival word, is left to its completion. -/
def discardEntry (d : Device) (hall : Nat) (e : MatEntry) (b : Block) (f : MFault) : Device :=
  let d1 := modHall d hall (unlockOp e.id)
  let d2 := orphanOf d1 e.core e.slot e.block (xTok e.word)
  let d3 := settleDecomp (faultRecord d2 (.matrix hall) e.ctx f.cause false 0 (engInfo f) (blockWhere b)) e none
  if xArv e.word then
    grantMark d3 hall e.id fun x =>
      { x with done := true, failed := true, occEnd := (hallOf d hall).cycle, estat := estatOf f.cause }
  else dropEntry d3 hall e.id

/-- An ordinary entry granted (R266, Table 19.3): every line it touches is translated before it changes anything. -/
def grantEntry (d : Device) (hall : Nat) (e : MatEntry) : Device :=
  match tblFind d.blocks e.block with
  | none => dropEntry (modHall d hall (unlockOp e.id)) hall e.id
  | some b =>
    match matRun d e b with
    | .error f =>
      let d := walkFailed e.ctx f d
      if engParks d e.ctx f then
        modEntry (parkEngine d (.matrix hall) e.ctx f (blockWhere b)) hall e.id fun x =>
          { x with parked := some (f.addr.setWidth 48) }
      else discardEntry d hall e b f
    | .ok m =>
      grantMark m.d hall e.id fun x =>
        { x with done := true, flags := m.flags, estat := m.estat, status := m.status
                 fetching := (entrySpans e b.acct).any fun s => !s.dest && engRemote d e.ctx s.at' s.last
                 occEnd := (hallOf d hall).cycle + occupancy e b.acct m.status }

/-- MATRIX_GRANT (R266). -/
def matGrant (d : Device) (hall : Nat) : Device :=
  let h := hallOf d hall
  if !matFree h then d
  else
    match matNext d h with
    | none => d
    | some e =>
      match stagingOf h e with
      | some s => if unitReady d 4 hall e.ctx then grantRegroup d hall e s else d
      | none => grantEntry d hall e

/-- MATRIX_GRANT (R266). -/
def execMatrixGrant (hall : Nat) (s : State) : Out State := runDevice (onHall hall fun d => matGrant d hall) s

/-- The end of an entry once its raise is made, or has none: its token falls idle with its flags (R268, R118). -/
def endEntry (d : Device) (hall : Nat) (e : MatEntry) : Device :=
  if e.failed then dropEntry (settleDecomp d e none) hall e.id
  else
    let d1 := settleDecomp d e (some e.status)
    dropEntry (idleOf d1 e.core e.slot e.block (xTok e.word) e.flags) hall e.id

/-- MATRIX_ENTRY_COMPLETE (R267, R268): in grant order, once its occupancy has ended. -/
def matComplete (d : Device) (hall op : Nat) : Device :=
  let h := hallOf d hall
  match h.mat.find? fun e => decide (e.id = op) && e.staging.isNone with
  | none => d
  | some e =>
    let earlier := h.mat.any fun x => x.staging.isNone && x.granted && decide (x.order < e.order)
    if !e.granted || e.fetching || decide (h.cycle < e.occEnd) || e.parked.isSome || (h.matHung && !e.failed) || earlier then d
    else
      let d1 := modHall d hall (unlockOp e.id)
      match xArv e.word, tblFind d.blocks e.block with
      | true, some b =>
        match engRaise d1 (.matrix hall) b e.core e.priv e.arv 1 e.flags e.estat with
        | .done d2 => endEntry d2 hall e
        | .parked va d2 => modEntry d2 hall e.id fun x => { x with parked := some va }
        | .lost d2 =>
          dropEntry (settleDecomp (orphanOf d2 e.core e.slot e.block (xTok e.word)) e (if e.failed then none else some e.status)) hall e.id
      | _, _ => endEntry d1 hall e

/-- MATRIX_ENTRY_COMPLETE (R267, R268). -/
def execMatrixEntryComplete (hall op : Nat) (s : State) : Out State := runDevice (onHall hall fun d => matComplete d hall op) s

end Sys2Proof.Machine
end

