-- ==== Sys2Proof/Machine/Resets.lean ====
section
/-! DEFINITION. Resets of engines and reloads of microcoded units (R408, R419, R420, R427, R430). -/

namespace Sys2Proof.Machine

/-! ## Matrix engine (R419, R420) -/

/-- The entry that a hall's matrix engine runs: the first granted of those that have not completed, unless it waits on a
parked raise. -/
def runningEntry (h : Hall) : Option MatEntry :=
  (leastBy (fun a b => decide (a.order < b.order)) (h.mat.filter fun e => e.granted && !e.failed)).filter fun e => e.parked.isNone

/-- Whether a hall's matrix engine is hung (R419): the running entry stands 4,096 cycles past its occupancy, or an eligible
entry has stood 4,096 cycles while none ran. -/
def matOverdue (h : Hall) : Bool :=
  decide (4096 < h.matIdle) || (runningEntry h).elim false fun e => decide (e.occEnd + 4096 < h.cycle)

/-- An entry of a block that holds tiles, discarded by a reset (R420, step 2): one with an arrival word stays for its
fault raise, which waits on no parked raise. -/
def hangEntry (h : Hall) (e : MatEntry) : MatEntry :=
  { e with granted := true, done := true, failed := true, fetching := false, parked := none, occEnd := h.cycle
           estat := e.estat ||| esHang }

/-- A hall's entries after a reset: those of the blocks that lose their tiles discarded, the running one otherwise begun
again (R420, steps 2 and 3). -/
def hangHall (mine : Nat → Bool) (h : Hall) : Hall :=
  let lost (e : MatEntry) : Bool := mine e.block && e.staging.isNone
  let gone := (h.mat.filter lost).map (·.id)
  { h with
    matHung := true, matHeld := true
    locks := h.locks.filter fun e => !gone.contains e.2.op
    mat := h.mat.filterMap fun e =>
      if lost e then (if xArv e.word then some (hangEntry h e) else none)
      else some (if (runningEntry h).any fun x => x.id = e.id then { e with granted := false, done := false } else e)
    matIdle := 0 }

/-- A hall's accumulator file and metadata memory written with +0 (R420, step 4). -/
def clearAcc (h : Nat) (st : Stores) : Stores :=
  let inAcc (k : Nat) : Bool := decide (accKey h 0 0 0 ≤ k) && decide (k < accKey (h + 1) 0 0 0)
  let inMd (k : Nat) : Bool := decide (h * 65536 ≤ k) && decide (k < (h + 1) * 65536)
  { st with
    acc := st.acc.filter fun e => !inAcc e.1
    md := st.md.filter fun e => !inMd e.1
    poison := st.poison.filter fun e => !(decide (e.1 = 6) && inAcc e.2) && !(decide (e.1 = 7) && inMd (4 * e.2)) }

/-- A hung matrix engine stopped (R420, steps 1 to 5). The entry that ran is named in the telemetry entry. -/
def matHang (d : Device) (h : Nat) : Device :=
  if (hallOf d h).matHung || !matOverdue (hallOf d h) then d
  else
    let bs := (hallBlocks d h).filter fun e => decide (e.2.acct ≠ 0) && !e.2.ended
    let opc := match runningEntry (hallOf d h) with | some e => e.opc.toNat | none => openTel 6 0
    let d1 := modHall d h (hangHall fun b => bs.any fun e => decide (e.1 = b))
    let d2 := bs.foldl (fun d e =>
      terminate d e.1 (.matrix h) 0x50 0 (BitVec.ofNat 64 h) (blockWhere e.2)) d1
    telemetryPut { d2 with st := clearAcc h d2.st } (.matrix h) 6 (openTel 6 1 % 256) (512 + h) opc

/-- MATRIX_ENGINE_HANG (R419, R420). -/
def execMatrixEngineHang (hall : Nat) (s : State) : Out State :=
  runDevice (fun d => if hall < Config.halls then matHang d hall else d) s

/-- MATRIX_ENGINE_RESTART (R420, step 6). -/
def execMatrixEngineRestart (hall : Nat) (s : State) : Out State :=
  runDevice (fun d => if (hallOf d hall).matHung then modHall d hall fun h => { h with matHung := false, matHeld := false }
    else d) s

/-! ## Copy queues (R430) -/

/-- An operation discarded by a queue reset: its completion makes the fault raise for the bytes not landed. -/
def hangCopy (o : CopyOp) : CopyOp :=
  { o with begun := true, finished := true, parked := none, owed := o.owed + copyLeft o, estat := o.estat ||| esHang
           word := { o.word with te := false } }

/-- Whether the operation at the head of a copy queue is hung (R430): under way, not parked, and without a unit landed for
2^20 fabric cycles. -/
def copyOverdue (d : Device) (o : CopyOp) : Bool :=
  o.begun && !o.finished && o.parked.isNone && decide (2 ^ 20 ≤ (d.fcycle - o.moved).toNat)

/-- A copy queue reset (R430): its operations are discarded, their locks removed and their tokens orphaned. -/
def resetQueue (d : Device) (h q : Nat) : Device :=
  let ops := cqOf (hallOf d h) q
  match ops with
  | [] => d
  | o :: _ =>
    if !copyOverdue d o then d
    else
      let d1 := modHall d h fun k =>
        ops.foldl (fun k o => unlockOp o.id k) { k with cq := tblSet k.cq q (ops.map hangCopy) }
      let d2 := ops.foldl (fun d o => orphanOf d o.core o.slot o.block (eTok o.word)) d1
      match tblFind d2.blocks o.block with
      | some b => faultRecord d2 (.copyQueue h q) o.ctx 0x5B false 0 (BitVec.ofNat 64 (q + 4 * h))
          { blockWhere b with hdr := 0, word := 0, slot := 0 }
      | none => d2

/-- COPY_QUEUE_RESET (R430). -/
def execCopyQueueReset (hall queue : Nat) (s : State) : Out State := runDevice (fun d => resetQueue d hall queue) s

/-! ## Microcoded units (R427) -/

/-- The ray queries of a hall in flight end with INFO 5 (R427). -/
def failRays (d : Device) (h : Nat) : Device :=
  (List.range 4).foldl (fun d i =>
    let c := 4 * h + i
    (coreOf d c).waves.foldl (fun d e =>
      (e.2.gfx.rays.filter fun r => r.2.flying).foldl (fun d r => rayFail d c e.1 r.1 r.2 e.2 5) d) d) d

/-- A regroup pass at its activation stage begins again, its raise with UNIT (R427). -/
def rerunPass (d : Device) (h : Nat) : Device :=
  modHall d h fun k => { k with mat := k.mat.map fun e =>
    if e.staging.isSome ∧ e.granted ∧ k.cycle < e.occEnd then { e with granted := false, estat := e.estat ||| esUnit } else e }

/-- A unit's number in a telemetry entry (Table 20.2); the table names none but a ray traversal unit's. -/
def unitSource (kind unit : Nat) : Nat := if kind = 0 then 640 + unit else openTel 7 (4 + kind)

/-- A microcoded unit's reload (R427): ray queries and regroup passes meet their fates; the other units repeat the step in
hand, which they have not begun in the model. -/
def unitReload (d : Device) (kind unit : Nat) : Device :=
  if unitStopped d kind unit then d
  else
    let d1 := modUnit d kind unit fun u => { u with reloading := true }
    let d2 := if kind = 0 then failRays d1 unit else if kind = 4 then rerunPass d1 unit else d1
    telemetryPut d2 (if kind = 0 then .ray unit else .monitor (unitSource kind unit)) 7 (openTel 7 0 % 256)
      (unitSource kind unit) (openTel 7 1)

/-- Whether a microcoded unit has had work and made no step for 65,536 hall cycles (R427). -/
def unitOverdue (d : Device) (kind unit : Nat) : Bool :=
  (unitWork d kind unit).isSome &&
    d.units.any fun u => decide (u.kind = kind) && decide (u.unit = unit) && decide (65536 ≤ u.idle)

/-- UNIT_RELOAD (R427). -/
def execUnitReload (kind unit : Nat) (s : State) : Out State :=
  runDevice (fun d => if kind < 5 && unitOverdue d kind unit then unitReload d kind unit else d) s

/-- UNIT_RELOAD_END (R427). -/
def execUnitReloadEnd (kind unit : Nat) (s : State) : Out State :=
  runDevice (fun d => if unitStopped d kind unit then modUnit d kind unit fun u => { u with reloading := false, idle := 0 } else d) s

/-! ## Decoders (R408) -/

/-- INFO of a block whose decoder's watchdog expired: code 6 with its sidecar byte. -/
def expireInfo (d : Device) (hall : Option Nat) (ctx block : Nat) : Nat :=
  6 * 256 + match sidecarAt d hall ctx block with | .ok a => ((memRead d a 1).headD 0).toNat | .error _ => 0

/-- The decoder of the coalescer, or of the slice where a store's block is modified, expires for a wave's next word: the word's
lanes that name the block take cause 0x41. -/
def waveExpire (d : Device) (core slot block : Nat) : Device :=
  match waveOf d core slot with
  | none => d
  | some w =>
    let f : WalkFault := { page := BitVec.ofNat 48 block, cause := 0x41
                           info := BitVec.ofNat 64 (expireInfo d (some (hallOfCore core)) w.ctx block) }
    modWave d core slot fun w => { w with walkFaults := w.walkFaults ++ [f] }

/-- The decoder of a copy engine expires for the block that the CPYX at a queue's head has come to: it stops with MALF. -/
def copyExpire (d : Device) (hall queue block : Nat) : Device :=
  match cqOf (hallOf d hall) queue with
  | [] => d
  | o :: _ =>
    if o.begun && !o.finished && decide (o.opc = 0x33) && decide (vaNat ((opDst o).base + o.unit) = block) then
      stopCopy d hall queue o { xlateFault 0x41 (expireInfo d (some hall) o.ctx block) block with rank := 8 }
    else d

/-- The decoder of a pixel back end expires for the block of a fragment that waits for it: the fragment finds a raw expansion
that reads as zero, and the draw's queue takes the record. -/
def backExpire (d : Device) (unit block : Nat) : Device :=
  let names (g : Grid) (f : Fragment) : Bool :=
    decide (fragmentUnit d g f = unit) && decide (fragmentBlock d g f = (backPlace d g.ctx block).map (·.1))
  match d.grids.find? fun e => e.2.draw.frags.any (names e.2) with
  | none => d
  | some (k, g) =>
    match backPlace d g.ctx block with
    | none => d
    | some p =>
      if p.2.kind ≠ 1 ∨ (tblFind d.st.back (p.1 / 256)).isSome then d
      else
        let d1 := faultRecord d (.launch g.queue) g.ctx 0x41 false 0 (BitVec.ofNat 64 (expireInfo d none g.ctx block)) (gridWhere g)
        modDraw { d1 with st := { d1.st with back := tblSet d1.st.back (p.1 / 256) (List.replicate 256 0) } } k fun w =>
          { w with changed := if w.changed.contains block then w.changed else w.changed ++ [block] }

/-- A decoder's watchdog expires on the compressed block at an address (R408). The input names the decoder by two numbers: a core
and a wave slot; a hall and 64 with the copy queue; or a pixel back end and 68. -/
def decoderExpire (d : Device) (core slot : Nat) (va : VA) : Device :=
  let block := va.toNat / 256 * 256
  if slot < 64 then waveExpire d core slot block
  else if slot < 68 then copyExpire d core (slot - 64) block
  else if slot = 68 then backExpire d core block
  else d

/-- DECODER_WATCHDOG (R408). -/
def execDecoderWatchdog (core slot : Nat) (va : VA) (s : State) : Out State :=
  runDevice (fun d => decoderExpire d core slot va) s

end Sys2Proof.Machine
end

