-- ==== Sys2Proof/Machine/Errors.lean ====
section
/-! DEFINITION. Errors in storage (R409, R410, R413, R441) and requests to other modules that stay unanswered (R412). -/

namespace Sys2Proof.Machine

/-! ## Storage (R409) -/

/-- The context that owns a word of scratchpad: that of the block or the alcove that holds its granule. -/
def spadOwner (d : Device) (o : Nat) : Option Nat :=
  let c := o / 0x40000
  let g := o % 0x40000 / 4096
  match d.blocks.find? fun e => decide (e.2.core = c) && ownsGranule e.2 g with
  | some e => some e.2.ctx
  | none => (d.alcoves.find? fun e => alcoveAt e.2 c g).map fun e => e.2.owner.toNat

/-- The context that owns an accumulator element or a metadata word: that of the block that holds its tile. -/
def tileOwner (d : Device) (hall : Nat) (named : Nat → Bool) : Option Nat :=
  ((hallBlocks d hall).find? fun e => (blockTiles e.2).any named).map fun e => e.2.ctx

/-- The context that owns a damaged unit, where one is known (R413): the last writer of a dirty line of L2, the holder of a
granule or tile, the owner of an alcove, a range lock or a parking entry. -/
def damageOwner (d : Device) (x : Damage) : Option Nat :=
  match x.store with
  | 2 => ((tblFind d.st.l2 (domainAddr d x.addr / 128)).filter fun l => l.old.isSome && decide (l.owner < 64)).map (·.owner)
  | 4 => spadOwner d (x.addr - 0x200008000000)
  | 6 =>
    let h := accOffset x.addr
    tileOwner d h.1 fun t =>
      if h.2 < 0xF0000 then decide ((accPlace h.2).1 = t)
      else decide (0xF0000 + slotBase t ≤ h.2) && decide (h.2 < 0xF0000 + slotBase t + mdTile)
  | 8 =>
    match x.table with
    | 0 => if (alcOf d x.addr).state = 0 then none else some (alcOf d x.addr).owner.toNat
    | 1 => (tblFind (hallOf d x.hall).locks x.addr).map (·.ctx)
    | _ => (d.parking[x.addr]?).map (·.1)
  | _ => none

/-- The module-local address in a log entry of a damaged unit: that of a table entry in its window, where it has one (log 16). -/
def damageAddr (x : Damage) : Nat :=
  if x.store = 8 then (if x.table = 0 then 0x200020100000 + 32 * x.addr else openTel 35 x.table) else x.addr

/-- A log entry of a damaged unit (R413). CTX is left open where no owner is known (log 16). -/
def logDamage (d : Device) (kind : Nat) (x : Damage) : Device :=
  errorLogPut d kind x.store (damageAddr x) ((damageOwner d x).getD (openTel 33 x.store)) x.hall x.synd

/-- A protected unit poisoned: of device memory 64 bytes, of L2 16, of scratchpad and metadata 4, of an accumulator one
element (Table 19.6). -/
def poisonUnit (d : Device) (x : Damage) : Device :=
  let p := poisonPlace d (domainAddr d x.addr)
  let base := if p.1 = 2 ∧ x.store = 1 then p.2.2 / 64 * 64 else p.2.2
  { d with st := { d.st with poison := poisonMark d.st.poison p.1 p.2.1 base (if p.1 = 2 ∧ x.store = 1 then 64 else p.2.1) } }

/-- Copies of a line dropped from the L1s and instruction caches of a hall's cores and from its weight cache (R409). -/
def dropCopies (d : Device) (x : Damage) : Device :=
  let line := domainAddr d x.addr / 128
  let d1 := { d with cores := tblMap (fun c k => if hallOfCore c = x.hall then
    { k with l1 := l1Drop k.l1 line, icache := k.icache.filter fun x => decide (x ≠ line) } else k) d.cores }
  if regionOf x.addr = .weights then
    modHall d1 x.hall fun h => { h with wlines := listDrop h.wlines (Config.weightWay (x.addr % 0x100000 / 128)) }
  else d1

/-- Translations of the page that holds an address dropped from a hall's TLBs (R409). -/
def dropTranslations (d : Device) (x : Damage) : Device :=
  let a := domainAddr d x.addr
  let keep (e : TlbEntry) : Bool := !(decide (e.pa ≤ a) && decide (a < e.pa + 2 ^ e.bits))
  let d1 := modHall d x.hall (setTlb fun l => l.filter keep)
  { d1 with cores := tblMap (fun c k => if hallOfCore c = x.hall then { k with tlb := k.tlb.filter keep } else k) d1.cores }

/-- The wave that owns a register-file word. -/
def wordOwner (d : Device) (core word : Nat) : Option Nat :=
  ((coreOf d core).waves.find? fun e =>
    decide (e.2.rfbase ≤ word) && decide (word < e.2.rfbase + e.2.width * (8 + e.2.nstk))).map (·.1)

/-- Where a wave stands for a record: its running path's position, or its slot alone once every path has left. -/
def standsAt (d : Device) (core slot : Nat) : Where :=
  match viewAt d core slot with
  | some v => v.here
  | none =>
    let b := (waveOf d core slot).bind fun w => tblFind d.blocks w.block
    { hdr := 0, word := 0, core := core, slot := slot, linear := (b.map (·.linear)).getD 0 }

/-- An uncorrectable error in a register-file word (R410). -/
def damageReg (d : Device) (x : Damage) : Device :=
  let a := x.addr - 0x200000000000
  let core := a / 0x40000
  let word := a % 0x40000 / 4
  match (wordOwner d core word).bind fun s => (waveOf d core s).map fun w => (s, w) with
  | some (s, w) =>
    terminate d w.block (.wave core s) 0x45 (laneBit ((word - w.rfbase) % w.width)) (BitVec.ofNat 64 word) (standsAt d core s)
  | none => logDamage (rfSet d core word 0) 4 x

/-- An uncorrectable error in a table entry (R405, R409, R441): an Alcove Table entry's alcove ends, a range lock is void, a
parking entry's waves replay. -/
def damageTable (d : Device) (x : Damage) : Device :=
  let d1 := logDamage d 2 x
  match x.table with
  | 0 => if (alcOf d1 x.addr).state = 0 then d1 else loseAlcove d1 x.addr
  | 1 => modHall d1 x.hall fun h => { h with locks := tblMap (fun k l => if k = x.addr then { l with voided := true } else l) h.locks }
  | _ =>
    match d1.parking[x.addr]? with
    | none => d1
    | some (c, page) => replayPage c page { d1 with parking := listDrop d1.parking x.addr }

/-- What an error in storage does (R409, R410, R427, Table 19.6). A flit whose CRC fails is sent again by its port (R412). -/
def damage (d : Device) (x : Damage) : Device :=
  if x.store = 0 then
    (if x.correctable || decide (5 ≤ x.table) then d else unitReload d x.table x.hall)
  else if x.correctable then logDamage d 1 x
  else
    match x.store with
    | 1 => if lineDirty d (domainAddr d x.addr) then logDamage d 2 x else logDamage (poisonUnit d x) 2 x
    | 2 => if lineDirty d (domainAddr d x.addr) then logDamage (poisonUnit d x) 2 x else logDamage d 3 x
    | 3 => logDamage (dropCopies d x) 3 x
    | 4 => logDamage (poisonUnit d x) 2 x
    | 5 => damageReg d x
    | 6 => logDamage (poisonUnit d x) 2 x
    | 7 => logDamage (dropTranslations d x) 3 x
    | 8 => damageTable d x
    | 9 => logDamage d 3 x
    | _ => d

/-- SCRUB (R409). -/
def execScrub (x : Damage) (s : State) : Out State := runDevice (fun d => damage d x) s

/-! ## Remote requests (R412) -/

/-- The word at a place where an operation was issued. -/
def issuedCode (v : View) (pc : VA) (word : BitVec 4) : W64 :=
  let va := pc + BitVec.ofNat 48 (8 * (word.toNat + 1))
  match fetchCode v va with | .ok w => w | _ => unreadWord va

/-- The requests of an operation that went to a module through a port. -/
def partsTo (o : LongOp) (module port : Nat) : List RemotePart :=
  o.ports.filter fun p => decide (p.module = module) && decide (p.port = port)

/-- Whether a word that was issued makes its access once for every active lane: its own `.uni` or its clause's, or SLD (R28). -/
def issuedOnce (v : View) (pc : VA) (code : W64) (o : LongOp) : Bool :=
  (match fetchCode v pc with | .ok h => (Header.ofBits h).uni || uniBit (Header.ofBits h).cls code | _ => false) ||
    o.regs.any fun r => match r with | .sreg _ => true | _ => false

/-- A remote load or atomic without an answer from a module and port to which it sent a request: its destination is released
unchanged, and the wave traps at the word, with the lanes whose requests they were and the address of the lowest (R398). -/
def loadLost (d : Device) (core slot op module port : Nat) : Device :=
  match waveOf d core slot with
  | none => d
  | some w =>
    match findOp w .load op with
    | none => d
    | some o =>
      match leastBy (fun a b => decide (a.lane < b.lane)) (partsTo o module port) with
      | none => d
      | some p =>
        let d1 := modWave d core slot (dropOp op)
        match viewAt d1 core slot with
        | none => d1
        | some v =>
          let pc : VA := (o.args.headD 0).setWidth 48
          let word : BitVec 4 := (o.args.getD 1 0).setWidth 4
          let code := issuedCode v pc word
          let lanes := if issuedOnce v pc code o then o.args.getD 2 0 else maskOf ((partsTo o module port).map (·.lane))
          takeTrap v { wordTrap v 0x44 lanes 257 with addr := BitVec.ofNat 64 p.va } code pc word

/-- The record of a posted write without an acknowledgement (Table 19.1). -/
def lostRecord (d : Device) (port module ctx : Nat) (p : Where) : Device :=
  faultRecord d (.port port) ctx 0x46 false 0 (BitVec.ofNat 64 (module % 64 + port % 16 * 256)) p

/-- A remote store or clean without an acknowledgement from a module and port to which it was sent counts as acknowledged. -/
def storeLost (d : Device) (core slot op module port : Nat) : Device :=
  match waveOf d core slot with
  | none => d
  | some w =>
    match w.ops.find? fun o => decide (o.id = op) && (decide (o.kind = .store) || decide (o.kind = .cwb)) with
    | none => d
    | some o =>
      if partsTo o module port = [] then d
      else lostRecord (completeKind d core slot o.kind op) port module w.ctx (standsAt d core slot)

/-- Whether a copy reads through a module and port. -/
def copyReads (d : Device) (o : CopyOp) (mp : Nat × Nat) : Bool :=
  (decide (o.opc = 0x30) || decide (o.opc = 0x31)) && engUses d o.ctx (opSrc o) (srcShape o.sh0 o.sh1).last mp

/-- The running operation of a copy queue without an answer from a module and port that it uses: it sets NOANS. One that
copies from the other module stops; an update or a SIGNAL counts as acknowledged. -/
def copyLost (d : Device) (h q module port : Nat) : Device :=
  match cqOf (hallOf d h) q with
  | [] => d
  | o :: _ =>
    let mp := (module, port)
    if !o.begun || !(copyReads d o mp || engUses d o.ctx (opDst o) (opShape o).last mp) then d
    else
      let d1 := modHead d h q fun o => { o with estat := o.estat ||| esNoans }
      if o.opc = 0x31 ∨ o.opc = 0x34 then
        match tblFind d1.blocks o.block with
        | some b => lostRecord d1 port module o.ctx (blockWhere b)
        | none => d1
      else if copyReads d o mp then
        stopCopy d1 h q { o with estat := o.estat ||| esNoans }
          { rank := 9, cause := 0x44, info := 257, addr := 0, page := 0 }
      else d1

/-- A matrix entry under way without an answer from a module and port that it uses: it sets NOANS, and its writes count as
acknowledged. -/
def entryLost (d : Device) (h op module port : Nat) : Device :=
  match (hallOf d h).mat.find? fun e => decide (e.id = op) && e.staging.isNone with
  | none => d
  | some e =>
    match tblFind d.blocks e.block with
    | none => d
    | some b =>
      let uses := (entrySpans e b.acct).filter fun s => engUses d e.ctx s.at' s.last (module, port)
      if !e.granted || e.failed || decide (uses.length = 0) then d
      else
        let d1 := modEntry d h op fun x => { x with estat := x.estat ||| esNoans, fetching := false }
        if uses.any fun s => s.dest then lostRecord d1 port module e.ctx (blockWhere b) else d1

/-- A regroup pass without an answer to the fetch of its weight set sets NOANS and fails with cause 0x44 (R412, R423). -/
def passLost (d : Device) (h op module port : Nat) : Device :=
  match (hallOf d h).mat.find? fun e => decide (e.id = op) with
  | none => d
  | some e =>
    match stagingOf (hallOf d h) e with
    | none => d
    | some s =>
      let uses := (wSetLines (hallOf d h) e.ctx s.set.toNat).any fun l => engUses d e.ctx (.virt (128 * l)) 127 (module, port)
      if !e.fetching || !uses then d
      else failPass (modEntry d h op fun x => { x with estat := x.estat ||| esNoans }) h e s 0x44

/-- A ray query without an answer to a read of its structure fails as by a memory fault (R412, R426). -/
def rayLost (d : Device) (core slot lane module : Nat) : Device :=
  match waveOf d core slot with
  | none => d
  | some w =>
    if (rayOf w lane).flying && decide (module ≠ d.modno.toNat) then rayFail d core slot lane (rayOf w lane) w 4 else d

/-- REMOTE_TIMEOUT (R412). -/
def execRemoteTimeout (r : RemoteLoss) (s : State) : Out State :=
  runDevice (fun d => match r with
    | .load core slot op module port => loadLost d core slot op module port
    | .store core slot op module port => storeLost d core slot op module port
    | .copy hall queue module port => copyLost d hall queue module port
    | .entry hall op module port => entryLost d hall op module port
    | .pass hall op module port => passLost d hall op module port
    | .ray core slot lane module _ => rayLost d core slot lane module) s

/-- The number that stands for another module as the last writer of a line. -/
def remoteOwner : Nat := 64

/-- Whether a request lies in one line of this module's device memory (R351). -/
def remoteFits (addr n : Nat) : Bool :=
  decide (0 < n) && decide (addr % 128 + n ≤ 128) && decide (regionOf addr = .mem)

/-- A request answered: its bytes, and whether they are poisoned at home (R412). -/
def remoteAnswer (d : Device) (a n : Nat) (s : State) : State :=
  { s with plant := { s.plant with portOut := s.plant.portOut ++ [memRead d a n ++ leBytes 1 (nat1 (memPoisoned d a n))] } }

/-- A request acknowledged without bytes. -/
def remoteAck (d : Device) (s : State) : State := { s with dev := d, plant := { s.plant with portOut := s.plant.portOut ++ [[]] } }

/-- One update of `n` bytes at a place of this module's memory, read and written together (R124, R249). -/
def remoteUpdate (d : Device) (a n : Nat) (f : Nat → Nat) : Device :=
  memWrite d remoteOwner a (leBytes n (f (leNat (memRead d a n)) % 256 ^ n))

/-- The value of an element of CPYR updated by a source element (R249): its bits. -/
def reducedElem (form : Nat) (old src : Nat) : Nat :=
  let df := if form = 2 then bf16 else fp32
  let sf := if form = 0 then fp32 else bf16
  encodeF df (addF df .rne (decodeF df old) (decodeF sf src)).1

/-- A request of another module served at this module's L2 (R140, R351): loads and atomics are answered, writes and updates
acknowledged. An atomic's code is
that of Table 9.2, 16 more for a signed one. -/
def remoteServe (s : State) (r : RemoteAccess) : State :=
  let d := s.dev
  match r with
  | .read addr len =>
    if remoteFits addr len then remoteAnswer d (domainAddr d addr) len { s with dev := l2Access d remoteOwner (domainAddr d addr) len }
    else s
  | .write addr bs =>
    if remoteFits addr bs.length then remoteAck (memWrite d remoteOwner (domainAddr d addr) bs) s else s
  | .add addr x =>
    if remoteFits addr 8 then remoteAck (remoteUpdate d (domainAddr d addr) 8 fun old => old + x.toNat) s else s
  | .atom op size addr x y =>
    if remoteFits addr size ∧ (size = 4 ∨ size = 8) ∧ addr % size = 0 then
      let a := domainAddr d addr
      let new (old : Nat) : Nat :=
        atomicOp (op % 16) (8 * size) (decide (16 ≤ op)) old (x.toNat % 256 ^ size) (y.toNat % 256 ^ size)
      remoteAnswer d a size { s with dev := remoteUpdate d a size new }
    else s
  | .update form addr x =>
    let n := (reduceSizes form).2
    if form < 3 ∧ remoteFits addr n ∧ addr % n = 0 then
      remoteAck (remoteUpdate d (domainAddr d addr) n fun old => reducedElem form old (x.toNat % 256 ^ (reduceSizes form).1)) s
    else s

/-- REMOTE_REQUEST (R351). -/
def execRemoteRequest (r : RemoteAccess) (s : State) : Out State := .next (remoteServe s r)

end Sys2Proof.Machine
end

