-- ==== Sys2Proof/Machine/Fabric.lean ====
section
/-! DEFINITION. Ovfoquel ports (R351, R352, R442, R443). -/

namespace Sys2Proof.Machine

/-- The ports of the module (Table 1.2). -/
def portCount : Nat := 16

/-- A port. -/
def portOf (pl : Plant) (p : Nat) : Port := tblGet blankPort pl.ports p

/-- A change of a port. -/
def modPort (p : Nat) (f : Port → Port) (s : State) : State :=
  { s with plant := { s.plant with ports := tblSet s.plant.ports p (f (portOf s.plant p)) } }

/-- A stage of a port's retraining reported (R443); the spec states no DATA (log 16). -/
def portEntry (p code : Nat) (s : State) : State :=
  { s with dev := telemetryPut s.dev (.port p) 5 code (384 + p) (openTel 5 code) }

/-- A millisecond in cycles of the fabric's clock of 2 GHz. -/
def fabricMs : Nat := 2000000

/-- Bytes of another module's memory as they stand there, with their home's poison mark or without (R351, R412): what this module's
accesses to them find from then on. An address of this module names none. -/
def peerBytes (d : Device) (a : Nat) (bs : List Byte) (bad : Bool) : Device :=
  if a + bs.length ≤ 2 ^ 52 ∧ isRemote d a ∧ isRemote d (a + bs.length - 1) ∧ bs ≠ [] then
    let d1 := memSettle d a bs a bs.length
    if bad then { d1 with st := { d1.st with poison := poisonMark d1.st.poison 2 16 a bs.length } } else d1
  else d

/-- The lanes that a port runs on: one while zone 34 is dry (R438). -/
def portLanes (p : Port) : Nat := if p.slow then 1 else p.lanes

/-- What a port has replayed in the last millisecond (R443). -/
def recentReplays (now : W64) (p : Port) : List (W64 × Nat) := p.replays.filter fun e => decide ((now - e.1).toNat < fabricMs)

/-- The flits that a port has replayed in the last millisecond. -/
def recentFlits (now : W64) (p : Port) : Nat := ((recentReplays now p).map (·.2)).sum

/-- FLIT_CRC_REPLAY (R442): flits replayed in order; nothing above the port sees it. -/
def execFlitCrcReplay (port flits : Nat) (s : State) : Out State :=
  let now := s.dev.fcycle
  .next (if port < portCount then modPort port (fun p => { p with replays := recentReplays now p ++ [(now, flits)] }) s else s)

/-- Widths that a port trains at (R443). -/
def portWidth (lanes : Nat) : Bool := decide (lanes = 4) || decide (lanes = 2) || decide (lanes = 1)

/-- PORT_RETRAIN (R443): after more than 16 flits replayed in 1 ms, or for a lane lost. -/
def execPortRetrain (port lanes : Nat) (s : State) : Out State :=
  let p := portOf s.plant port
  .next (if port < portCount ∧ !p.removed ∧ p.training = none ∧ (16 < recentFlits s.dev.fcycle p ∨ lanes < p.lanes) then
    portEntry port 1 (modPort port (fun p => { p with training := some s.dev.fcycle, replays := [] }) s)
  else s)

/-- PORT_TRAINED (R443). -/
def execPortTrained (port lanes : Nat) (s : State) : Out State :=
  .next (if (portOf s.plant port).training.isSome ∧ portWidth lanes then
    portEntry port 2 (modPort port (fun p => { p with training := none, lanes := lanes }) s)
  else s)

/-- A port taken out of every route mask (R443). -/
def unroute (p : Nat) (d : Device) : Device :=
  { d with routes := tblMap (fun _ m => m &&& ~~~BitVec.ofNat 16 (2 ^ p)) d.routes }

/-- PORT_REMOVE (R443): a port that has not trained within 1 ms. -/
def execPortRemove (port : Nat) (s : State) : Out State :=
  .next (if (portOf s.plant port).training.any fun t => decide (fabricMs ≤ (s.dev.fcycle - t).toNat) then
    let s1 := modPort port (fun p => { p with training := none, removed := true }) s
    portEntry port 3 { s1 with dev := unroute port s1.dev }
  else s)

end Sys2Proof.Machine
end

