-- ==== Sys2Proof/Machine/Pair.lean ====
section
/-! DEFINITION. PAIR words (R151 to R153): two half-operations in one issue, both read before either writes. -/

namespace Sys2Proof.Machine

/-- What a half-operation computes (Table 7.5): the sources it reads, whether they are read as FP32, whether it reads its
own D, and its result from a, b and d. -/
structure HalfKind where
  n : Nat
  fp : Bool
  rd : Bool
  f : View → W32 → W32 → W32 → W32 × Flags

/-- A half-operation on integers (R168). -/
def intHalf (sg : Bool) (f : Int → Int → Int) : HalfKind :=
  { n := 2, fp := false, rd := false
    f := fun _ a b _ => (w32 (narrowInt 32 sg false (f (intOf 32 sg a.toNat) (intOf 32 sg b.toNat))).1, 0) }

/-- A half-operation on bits (R171, R175). -/
def bitHalf (f : W32 → W32 → W32) : HalfKind :=
  { n := 2, fp := false, rd := false, f := fun _ a b _ => (f a b, 0) }

/-- A half-operation on FP32 values, in sr.fmode's rounding mode (R151, R179). -/
def fpHalf (rd : Bool) (f : Rm → FVal → FVal → FVal → FVal × Flags) : HalfKind :=
  { n := 2, fp := true, rd := rd
    f := fun v a b d =>
      let x (y : W32) : FVal := fsrc v.w.fmode false false y
      fres v.w.fmode (f (rmOf v.w.fmode 0) (x a) (x b) (x d)) }

/-- A half-operation on packed values (R183). -/
def packHalf (t : Fmt) (f : Fmt → Rm → FVal → FVal → FVal × Flags) : HalfKind :=
  { n := 2, fp := false, rd := false
    f := fun v a b _ => packHalves t fun i =>
      f t (rmOf v.w.fmode 0) (halfOf t false false a i) (halfOf t false false b i) }

/-- The half-operation of a HOP code, none where it is reserved (Table 7.5); `nop` reads and writes nothing. -/
def halfKind (hop : Nat) : Option HalfKind :=
  match hop with
  | 0 => some { n := 0, fp := false, rd := false, f := fun _ _ _ d => (d, 0) }
  | 1 => some (intHalf true fun a b => a + b)
  | 2 => some (intHalf true fun a b => a - b)
  | 3 => some (intHalf true fun a b => a * b)
  | 4 => some (intHalf true fun a b => min a b)
  | 5 => some (intHalf true fun a b => max a b)
  | 6 => some (intHalf false fun a b => min a b)
  | 7 => some (intHalf false fun a b => max a b)
  | 8 => some (bitHalf fun a b => a &&& b)
  | 9 => some (bitHalf fun a b => a ||| b)
  | 10 => some (bitHalf fun a b => a ^^^ b)
  | 11 => some (bitHalf fun a b => shlBits a b.toNat)
  | 12 => some (bitHalf fun a b => shrBits a b.toNat)
  | 13 => some (bitHalf fun a b => sarBits a b.toNat)
  | 14 => some { n := 1, fp := false, rd := false, f := fun _ a _ _ => (a, 0) }
  | 16 => some (fpHalf false fun m a b _ => addF fp32 m a b)
  | 17 => some { n := 2, fp := true, rd := false
                 f := fun v a b _ => fres v.w.fmode (addF fp32 (rmOf v.w.fmode 0) (fsrc v.w.fmode false false a)
                   (fsrc v.w.fmode true false b)) }
  | 18 => some (fpHalf false fun m a b _ => prodF fp32 m a b)
  | 19 => some (fpHalf true fun m a b d => fmaF fp32 m a b d)
  | 20 => some (fpHalf false fun _ a b _ => minF a b)
  | 21 => some (fpHalf false fun _ a b _ => maxF a b)
  | 24 => some (packHalf fp16 fun t m a b => addF t m a b)
  | 25 => some (packHalf fp16 fun t m a b => prodF t m a b)
  | 26 => some (packHalf bf16 fun t m a b => addF t m a b)
  | 27 => some (packHalf bf16 fun t m a b => prodF t m a b)
  | _ => none

/-- The operand fields that a half reads. -/
def halfSources (h : HalfOp) : List Operand :=
  match halfKind h.hop.toNat with
  | some k => [h.a, h.b].take k.n ++ (if k.rd then [.v h.d.toNat] else [])
  | none => []

/-- The vector registers that a half reads. -/
def halfVectors (h : HalfOp) : List Nat := (halfSources h).filterMap fun op => match op with | .v n => some n | _ => none

/-- Whether a half writes a register: every half but `nop`. -/
def halfWrites (h : HalfOp) : Bool := decide (h.hop ≠ 0)

/-- An operand code that a PAIR word may not name (R152). -/
def pairBadCode : Operand → Bool
  | .q _ => true
  | .reserved _ => true
  | _ => false

/-- The checks of a PAIR word (R152, R153, Tables 18.4 and 18.6). -/
def pairChecks (w : WordPair) : List Check :=
  let hs := [w.h1, w.h2]
  let vs := listNub (fun a b => decide (a = b)) (hs.flatMap halfVectors)
  let c15 (bad : Bool) (info : Nat) : Check := { bad := bad, cause := 0x15, info := info }
  [{ bad := hs.any fun h => (halfKind h.hop.toNat).isNone, cause := 0x12, info := 1 },
   c14 (decide (w.h1.hop = 14) && !isUnused w.h1.b) 42, c14 (decide (w.h2.hop = 14) && !isUnused w.h2.b) 10,
   c15 (decide (w.h1.d.toNat % 4 = w.h2.d.toNat % 4)) 1,
   c15 (decide (3 < vs.length)) 2,
   c15 (hs.any fun h => pairBadCode h.a || pairBadCode h.b) 3]

/-- The results of a half in its executing lanes: its writes and flags. -/
def halfResult (v : View) (h : HalfOp) : List (RegLoc × W64) × Flags :=
  match halfKind h.hop.toNat with
  | none => ([], 0)
  | some k =>
    if halfWrites h then
      let ls := lanesOf v.width (v.active &&& predMask v.w h.g.toNat)
      let x (op : Operand) (l : Nat) : W32 := if k.fp then srcFp v [] op l else src v [] op l
      let r (l : Nat) : W32 × Flags := k.f v (x h.a l) (x h.b l) (vget v.d v.core v.w l h.d.toNat)
      (vWrites v h.d.toNat ls fun l => (r l).1, orFlags (ls.map fun l => (r l).2))
    else ([], 0)

/-- PAIR (R151 to R153). -/
def jobPair (w : WordPair) : Job :=
  { code := w.toBits, g := { neg := false, p := 7 }, lanes := .halves w.h1.g w.h2.g
    refs := refsOf (halfSources w.h1 ++ halfSources w.h2) ++
      (([w.h1, w.h2].filter halfWrites).map fun h => RegRef.v h.d.toNat)
    legal := fun _ => pairChecks w
    act := fun v _ =>
      let r1 := halfResult v w.h1
      let r2 := halfResult v w.h2
      .done (putWrites v (v.put v.d (addFlags (r1.2 ||| r2.2))) (r1.1 ++ r2.1)) .onward }
/-- PAIR (R151): its step. -/
def execPair (w : WordPair) (s : State) : Out State := runJob (jobPair w) s

end Sys2Proof.Machine
end

