-- ==== Sys2Proof/Machine/Queues.lean ====
section
/-! DEFINITION. Access-processor queues (R97, R239 to R242) and the completion of status queries (R149). -/

namespace Sys2Proof.Machine

/-- The queue of a queue word (R239). -/
def qNum (w : WordE) : Nat := w.sub.toNat % 4

/-- The space of a stream: scratchpad where set (R239). -/
def qSpad (w : WordE) : Bool := w.sub.getLsbD 2

/-- The checks of QGATH and QSCAT (R239, R240). -/
def qChecks (w : WordE) : List Check :=
  [sregCheck w.x 47, sregCheck w.y 39, c13 (!isV w.z) 31, sregCheck w.w 23, eSco w, eMod w,
   c14 (decide (8 ≤ w.sub.toNat)) 10] ++ tokChecks w false

/-- The queue as its new stream finds it: cleared unless it is the wave's own (R239). -/
def ownQueue (v : View) (j : Nat) : ApQueue :=
  let q := apqOf v.d v.core j
  if q.slot = some v.slot then q else { blankApQueue with slot := some v.slot }

/-- Whether another wave holds a queue (R239). -/
def queueTaken (v : View) (j : Nat) : Bool :=
  let q := apqOf v.d v.core j
  q.slot.isSome && decide (q.slot ≠ some v.slot)

/-- The lane offsets that a stream reads at issue (R239). -/
def laneOffsets (v : View) (op : Operand) : List W32 := (List.range v.width).map fun l => src v [] op l

/-- QGATH (R239). -/
def jobQgath (w : WordE) : Job :=
  eJob 0x28 w [w.x, w.y, w.z, w.w] (fun _ => qChecks w) fun v _ =>
    let j := qNum w
    if queueTaken v j then .hold v.d
    else
      let q := ownQueue v j
      .done (modApq v.d v.core j fun _ =>
        { q with gbnd := true, gsp := qSpad w, gbase := src64 v w.x, gstride := src64 v w.w,
                 gcount := field (src64 v w.y) 0 32, gnext := 0, goffs := laneOffsets v w.z, gmask := v.active,
                 entries := [] }) .onward
/-- QGATH (R239): its step. -/
def execQgath (w : WordE) (s : State) : Out State := runJob (jobQgath w) s

/-- QSCAT (R240). -/
def jobQscat (w : WordE) : Job :=
  eJob 0x29 w [w.x, w.y, w.z, w.w] (fun _ => qChecks w) fun v _ =>
    let j := qNum w
    if queueTaken v j then .hold v.d
    else
      let q := ownQueue v j
      .done (modApq v.d v.core j fun _ =>
        { q with sbnd := true, ssp := qSpad w, sovf := false, sqbase := src64 v w.x, sqstride := src64 v w.w,
                 scount := field (src64 v w.y) 0 32, snext := 0, soffs := laneOffsets v w.z, smask := v.active })
        .onward
/-- QSCAT (R240): its step. -/
def execQscat (w : WordE) (s : State) : Out State := runJob (jobQscat w) s

/-- QFLUSH (R241): pushed entries have been issued when pushed, so unbinding is left; a token waits for the wave's
stores. -/
def jobQflush (w : WordE) : Job :=
  eJob 0x2A w [] (fun _ => [unusedField w.x 47, unusedField w.y 39, unusedField w.z 31, unusedField w.w 23,
      eSco w, eMod w, c14 (decide (4 ≤ w.sub.toNat)) 10] ++ tokChecks w true) fun v _ =>
    let j := qNum w
    let d := if (apqOf v.d v.core j).slot = some v.slot then
        modCore v.d v.core fun k => { k with queues := tblErase k.queues j }
      else v.d
    .done (v.put d fun x =>
      if w.te && decide (storesOut x ≠ 0) then eStart w (pushOp .flush none [] (some w.tok.toNat) 0 [] x) else x)
      .onward
/-- QFLUSH (R241): its step. -/
def execQflush (w : WordE) (s : State) : Out State := runJob (jobQflush w) s

/-- The status of a queue for a wave (Table 9.3). -/
def queueStatus (slot : Nat) (q : ApQueue) : W64 :=
  if q.slot = some slot then
    let rem := if q.gbnd then q.gcount - q.gnext else 0
    BitVec.ofNat 64 (rem * 2 ^ 32 + nat1 q.sovf * 2 ^ 19 + nat1 (q.gbnd && decide (rem = 0)) * 2 ^ 18 +
      nat1 q.sbnd * 2 ^ 17 + nat1 q.gbnd * 2 ^ 16 + min q.entries.length 128)
  else 0

/-- QSTAT (R242). -/
def jobQstat (w : WordE) : Job :=
  eJob 0x2B w [w.x] (fun _ => [sregCheck w.x 47, unusedField w.y 39, unusedField w.z 31, unusedField w.w 23,
      eSco w, c14 (decide (4 ≤ w.sub.toNat)) 10] ++ tokChecks w false) fun v _ =>
    .done (v.put v.d (pushOp .query (windowOf (some w.hd.md))
      [(.sreg (regNo w.x), queueStatus v.slot (apqOf v.d v.core (qNum w)))] none 0 [])) .onward
/-- QSTAT (R242): its step. -/
def execQstat (w : WordE) (s : State) : Out State := runJob (jobQstat w) s

/-- QUERY_COMPLETE (R149): a status query or a texture query writes its register. -/
def execQueryComplete (core slot op : Nat) (s : State) : Out State :=
  runDevice (onHall (hallOfCore core) fun d => completeKind d core slot .query op) s

/-- The entries that a queue holds at most: 8 KiB of entries of W × 4 bytes (R97). -/
def queueCap (width : Nat) : Nat := 8192 / (4 * max width 1)

/-- The bytes of an entry by lane as the lane values of the wave. -/
def entryOf (v : View) (xs : List (Nat × List Byte)) : GatherEntry :=
  .data ((List.range v.width).map fun l => BitVec.ofNat 32 (leNat (bytesOf xs l)))

/-- A gathered entry at the end of a queue. -/
def entryPut (d : Device) (core j : Nat) (e : GatherEntry) : Device :=
  modApq d core j fun q => { q with entries := q.entries ++ [e], gnext := q.gnext + 1 }

/-- A fault of a gather, as the pop of its entry reports it (R398). -/
def entryFault (t : Trap) : GatherEntry := .bad { page := t.addr.setWidth 48, cause := t.cause, info := t.info } t.mask

/-- QUEUE_GATHER_FETCH (R97, R239): the next entry of a gather stream, read as a plain load of the bound wave. -/
def gatherFetch (d0 : Device) (core j : Nat) : Device :=
  let d := modApq d0 core j dropBad
  let q := apqOf d core j
  match q.slot with
  | none => d0
  | some slot =>
    match viewAt d core slot with
    | none => d0
    | some v =>
      if !q.gbnd || decide (q.gcount ≤ q.gnext) || decide (queueCap v.width ≤ q.entries.length) then d0
      else
        let as := streamAddrs q.gbase q.gstride q.goffs q.gmask v.width q.gnext
        if q.gsp then
          let cs := as.map fun a => (a.1, core, a.2 % 0x40000, 4)
          match checkSpad v false false true none cs with
          | some t => entryPut d core j (entryFault t)
          | none => entryPut d core j (entryOf v (cs.map fun c => (c.1, spadRead d core c.2.2.1 4)))
        else
          match checkLanes v { rd := true, w := false, x := false } .plain none (as.map fun a => (a.1, a.2, 4)) with
          | .wait d1 => d1
          | .trap t => entryPut d core j (entryFault t)
          | .ok ls =>
            let x := loadLanes v .plain 0 false ls d
            entryPut x.2 core j (entryOf v x.1)

/-- QUEUE_GATHER_FETCH (R97). -/
def execQueueGatherFetch (core queue : Nat) (s : State) : Out State :=
  runDevice (onHall (hallOfCore core) fun d => gatherFetch d core queue) s

end Sys2Proof.Machine
end

