-- ==== Sys2Proof/Machine/RvDecode.lean ====
section
/-! DEFINITION. The instructions of the application cores (R16, R345): RV64GC, read from 32-bit and 16-bit words. The spec
names the standard and does not repeat it; the encodings are the standard's (PRESUMED, log 101). -/

namespace Sys2Proof.Machine

/-- An integer operation of RV64IM. -/
inductive RvAlu where
  | add | sub | sll | slt | sltu | xor | srl | sra | or | and
  | mul | mulh | mulhsu | mulhu | div | divu | rem | remu
  deriving DecidableEq, Repr

/-- The condition of a branch. -/
inductive RvCond where
  | eq | ne | lt | ge | ltu | geu
  deriving DecidableEq, Repr

/-- The operation of an atomic memory access. -/
inductive RvAmo where
  | swap | add | xor | and | or | min | max | minu | maxu
  deriving DecidableEq, Repr

/-- What a CSR instruction does with its source. -/
inductive RvCsrOp where
  | write | set | clear
  deriving DecidableEq, Repr

/-- The source of a CSR instruction: a register, or a 5-bit number. -/
inductive RvCsrSrc where
  | reg (n : Nat)
  | imm (n : Nat)
  deriving DecidableEq, Repr

/-- A floating-point operation of two operands that is rounded. -/
inductive RvFBin where
  | add | sub | mul | div
  deriving DecidableEq, Repr

/-- How a sign is injected. -/
inductive RvSign where
  | copy | neg | xor
  deriving DecidableEq, Repr

/-- A floating-point comparison. -/
inductive RvFCmp where
  | le | lt | eq
  deriving DecidableEq, Repr

/-- An integer type of a conversion: its width and whether it is signed. -/
structure RvInt where
  wide : Bool
  signed : Bool
  deriving DecidableEq, Repr

/-- An instruction of RV64GC. Registers are numbers below 32; `w` marks a 32-bit form, `dbl` a double-precision one. -/
inductive RvOp where
  | lui (rd : Nat) (imm : W64)
  | auipc (rd : Nat) (imm : W64)
  | jal (rd : Nat) (off : W64)
  | jalr (rd rs1 : Nat) (off : W64)
  | branch (c : RvCond) (rs1 rs2 : Nat) (off : W64)
  | load (size : Nat) (sign : Bool) (rd rs1 : Nat) (off : W64)
  | store (size rs1 rs2 : Nat) (off : W64)
  | alu (f : RvAlu) (w : Bool) (rd rs1 rs2 : Nat)
  | aluImm (f : RvAlu) (w : Bool) (rd rs1 : Nat) (imm : W64)
  | fence
  | fenceI
  | ecall
  | ebreak
  | mret
  | sret
  | wfi
  | sfenceVma
  | csr (f : RvCsrOp) (rd : Nat) (src : RvCsrSrc) (addr : Nat)
  | lr (size rd rs1 : Nat)
  | sc (size rd rs1 rs2 : Nat)
  | amo (f : RvAmo) (size rd rs1 rs2 : Nat)
  | fload (dbl : Bool) (rd rs1 : Nat) (off : W64)
  | fstore (dbl : Bool) (rs1 rs2 : Nat) (off : W64)
  | fma (dbl negProd negAdd : Bool) (rd rs1 rs2 rs3 rm : Nat)
  | fbin (f : RvFBin) (dbl : Bool) (rd rs1 rs2 rm : Nat)
  | fsqrt (dbl : Bool) (rd rs1 rm : Nat)
  | fsgn (f : RvSign) (dbl : Bool) (rd rs1 rs2 : Nat)
  | fminmax (max dbl : Bool) (rd rs1 rs2 : Nat)
  | fcmp (f : RvFCmp) (dbl : Bool) (rd rs1 rs2 : Nat)
  | fclass (dbl : Bool) (rd rs1 : Nat)
  | fcvtFmt (toDbl : Bool) (rd rs1 rm : Nat)
  | fcvtToInt (dbl : Bool) (t : RvInt) (rd rs1 rm : Nat)
  | fcvtFromInt (dbl : Bool) (t : RvInt) (rd rs1 rm : Nat)
  | fmvToInt (dbl : Bool) (rd rs1 : Nat)
  | fmvFromInt (dbl : Bool) (rd rs1 : Nat)
  deriving DecidableEq, Repr

/-- Bits [lo + n - 1 : lo] of an instruction. -/
def rvBits (w : Nat) (lo n : Nat) : Nat := w / 2 ^ lo % 2 ^ n

/-- An `n`-bit immediate extended by its sign. -/
def rvImm (n x : Nat) : W64 := BitVec.ofInt 64 (signed n x)

/-- The immediate of an I-type word. -/
def rvImmI (w : Nat) : W64 := rvImm 12 (rvBits w 20 12)

/-- The immediate of an S-type word. -/
def rvImmS (w : Nat) : W64 := rvImm 12 (rvBits w 25 7 * 32 + rvBits w 7 5)

/-- The offset of a B-type word. -/
def rvImmB (w : Nat) : W64 :=
  rvImm 13 (rvBits w 31 1 * 4096 + rvBits w 7 1 * 2048 + rvBits w 25 6 * 32 + rvBits w 8 4 * 2)

/-- The immediate of a U-type word. -/
def rvImmU (w : Nat) : W64 := rvImm 32 (rvBits w 12 20 * 4096)

/-- The offset of a J-type word. -/
def rvImmJ (w : Nat) : W64 :=
  rvImm 21 (rvBits w 31 1 * 2 ^ 20 + rvBits w 12 8 * 4096 + rvBits w 20 1 * 2048 + rvBits w 21 10 * 2)

/-- The branch condition of a funct3. -/
def rvCondOf : Nat → Option RvCond
  | 0 => some .eq
  | 1 => some .ne
  | 4 => some .lt
  | 5 => some .ge
  | 6 => some .ltu
  | 7 => some .geu
  | _ => none

/-- The size and sign of a load's funct3. -/
def rvLoadOf : Nat → Option (Nat × Bool)
  | 0 => some (1, true)
  | 1 => some (2, true)
  | 2 => some (4, true)
  | 3 => some (8, true)
  | 4 => some (1, false)
  | 5 => some (2, false)
  | 6 => some (4, false)
  | _ => none

/-- The operation of an OP or OP-32 word, by funct7 and funct3. -/
def rvAluOf (w : Bool) (f7 f3 : Nat) : Option RvAlu :=
  match f7, f3 with
  | 0, 0 => some .add
  | 0, 1 => some .sll
  | 0, 2 => if w then none else some .slt
  | 0, 3 => if w then none else some .sltu
  | 0, 4 => if w then none else some .xor
  | 0, 5 => some .srl
  | 0, 6 => if w then none else some .or
  | 0, 7 => if w then none else some .and
  | 32, 0 => some .sub
  | 32, 5 => some .sra
  | 1, 0 => some .mul
  | 1, 1 => if w then none else some .mulh
  | 1, 2 => if w then none else some .mulhsu
  | 1, 3 => if w then none else some .mulhu
  | 1, 4 => some .div
  | 1, 5 => some .divu
  | 1, 6 => some .rem
  | 1, 7 => some .remu
  | _, _ => none

/-- An OP-IMM or OP-IMM-32 word. -/
def rvOpImm (w : Nat) (narrow : Bool) : Option RvOp :=
  let rd := rvBits w 7 5
  let rs1 := rvBits w 15 5
  let shBits := if narrow then 5 else 6
  let sh : W64 := BitVec.ofNat 64 (rvBits w 20 shBits)
  let top := rvBits w (20 + shBits) (12 - shBits)
  let sra := if narrow then 32 else 16
  match rvBits w 12 3 with
  | 0 => some (.aluImm .add narrow rd rs1 (rvImmI w))
  | 1 => if top = 0 then some (.aluImm .sll narrow rd rs1 sh) else none
  | 2 => if narrow then none else some (.aluImm .slt false rd rs1 (rvImmI w))
  | 3 => if narrow then none else some (.aluImm .sltu false rd rs1 (rvImmI w))
  | 4 => if narrow then none else some (.aluImm .xor false rd rs1 (rvImmI w))
  | 5 =>
    if top = 0 then some (.aluImm .srl narrow rd rs1 sh)
    else if top = sra then some (.aluImm .sra narrow rd rs1 sh)
    else none
  | 6 => if narrow then none else some (.aluImm .or false rd rs1 (rvImmI w))
  | _ => if narrow then none else some (.aluImm .and false rd rs1 (rvImmI w))

/-- A SYSTEM word. -/
def rvSystem (w : Nat) : Option RvOp :=
  let rd := rvBits w 7 5
  let rs1 := rvBits w 15 5
  let addr := rvBits w 20 12
  match rvBits w 12 3 with
  | 0 =>
    if w = 0x00000073 then some .ecall
    else if w = 0x00100073 then some .ebreak
    else if w = 0x10200073 then some .sret
    else if w = 0x30200073 then some .mret
    else if w = 0x10500073 then some .wfi
    else if rvBits w 25 7 = 9 ∧ rd = 0 then some .sfenceVma
    else none
  | 1 => some (.csr .write rd (.reg rs1) addr)
  | 2 => some (.csr .set rd (.reg rs1) addr)
  | 3 => some (.csr .clear rd (.reg rs1) addr)
  | 5 => some (.csr .write rd (.imm rs1) addr)
  | 6 => some (.csr .set rd (.imm rs1) addr)
  | 7 => some (.csr .clear rd (.imm rs1) addr)
  | _ => none

/-- An AMO word. -/
def rvAmoOp (w : Nat) : Option RvOp :=
  let rd := rvBits w 7 5
  let rs1 := rvBits w 15 5
  let rs2 := rvBits w 20 5
  let go (size : Nat) : Option RvOp :=
    match rvBits w 27 5 with
    | 0 => some (.amo .add size rd rs1 rs2)
    | 1 => some (.amo .swap size rd rs1 rs2)
    | 2 => if rs2 = 0 then some (.lr size rd rs1) else none
    | 3 => some (.sc size rd rs1 rs2)
    | 4 => some (.amo .xor size rd rs1 rs2)
    | 8 => some (.amo .or size rd rs1 rs2)
    | 12 => some (.amo .and size rd rs1 rs2)
    | 16 => some (.amo .min size rd rs1 rs2)
    | 20 => some (.amo .max size rd rs1 rs2)
    | 24 => some (.amo .minu size rd rs1 rs2)
    | 28 => some (.amo .maxu size rd rs1 rs2)
    | _ => none
  match rvBits w 12 3 with
  | 2 => go 4
  | 3 => go 8
  | _ => none

/-- The integer type that the rs2 field of a conversion names. -/
def rvIntOf (n : Nat) : RvInt := { wide := decide (2 ≤ n), signed := decide (n % 2 = 0) }

/-- An OP-FP word of a precision: funct7 [6:2] and the fields of the format. -/
def rvOpFp (w : Nat) (dbl : Bool) : Option RvOp :=
  let rd := rvBits w 7 5
  let rs1 := rvBits w 15 5
  let rs2 := rvBits w 20 5
  let rm := rvBits w 12 3
  match rvBits w 27 5 with
  | 0 => some (.fbin .add dbl rd rs1 rs2 rm)
  | 1 => some (.fbin .sub dbl rd rs1 rs2 rm)
  | 2 => some (.fbin .mul dbl rd rs1 rs2 rm)
  | 3 => some (.fbin .div dbl rd rs1 rs2 rm)
  | 11 => if rs2 = 0 then some (.fsqrt dbl rd rs1 rm) else none
  | 4 =>
    match rm with
    | 0 => some (.fsgn .copy dbl rd rs1 rs2)
    | 1 => some (.fsgn .neg dbl rd rs1 rs2)
    | 2 => some (.fsgn .xor dbl rd rs1 rs2)
    | _ => none
  | 5 => if rm ≤ 1 then some (.fminmax (decide (rm = 1)) dbl rd rs1 rs2) else none
  | 8 => if rs2 = nat1 (!dbl) then some (.fcvtFmt dbl rd rs1 rm) else none
  | 20 =>
    match rm with
    | 0 => some (.fcmp .le dbl rd rs1 rs2)
    | 1 => some (.fcmp .lt dbl rd rs1 rs2)
    | 2 => some (.fcmp .eq dbl rd rs1 rs2)
    | _ => none
  | 24 => if rs2 < 4 then some (.fcvtToInt dbl (rvIntOf rs2) rd rs1 rm) else none
  | 26 => if rs2 < 4 then some (.fcvtFromInt dbl (rvIntOf rs2) rd rs1 rm) else none
  | 28 =>
    if rs2 ≠ 0 then none
    else match rm with | 0 => some (.fmvToInt dbl rd rs1) | 1 => some (.fclass dbl rd rs1) | _ => none
  | 30 => if rs2 = 0 ∧ rm = 0 then some (.fmvFromInt dbl rd rs1) else none
  | _ => none

/-- A fused multiply-add word. -/
def rvFma (w : Nat) (negProd negAdd : Bool) : Option RvOp :=
  if rvBits w 25 2 ≤ 1 then
    some (.fma (decide (rvBits w 25 2 = 1)) negProd negAdd (rvBits w 7 5) (rvBits w 15 5) (rvBits w 20 5) (rvBits w 27 5)
      (rvBits w 12 3))
  else none

/-- The instruction of a 32-bit word. -/
def rvDecode32 (w : Nat) : Option RvOp :=
  let rd := rvBits w 7 5
  let rs1 := rvBits w 15 5
  let rs2 := rvBits w 20 5
  let f3 := rvBits w 12 3
  let f7 := rvBits w 25 7
  match rvBits w 0 7 with
  | 0x03 => (rvLoadOf f3).map fun k => .load k.1 k.2 rd rs1 (rvImmI w)
  | 0x07 => if f3 = 2 ∨ f3 = 3 then some (.fload (decide (f3 = 3)) rd rs1 (rvImmI w)) else none
  | 0x0F => if f3 = 0 then some .fence else if f3 = 1 then some .fenceI else none
  | 0x13 => rvOpImm w false
  | 0x17 => some (.auipc rd (rvImmU w))
  | 0x1B => rvOpImm w true
  | 0x23 => if f3 < 4 then some (.store (2 ^ f3) rs1 rs2 (rvImmS w)) else none
  | 0x27 => if f3 = 2 ∨ f3 = 3 then some (.fstore (decide (f3 = 3)) rs1 rs2 (rvImmS w)) else none
  | 0x2F => rvAmoOp w
  | 0x33 => (rvAluOf false f7 f3).map fun f => .alu f false rd rs1 rs2
  | 0x37 => some (.lui rd (rvImmU w))
  | 0x3B => (rvAluOf true f7 f3).map fun f => .alu f true rd rs1 rs2
  | 0x43 => rvFma w false false
  | 0x47 => rvFma w false true
  | 0x4B => rvFma w true false
  | 0x4F => rvFma w true true
  | 0x53 => if rvBits w 25 2 ≤ 1 then rvOpFp w (decide (rvBits w 25 2 = 1)) else none
  | 0x63 => (rvCondOf f3).map fun c => .branch c rs1 rs2 (rvImmB w)
  | 0x67 => if f3 = 0 then some (.jalr rd rs1 (rvImmI w)) else none
  | 0x6F => some (.jal rd (rvImmJ w))
  | 0x73 => rvSystem w
  | _ => none

/-! ## Compressed words -/

/-- A register that a 3-bit field names. -/
def rvcReg (h lo : Nat) : Nat := 8 + rvBits h lo 3

/-- The 6-bit immediate of CI words. -/
def rvcImm6 (h : Nat) : W64 := rvImm 6 (rvBits h 12 1 * 32 + rvBits h 2 5)

/-- The shift amount of CI words. -/
def rvcShift (h : Nat) : W64 := BitVec.ofNat 64 (rvBits h 12 1 * 32 + rvBits h 2 5)

/-- The offset of a word in CL and CS words. -/
def rvcOffW (h : Nat) : W64 := BitVec.ofNat 64 (rvBits h 10 3 * 8 + rvBits h 6 1 * 4 + rvBits h 5 1 * 64)

/-- The offset of a doubleword in CL and CS words. -/
def rvcOffD (h : Nat) : W64 := BitVec.ofNat 64 (rvBits h 10 3 * 8 + rvBits h 5 2 * 64)

/-- The offset of a doubleword load from the stack pointer. -/
def rvcSpD (h : Nat) : W64 := BitVec.ofNat 64 (rvBits h 12 1 * 32 + rvBits h 5 2 * 8 + rvBits h 2 3 * 64)

/-- The offset of a word load from the stack pointer. -/
def rvcSpW (h : Nat) : W64 := BitVec.ofNat 64 (rvBits h 12 1 * 32 + rvBits h 4 3 * 4 + rvBits h 2 2 * 64)

/-- The offset of a doubleword store from the stack pointer. -/
def rvcSpSd (h : Nat) : W64 := BitVec.ofNat 64 (rvBits h 10 3 * 8 + rvBits h 7 3 * 64)

/-- The offset of a word store from the stack pointer. -/
def rvcSpSw (h : Nat) : W64 := BitVec.ofNat 64 (rvBits h 9 4 * 4 + rvBits h 7 2 * 64)

/-- The offset of C.J. -/
def rvcJump (h : Nat) : W64 :=
  rvImm 12 (rvBits h 12 1 * 2048 + rvBits h 11 1 * 16 + rvBits h 9 2 * 256 + rvBits h 8 1 * 1024 + rvBits h 7 1 * 64 +
    rvBits h 6 1 * 128 + rvBits h 3 3 * 2 + rvBits h 2 1 * 32)

/-- The offset of C.BEQZ and C.BNEZ. -/
def rvcBranch (h : Nat) : W64 :=
  rvImm 9 (rvBits h 12 1 * 256 + rvBits h 10 2 * 8 + rvBits h 5 2 * 64 + rvBits h 3 2 * 2 + rvBits h 2 1 * 32)

/-- Words of quadrant 0. -/
def rvQuad0 (h : Nat) : Option RvOp :=
  match rvBits h 13 3 with
  | 0 =>
    let imm := rvBits h 11 2 * 16 + rvBits h 7 4 * 64 + rvBits h 6 1 * 4 + rvBits h 5 1 * 8
    if imm = 0 then none else some (.aluImm .add false (rvcReg h 2) 2 (BitVec.ofNat 64 imm))
  | 1 => some (.fload true (rvcReg h 2) (rvcReg h 7) (rvcOffD h))
  | 2 => some (.load 4 true (rvcReg h 2) (rvcReg h 7) (rvcOffW h))
  | 3 => some (.load 8 true (rvcReg h 2) (rvcReg h 7) (rvcOffD h))
  | 5 => some (.fstore true (rvcReg h 7) (rvcReg h 2) (rvcOffD h))
  | 6 => some (.store 4 (rvcReg h 7) (rvcReg h 2) (rvcOffW h))
  | 7 => some (.store 8 (rvcReg h 7) (rvcReg h 2) (rvcOffD h))
  | _ => none

/-- The register-register words of quadrant 1. -/
def rvQuad1Alu (h : Nat) : Option RvOp :=
  let rd := rvcReg h 7
  let rs2 := rvcReg h 2
  match rvBits h 12 1, rvBits h 5 2 with
  | 0, 0 => some (.alu .sub false rd rd rs2)
  | 0, 1 => some (.alu .xor false rd rd rs2)
  | 0, 2 => some (.alu .or false rd rd rs2)
  | 0, 3 => some (.alu .and false rd rd rs2)
  | 1, 0 => some (.alu .sub true rd rd rs2)
  | 1, 1 => some (.alu .add true rd rd rs2)
  | _, _ => none

/-- Words of quadrant 1. -/
def rvQuad1 (h : Nat) : Option RvOp :=
  let rd := rvBits h 7 5
  match rvBits h 13 3 with
  | 0 => some (.aluImm .add false rd rd (rvcImm6 h))
  | 1 => if rd = 0 then none else some (.aluImm .add true rd rd (rvcImm6 h))
  | 2 => some (.aluImm .add false rd 0 (rvcImm6 h))
  | 3 =>
    if rd = 2 then
      let imm := rvBits h 12 1 * 512 + rvBits h 6 1 * 16 + rvBits h 5 1 * 64 + rvBits h 3 2 * 128 + rvBits h 2 1 * 32
      if imm = 0 then none else some (.aluImm .add false 2 2 (rvImm 10 imm))
    else if rvBits h 12 1 = 0 ∧ rvBits h 2 5 = 0 then none
    else some (.lui rd (rvImm 18 (rvBits h 12 1 * 2 ^ 17 + rvBits h 2 5 * 4096)))
  | 4 =>
    match rvBits h 10 2 with
    | 0 => some (.aluImm .srl false (rvcReg h 7) (rvcReg h 7) (rvcShift h))
    | 1 => some (.aluImm .sra false (rvcReg h 7) (rvcReg h 7) (rvcShift h))
    | 2 => some (.aluImm .and false (rvcReg h 7) (rvcReg h 7) (rvcImm6 h))
    | _ => rvQuad1Alu h
  | 5 => some (.jal 0 (rvcJump h))
  | 6 => some (.branch .eq (rvcReg h 7) 0 (rvcBranch h))
  | _ => some (.branch .ne (rvcReg h 7) 0 (rvcBranch h))

/-- Words of quadrant 2. -/
def rvQuad2 (h : Nat) : Option RvOp :=
  let rd := rvBits h 7 5
  let rs2 := rvBits h 2 5
  match rvBits h 13 3 with
  | 0 => some (.aluImm .sll false rd rd (rvcShift h))
  | 1 => some (.fload true rd 2 (rvcSpD h))
  | 2 => if rd = 0 then none else some (.load 4 true rd 2 (rvcSpW h))
  | 3 => if rd = 0 then none else some (.load 8 true rd 2 (rvcSpD h))
  | 4 =>
    if rvBits h 12 1 = 0 then
      if rs2 ≠ 0 then some (.alu .add false rd 0 rs2)
      else if rd = 0 then none
      else some (.jalr 0 rd 0)
    else if rs2 ≠ 0 then some (.alu .add false rd rd rs2)
    else if rd = 0 then some .ebreak
    else some (.jalr 1 rd 0)
  | 5 => some (.fstore true 2 rs2 (rvcSpSd h))
  | 6 => some (.store 4 2 rs2 (rvcSpSw h))
  | _ => some (.store 8 2 rs2 (rvcSpSd h))

/-- The instruction of a 16-bit word. -/
def rvDecode16 (h : Nat) : Option RvOp :=
  match rvBits h 0 2 with
  | 0 => rvQuad0 h
  | 1 => rvQuad1 h
  | 2 => rvQuad2 h
  | _ => none

/-- The bytes of an instruction, by its first 16 bits. -/
def rvLength (h : Nat) : Nat := if h % 4 = 3 then 4 else 2

/-- The instruction of a word of its length. -/
def rvDecode (w : Nat) : Option RvOp := if w % 4 = 3 then rvDecode32 w else rvDecode16 w

end Sys2Proof.Machine
end

