-- ==== Sys2Proof/Machine/RvFloat.lean ====
section
/-! DEFINITION. The floating-point arithmetic of the application cores (R345): single and double precision as the RISC-V
standard has it, tininess found after rounding, one canonical NaN (PRESUMED, log 101). -/

namespace Sys2Proof.Machine

/-- Double precision. -/
def fp64 : Fmt := { ebits := 11, fbits := 52, bias := 1023, top := .ieee }

/-- The format of a precision. -/
def rvFmt (dbl : Bool) : Fmt := if dbl then fp64 else fp32

/-- A rounding mode, by its code: to nearest even, toward zero, down, up, to nearest with ties away. -/
inductive RvRm where
  | rne | rtz | rdn | rup | rmm
  deriving DecidableEq, Repr

/-- The rounding mode of a code. -/
def rvRmOf : Nat → Option RvRm
  | 0 => some .rne
  | 1 => some .rtz
  | 2 => some .rdn
  | 3 => some .rup
  | 4 => some .rmm
  | _ => none

/-- The accrued exceptions, bit for bit as fflags. -/
abbrev RvFlags := BitVec 5

/-- Inexact. -/
def rvNx : RvFlags := 1
/-- Underflow. -/
def rvUf : RvFlags := 2
/-- Overflow. -/
def rvOf : RvFlags := 4
/-- Division by zero. -/
def rvDz : RvFlags := 8
/-- Invalid operation. -/
def rvNv : RvFlags := 16

/-- A flag where a condition holds. -/
def rvFlagIf (c : Bool) (f : RvFlags) : RvFlags := if c then f else 0

/-- A magnitude rounded to an integer in a mode, given its sign. -/
def rvPick (m : RvRm) (neg : Bool) (s : Rat) : Int :=
  let q := s.floor
  let fr := s - (q : Rat)
  let half : Rat := (1 : Rat) / 2
  let up : Bool :=
    match m with
    | .rne => decide (half < fr) || (decide (fr = half) && decide (q % 2 = 1))
    | .rtz => false
    | .rdn => neg
    | .rup => !neg
    | .rmm => decide (half ≤ fr)
  if fr ≠ 0 ∧ up then q + 1 else q

/-- What overflow gives in a mode. -/
def rvBig (f : Fmt) (m : RvRm) (neg : Bool) : FVal :=
  match m with
  | .rne => .inf neg
  | .rmm => .inf neg
  | .rtz => bigF f neg
  | .rdn => if neg then .inf true else bigF f false
  | .rup => if neg then bigF f true else .inf false

/-- A rational with its sign rounded to a format in a mode. -/
def rvRound (f : Fmt) (m : RvRm) (neg : Bool) (x : Rat) : FVal × RvFlags :=
  if x = 0 then (.num neg 0, 0)
  else
    let a := ratAbs x
    let at' (u : Rat) : Rat := ((rvPick m neg (a / u) : Int) : Rat) * u
    let r := at' (quantum f a)
    let tiny := decide (at' (pow2 (ratLog2 a - f.fbits)) < minNormal f)
    if maxFinite f < r then (rvBig f m neg, rvOf ||| rvNx)
    else (.num neg (if neg then -r else r), if r = a then 0 else rvNx ||| rvFlagIf tiny rvUf)

/-- A value rounded where it is a number. -/
def rvRoundV (f : Fmt) (m : RvRm) : FVal → FVal × RvFlags
  | .num n x => rvRound f m n x
  | v => (v, 0)

/-- The flag of a signalling NaN among operands. -/
def rvSig (vs : List FVal) : RvFlags := rvFlagIf (vs.any fun v => decide (v = .nan true)) rvNv

/-- A value of the other sign. -/
def rvNeg : FVal → FVal
  | .nan s => .nan s
  | .inf n => .inf (!n)
  | .num n x => .num (!n) (-x)

/-- The exact sum of two values: zeros of both signs, and a difference that vanishes, are −0 in mode down alone. -/
def rvSum (m : RvRm) (a b : FVal) : FVal × RvFlags :=
  match a, b with
  | .nan _, _ => (.nan false, 0)
  | _, .nan _ => (.nan false, 0)
  | .inf n, .inf k => if n = k then (.inf n, 0) else (.nan false, rvNv)
  | .inf n, .num _ _ => (.inf n, 0)
  | .num _ _, .inf k => (.inf k, 0)
  | .num n x, .num k y =>
    if x + y = 0 then (.num (if n = k then n else decide (m = .rdn)) 0, 0) else (.num (decide (x + y < 0)) (x + y), 0)

/-- The exact product of two values. -/
def rvProd (a b : FVal) : FVal × RvFlags := let p := mulF a b; (p.1, rvFlagIf (decide (p.2 ≠ 0)) rvNv)

/-- a × b + c rounded once: an infinity times zero is invalid whatever c is. -/
def rvFusedF (f : Fmt) (m : RvRm) (negProd negAdd : Bool) (a b c : FVal) : FVal × RvFlags :=
  let p := rvProd a b
  let s := rvSum m (if negProd then rvNeg p.1 else p.1) (if negAdd then rvNeg c else c)
  let r := rvRoundV f m s.1
  (r.1, r.2 ||| s.2 ||| p.2 ||| rvSig [a, b, c])

/-- The exact quotient of two values where it is none of a number's, or the quotient rounded. -/
def rvQuot (f : Fmt) (m : RvRm) (a b : FVal) : FVal × RvFlags :=
  let neg := fNeg a != fNeg b
  match a, b with
  | .nan _, _ => (.nan false, 0)
  | _, .nan _ => (.nan false, 0)
  | .inf _, .inf _ => (.nan false, rvNv)
  | .inf _, .num _ _ => (.inf neg, 0)
  | .num _ _, .inf _ => (.num neg 0, 0)
  | .num _ x, .num _ y =>
    if y = 0 then (if x = 0 then (.nan false, rvNv) else (.inf neg, rvDz)) else rvRound f m neg (x / y)

/-- A sum or a product rounded once. -/
def rvOnce (f : Fmt) (m : RvRm) (e : FVal × RvFlags) : FVal × RvFlags :=
  let r := rvRoundV f m e.1
  (r.1, r.2 ||| e.2)

/-- An operation of two values, rounded. -/
def rvBinF (g : RvFBin) (f : Fmt) (m : RvRm) (a b : FVal) : FVal × RvFlags :=
  let r := match g with
    | .add => rvOnce f m (rvSum m a b)
    | .sub => rvOnce f m (rvSum m a (rvNeg b))
    | .mul => rvOnce f m (rvProd a b)
    | .div => rvQuot f m a b
  (r.1, r.2 ||| rvSig [a, b])

/-- A rational near the square root of a positive one, on the same side of every value of a format and of every midpoint
between two as the root itself: the root where it is exact. -/
def rvRootNear (f : Fmt) (x : Rat) : Rat :=
  let k := (f.fbits : Int) + 4 - ratLog2 x / 2
  let n := (x * pow2 (2 * k)).floor.toNat
  let r := isqrtFrom n (f.fbits + 8) 0
  let q : Rat := ((r : Nat) : Rat) * pow2 (-k)
  if q * q = x then q else q + pow2 (-k - 1)

/-- The square root of a value, rounded. -/
def rvSqrtF (f : Fmt) (m : RvRm) (a : FVal) : FVal × RvFlags :=
  match a with
  | .nan s => (.nan false, rvFlagIf s rvNv)
  | .inf n => if n then (.nan false, rvNv) else (.inf false, 0)
  | .num n x => if x = 0 then (.num n 0, 0) else if n then (.nan false, rvNv) else rvRound f m false (rvRootNear f x)

/-- The lesser or the greater of two values, −0 below +0; a NaN yields to a number. -/
def rvMinMax (max : Bool) (a b : FVal) : FVal × RvFlags := ((if max then maxF a b else minF a b).1, rvSig [a, b])

/-- A comparison: the ordered ones are invalid for any NaN, equality for a signalling one. -/
def rvCmpF (g : RvFCmp) (a b : FVal) : Bool × RvFlags :=
  let unordered := isNan a || isNan b
  match g with
  | .eq => (!unordered && eqF a b, rvSig [a, b])
  | .lt => (!unordered && ltF a b, rvFlagIf unordered rvNv)
  | .le => (!unordered && (ltF a b || eqF a b), rvFlagIf unordered rvNv)

/-- The class of a value, one bit of ten. -/
def rvClass (f : Fmt) : FVal → Nat
  | .inf true => 1
  | .num n x =>
    let k := if x = 0 then 3 else if ratAbs x < minNormal f then 2 else 1
    2 ^ (if n then k else 7 - k)
  | .inf false => 128
  | .nan true => 256
  | .nan false => 512

/-- A rational rounded to an integer in a mode. -/
def rvRoundInt (m : RvRm) (x : Rat) : Int :=
  let r := rvPick m (decide (x < 0)) (ratAbs x)
  if x < 0 then -r else r

/-- A value converted to an integer type, clamped; a 32-bit result stands extended by its sign. -/
def rvToInt (t : RvInt) (m : RvRm) (v : FVal) : W64 × RvFlags :=
  let n : Nat := if t.wide then 64 else 32
  let lo : Int := if t.signed then -((2 ^ (n - 1) : Nat) : Int) else 0
  let hi : Int := if t.signed then ((2 ^ (n - 1) : Nat) : Int) - 1 else ((2 ^ n : Nat) : Int) - 1
  let put (x : Int) : W64 := BitVec.ofInt 64 (signed n (x % (2 ^ n : Nat)).toNat)
  match v with
  | .nan _ => (put hi, rvNv)
  | .inf neg => (put (if neg then lo else hi), rvNv)
  | .num _ x =>
    let r := rvRoundInt m x
    if r < lo then (put lo, rvNv)
    else if hi < r then (put hi, rvNv)
    else (put r, rvFlagIf (decide ((r : Rat) ≠ x)) rvNx)

/-- The value of a register read as an integer type. -/
def rvOfInt (t : RvInt) (x : W64) : Int :=
  if t.signed then signed (if t.wide then 64 else 32) x.toNat
  else if t.wide then (x.toNat : Int) else ((x.toNat % 2 ^ 32 : Nat) : Int)

/-- The bits of an f register that hold a value of a precision: a single that is not boxed is the canonical NaN. -/
def rvUnbox (dbl : Bool) (x : W64) : Nat :=
  if dbl then x.toNat else if x.toNat / 2 ^ 32 = 2 ^ 32 - 1 then x.toNat % 2 ^ 32 else canonNan fp32

/-- Bits of a precision as an f register holds them: a single is boxed. -/
def rvBox (dbl : Bool) (n : Nat) : W64 := BitVec.ofNat 64 (if dbl then n else (2 ^ 32 - 1) * 2 ^ 32 + n % 2 ^ 32)

/-- The value of a precision that an f register holds. -/
def rvVal (dbl : Bool) (x : W64) : FVal := decodeF (rvFmt dbl) (rvUnbox dbl x)

/-- A value as an f register holds it. -/
def rvBits64 (dbl : Bool) (v : FVal) : W64 := rvBox dbl (encodeF (rvFmt dbl) v)

/-- A sign injected: the magnitude of a, the sign made of those of a and b. -/
def rvSignInject (g : RvSign) (dbl : Bool) (a b : W64) : W64 :=
  let top := if dbl then 63 else 31
  let m := rvUnbox dbl a % 2 ^ top
  let sa := rvUnbox dbl a / 2 ^ top % 2
  let sb := rvUnbox dbl b / 2 ^ top % 2
  let s := match g with | .copy => sb | .neg => 1 - sb | .xor => (sa + sb) % 2
  rvBox dbl (s * 2 ^ top + m)

end Sys2Proof.Machine
end

