-- ==== Sys2Proof/Machine/RvCore.lean ====
section
/-! DEFINITION. The application cores (R16, R77, R345): registers, control and status registers, translation, accesses to the
module-local map, interrupts, exceptions, and the effect of each RV64GC instruction (the standard's, PRESUMED, log 101). -/

namespace Sys2Proof.Machine

/-! ## Registers -/

/-- Register x`n`; x0 reads zero. -/
def rvX (k : ApcCore) (n : Nat) : W64 := if n = 0 then 0 else tblGet 0#64 k.x n

/-- Register x`n` written; a write of x0 is discarded. -/
def rvSetX (k : ApcCore) (n : Nat) (v : W64) : ApcCore := if n = 0 then k else { k with x := tblSet k.x n v }

/-- Register f`n`. -/
def rvF (k : ApcCore) (n : Nat) : W64 := tblGet 0#64 k.f n

/-- The FS field of mstatus. -/
def rvFs (k : ApcCore) : Nat := field k.csrs.mstatus 13 2

/-- The floating-point state marked dirty. -/
def rvDirty (k : ApcCore) : ApcCore := { k with csrs := { k.csrs with mstatus := k.csrs.mstatus ||| 0x6000 } }

/-- Register f`n` written. -/
def rvSetF (k : ApcCore) (n : Nat) (v : W64) : ApcCore := rvDirty { k with f := tblSet k.f n v }

/-- Accrued exceptions added to fcsr. -/
def rvAccrue (k : ApcCore) (fl : RvFlags) : ApcCore := rvDirty { k with fcsr := k.fcsr ||| fl.setWidth 8 }

/-- An exception: its cause, and what the trap value register takes. -/
structure RvTrap where
  cause : Nat
  tval : W64
  deriving DecidableEq, Repr

/-! ## Control and status registers -/

/-- The registers that a CSR address can name; `zero` reads zero and keeps nothing. -/
inductive RvCsr where
  | fflags | frm | fcsr
  | sstatus | sie | stvec | scounteren | senvcfg | sscratch | sepc | scause | stval | sip | satp
  | mstatus | misa | medeleg | mideleg | mie | mtvec | mcounteren | menvcfg | mscratch | mepc | mcause | mtval | mip
  | mcountinhibit | mcycle | minstret | cycle | instret | mhartid | zero
  deriving DecidableEq, Repr

/-- The addresses of single registers. -/
def rvCsrTable : List (Nat × RvCsr) :=
  [(0x001, .fflags), (0x002, .frm), (0x003, .fcsr), (0xC00, .cycle), (0xC02, .instret),
   (0x100, .sstatus), (0x104, .sie), (0x105, .stvec), (0x106, .scounteren), (0x10A, .senvcfg), (0x140, .sscratch),
   (0x141, .sepc), (0x142, .scause), (0x143, .stval), (0x144, .sip), (0x180, .satp)] ++
  [(0xF11, .zero), (0xF12, .zero), (0xF13, .zero), (0xF14, .mhartid), (0xF15, .zero),
   (0x300, .mstatus), (0x301, .misa), (0x302, .medeleg), (0x303, .mideleg), (0x304, .mie), (0x305, .mtvec),
   (0x306, .mcounteren), (0x30A, .menvcfg), (0x320, .mcountinhibit), (0x340, .mscratch), (0x341, .mepc), (0x342, .mcause),
   (0x343, .mtval), (0x344, .mip), (0xB00, .mcycle), (0xB02, .minstret)]

/-- The register at a CSR address: those of the table, the performance counters and their selectors (3 to 31, zero), and the
protection registers, none of which is implemented (zero). -/
def rvCsrAt (a : Nat) : Option RvCsr :=
  match tblFind rvCsrTable a with
  | some r => some r
  | none =>
    if (0xC03 ≤ a ∧ a ≤ 0xC1F) ∨ (0xB03 ≤ a ∧ a ≤ 0xB1F) ∨ (0x323 ≤ a ∧ a ≤ 0x33F) ∨ (0x3B0 ≤ a ∧ a ≤ 0x3EF) ∨
      (0x3A0 ≤ a ∧ a ≤ 0x3AF ∧ a % 2 = 0) then some .zero
    else none

/-- The bits of mstatus that can be written, and those of sstatus among them. -/
def rvMstatusMask : W64 := 0x7E79AA
/-- The bits of mstatus that sstatus shows. -/
def rvSstatusMask : W64 := 0xC6122
/-- The interrupts that can be enabled: software, timer and external, of supervisor and machine mode. -/
def rvIntMask : W64 := 0xAAA
/-- The interrupts that can be delegated. -/
def rvDelegMask : W64 := 0x222
/-- The exceptions that can be delegated. -/
def rvExcMask : W64 := 0xB3FF

/-- The state-dirty bit of a status word. -/
def rvSd (k : ApcCore) : W64 := if rvFs k = 3 then BitVec.ofNat 64 (2 ^ 63) else 0

/-- The interrupts pending: an interrupt of the APC that no core has taken stands as the machine's external one. -/
def rvPending (s : State) (k : ApcCore) : W64 := k.csrs.mip ||| (if s.dev.irqs = [] then 0 else 0x800)

/-- A register's value as core `c` reads it. -/
def rvCsrGet (s : State) (c : Nat) (k : ApcCore) (r : RvCsr) : W64 :=
  let q := k.csrs
  match r with
  | .fflags => (k.fcsr &&& 0x1F).setWidth 64
  | .frm => (k.fcsr >>> 5).setWidth 64
  | .fcsr => k.fcsr.setWidth 64
  | .sstatus => (q.mstatus &&& rvSstatusMask) ||| 0x200000000 ||| rvSd k
  | .sie => q.mie &&& q.mideleg
  | .stvec => q.stvec
  | .scounteren => q.scounteren
  | .senvcfg => q.senvcfg
  | .sscratch => q.sscratch
  | .sepc => q.sepc
  | .scause => q.scause
  | .stval => q.stval
  | .sip => rvPending s k &&& q.mideleg
  | .satp => q.satp
  | .mstatus => q.mstatus ||| 0xA00000000 ||| rvSd k
  | .misa => 0x800000000014112D
  | .medeleg => q.medeleg
  | .mideleg => q.mideleg
  | .mie => q.mie
  | .mtvec => q.mtvec
  | .mcounteren => q.mcounteren
  | .menvcfg => q.menvcfg
  | .mscratch => q.mscratch
  | .mepc => q.mepc
  | .mcause => q.mcause
  | .mtval => q.mtval
  | .mip => rvPending s k
  | .mcountinhibit => q.mcountinhibit
  | .mcycle => q.mcycle
  | .minstret => q.minstret
  | .cycle => q.mcycle
  | .instret => q.minstret
  | .mhartid => BitVec.ofNat 64 c
  | .zero => 0

/-- The bits of `x` within a mask, the others of `old`. -/
def rvMerge (mask old x : W64) : W64 := (old &&& ~~~mask) ||| (x &&& mask)

/-- A write of mstatus: a previous mode that does not exist keeps the one before. -/
def rvMstatusPut (old x : W64) : W64 :=
  rvMerge (if field x 11 2 = 2 then rvMstatusMask &&& ~~~0x1800#64 else rvMstatusMask) old x

/-- A trap vector as written: a base of four bytes, direct or vectored. -/
def rvVec (x : W64) : W64 := x &&& ~~~2#64

/-- satp as written: bare, or 39-bit translation; any other mode leaves it. -/
def rvSatpPut (old x : W64) : W64 := if field x 60 4 = 0 ∨ field x 60 4 = 8 then x else old

/-- A register written. -/
def rvCsrPut (k : ApcCore) (r : RvCsr) (x : W64) : ApcCore :=
  let q := k.csrs
  let put (q : ApcCsrs) : ApcCore := { k with csrs := q }
  match r with
  | .fflags => rvDirty { k with fcsr := (k.fcsr &&& 0xE0) ||| (x.setWidth 8 &&& 0x1F) }
  | .frm => rvDirty { k with fcsr := (k.fcsr &&& 0x1F) ||| (x.setWidth 8 <<< 5) }
  | .fcsr => rvDirty { k with fcsr := x.setWidth 8 }
  | .sstatus => put { q with mstatus := rvMerge rvSstatusMask q.mstatus x }
  | .sie => put { q with mie := rvMerge q.mideleg q.mie x }
  | .stvec => put { q with stvec := rvVec x }
  | .scounteren => put { q with scounteren := x &&& 5 }
  | .senvcfg => put { q with senvcfg := x &&& 1 }
  | .sscratch => put { q with sscratch := x }
  | .sepc => put { q with sepc := x &&& ~~~1#64 }
  | .scause => put { q with scause := x }
  | .stval => put { q with stval := x }
  | .sip => put { q with mip := rvMerge (q.mideleg &&& 2) q.mip x }
  | .satp => put { q with satp := rvSatpPut q.satp x }
  | .mstatus => put { q with mstatus := rvMstatusPut q.mstatus x }
  | .misa => k
  | .medeleg => put { q with medeleg := x &&& rvExcMask }
  | .mideleg => put { q with mideleg := x &&& rvDelegMask }
  | .mie => put { q with mie := x &&& rvIntMask }
  | .mtvec => put { q with mtvec := rvVec x }
  | .mcounteren => put { q with mcounteren := x &&& 5 }
  | .menvcfg => put { q with menvcfg := x &&& 1 }
  | .mscratch => put { q with mscratch := x }
  | .mepc => put { q with mepc := x &&& ~~~1#64 }
  | .mcause => put { q with mcause := x }
  | .mtval => put { q with mtval := x }
  | .mip => put { q with mip := x &&& rvDelegMask }
  | .mcountinhibit => put { q with mcountinhibit := x &&& 5 }
  | .mcycle => put { q with mcycle := x }
  | .minstret => put { q with minstret := x }
  | .cycle => k
  | .instret => k
  | .mhartid => k
  | .zero => k

/-- Whether a CSR address may be accessed: by its mode, read-only ones by no write, counters where the modes above enable
them, satp where mstatus does not trap it, the floating-point registers where their state is on. -/
def rvCsrOk (k : ApcCore) (a : Nat) (write : Bool) : Bool :=
  let bit (w : W64) : Bool := w.getLsbD (a % 32)
  decide (a / 256 % 4 ≤ k.priv.toNat) && !(write && decide (a / 1024 = 3)) &&
  !(decide (a / 32 = 0x60) && !(decide (k.priv = 3) || (bit k.csrs.mcounteren && (decide (k.priv = 1) || bit k.csrs.scounteren)))) &&
  !(decide (a = 0x180) && decide (k.priv = 1) && k.csrs.mstatus.getLsbD 20) &&
  !(decide (1 ≤ a ∧ a ≤ 3) && decide (rvFs k = 0))

/-! ## Traps -/

/-- Where a trap vector leads: interrupts go to their own word of a vectored table. -/
def rvVecPc (v : W64) (intr : Bool) (cause : Nat) : W64 :=
  (v &&& ~~~3#64) + (if intr && v.getLsbD 0 then BitVec.ofNat 64 (4 * cause) else 0)

/-- A bit of a word set to a value. -/
def rvBit (w : W64) (i : Nat) (b : Bool) : W64 := maskSet w i b

/-- A trap taken (an exception, or an interrupt): the mode that takes it, its status stack, its saved pc, cause and value. -/
def rvTake (k : ApcCore) (intr : Bool) (cause : Nat) (tval : W64) : ApcCore :=
  let q := k.csrs
  let word : W64 := BitVec.ofNat 64 (nat1 intr * 2 ^ 63 + cause)
  if k.priv ≠ 3 ∧ (if intr then q.mideleg else q.medeleg).getLsbD cause then
    let st := rvBit (rvBit (rvBit q.mstatus 8 (decide (k.priv = 1))) 5 (q.mstatus.getLsbD 1)) 1 false
    { k with priv := 1, pc := rvVecPc q.stvec intr cause
             csrs := { q with mstatus := st, sepc := k.pc, scause := word, stval := tval } }
  else
    let st := rvBit (rvBit (rvMerge 0x1800 q.mstatus (BitVec.ofNat 64 (k.priv.toNat * 2048))) 7 (q.mstatus.getLsbD 3)) 3 false
    { k with priv := 3, pc := rvVecPc q.mtvec intr cause
             csrs := { q with mstatus := st, mepc := k.pc, mcause := word, mtval := tval } }

/-- The interrupt that a core takes next: those for machine mode first, then those delegated, by their order. -/
def rvInterrupt (s : State) (k : ApcCore) : Option Nat :=
  let q := k.csrs
  let on := rvPending s k &&& q.mie
  let mOn := decide (k.priv ≠ 3) || q.mstatus.getLsbD 3
  let sOn := decide (k.priv = 0) || (decide (k.priv = 1) && q.mstatus.getLsbD 1)
  let order := [11, 3, 7, 9, 1, 5]
  match order.find? fun i => mOn && on.getLsbD i && !q.mideleg.getLsbD i with
  | some i => some i
  | none => order.find? fun i => sOn && on.getLsbD i && q.mideleg.getLsbD i

/-- MRET: the mode and the interrupt enable that the last trap to machine mode saved. -/
def rvMret (k : ApcCore) : ApcCore :=
  let q := k.csrs
  let back : BitVec 2 := q.mstatus.extractLsb' 11 2
  let st := rvBit (rvBit (q.mstatus &&& ~~~0x1800#64) 3 (q.mstatus.getLsbD 7)) 7 true
  { k with priv := back, pc := q.mepc, csrs := { q with mstatus := if back = 3 then st else rvBit st 17 false } }

/-- SRET: the mode and the interrupt enable that the last trap to supervisor mode saved. -/
def rvSret (k : ApcCore) : ApcCore :=
  let q := k.csrs
  let st := rvBit (rvBit (rvBit q.mstatus 1 (q.mstatus.getLsbD 5)) 5 true) 8 false
  { k with priv := (if q.mstatus.getLsbD 8 then 1 else 0), pc := q.sepc, csrs := { q with mstatus := rvBit st 17 false } }

/-! ## Memory -/

/-- What an access is for. -/
inductive RvAccess where
  | fetch | load | store
  deriving DecidableEq, Repr

/-- The access fault of an access. -/
def RvAccess.accessFault : RvAccess → Nat
  | .fetch => 1 | .load => 5 | .store => 7

/-- The page fault of an access. -/
def RvAccess.pageFault : RvAccess → Nat
  | .fetch => 12 | .load => 13 | .store => 15

/-- The access that a core makes to its module's map: an address of another module is none (R345). -/
def rvAccessOf (s : State) (c pa size : Nat) (wdata : Option W64) : Option ApcAccess :=
  let a : ApcAccess := { apc := c, addr := localOf pa, size := size, wdata := wdata }
  if pa < 2 ^ 52 ∧ !isRemote s.dev pa ∧ windowLegal a then some a else none

/-- Whether an address is of memory, which instructions, page tables and atomic accesses use. -/
def rvMain (pa : Nat) : Bool := decide (regionOf (localOf pa) = .mem) || decide (regionOf (localOf pa) = .safe)

/-- A value read at a physical address. -/
def rvRead (s : State) (c pa size : Nat) : Option W64 := (rvAccessOf s c pa size none).map fun a => windowRead a s

/-- A value written at a physical address. -/
def rvWrite (s : State) (c pa size : Nat) (x : W64) : Option State :=
  (rvAccessOf s c pa size (some x)).map fun a => windowStore a x s

/-- A value read in memory. -/
def rvReadMain (s : State) (c pa size : Nat) : Option W64 := if rvMain pa then rvRead s c pa size else none

/-- Whether a leaf entry admits an access of a mode. -/
def rvPteOk (k : ApcCore) (priv : BitVec 2) (acc : RvAccess) (e : W64) : Bool :=
  let user := e.getLsbD 4
  let right := match acc with
    | .fetch => e.getLsbD 3
    | .load => e.getLsbD 1 || (k.csrs.mstatus.getLsbD 19 && e.getLsbD 3)
    | .store => e.getLsbD 2
  let mode := if priv = 0 then user else !user || (decide (acc ≠ .fetch) && k.csrs.mstatus.getLsbD 18)
  right && mode && e.getLsbD 6 && (decide (acc ≠ .store) || e.getLsbD 7)

/-- The walk of a 39-bit address from a level down, the table at `base`: the physical address, or the cause. -/
def rvWalk (s : State) (c : Nat) (k : ApcCore) (priv : BitVec 2) (acc : RvAccess) (va : W64) : Nat → Nat → Except Nat Nat
  | 0, _ => .error acc.pageFault
  | l + 1, base =>
    match rvReadMain s c (base + field va (12 + 9 * l) 9 * 8) 8 with
    | none => .error acc.accessFault
    | some e =>
      let ppn := field e 10 44
      if !e.getLsbD 0 || (!e.getLsbD 1 && e.getLsbD 2) || decide (field e 54 10 ≠ 0) then .error acc.pageFault
      else if e.getLsbD 1 || e.getLsbD 3 then
        if rvPteOk k priv acc e && decide (ppn % 2 ^ (9 * l) = 0) then
          .ok (ppn * 4096 + field va 0 (12 + 9 * l))
        else .error acc.pageFault
      else if e.getLsbD 4 || e.getLsbD 6 || e.getLsbD 7 then .error acc.pageFault
      else rvWalk s c k priv acc va l (ppn * 4096)

/-- The mode under which an access is made: loads and stores may take the previous one (MPRV). -/
def rvModeOf (k : ApcCore) (acc : RvAccess) : BitVec 2 :=
  if acc ≠ .fetch ∧ k.csrs.mstatus.getLsbD 17 then k.csrs.mstatus.extractLsb' 11 2 else k.priv

/-- The physical address of a virtual one, or the exception. -/
def rvTranslate (s : State) (c : Nat) (k : ApcCore) (acc : RvAccess) (va : W64) : Except RvTrap Nat :=
  let priv := rvModeOf k acc
  if priv = 3 ∨ field k.csrs.satp 60 4 = 0 then .ok va.toNat
  else if BitVec.signExtend 64 (va.extractLsb' 0 39) ≠ va then .error { cause := acc.pageFault, tval := va }
  else
    match rvWalk s c k priv acc va 3 (field k.csrs.satp 0 44 * 4096) with
    | .ok pa => .ok pa
    | .error cause => .error { cause := cause, tval := va }

/-- A load: aligned, translated, and answered. -/
def rvLoad (s : State) (c : Nat) (k : ApcCore) (va : W64) (size : Nat) : Except RvTrap W64 :=
  if va.toNat % size ≠ 0 then .error { cause := 4, tval := va }
  else
    match rvTranslate s c k .load va with
    | .error t => .error t
    | .ok pa => match rvRead s c pa size with | some x => .ok x | none => .error { cause := 5, tval := va }

/-- A store: aligned, translated, and performed; the core's own reservation goes where it is written over. -/
def rvStore (s : State) (c : Nat) (k : ApcCore) (va : W64) (size : Nat) (x : W64) : Except RvTrap (State × ApcCore) :=
  if va.toNat % size ≠ 0 then .error { cause := 6, tval := va }
  else
    match rvTranslate s c k .store va with
    | .error t => .error t
    | .ok pa =>
      match rvWrite s c pa size x with
      | some s1 => .ok (s1, dropApcResv pa size k)
      | none => .error { cause := 7, tval := va }

/-- A 16-bit parcel of an instruction. -/
def rvParcel (s : State) (c : Nat) (k : ApcCore) (va : W64) : Except RvTrap Nat :=
  match rvTranslate s c k .fetch va with
  | .error t => .error t
  | .ok pa => match rvReadMain s c pa 2 with | some x => .ok x.toNat | none => .error { cause := 1, tval := va }

/-- The word at the pc: one parcel, or two. -/
def rvFetch (s : State) (c : Nat) (k : ApcCore) : Except RvTrap Nat :=
  match rvParcel s c k k.pc with
  | .error t => .error t
  | .ok lo =>
    if rvLength lo = 2 then .ok lo
    else match rvParcel s c k (k.pc + 2) with | .ok hi => .ok (hi * 65536 + lo) | .error t => .error t

/-! ## Integer arithmetic -/

/-- An operation of two values, taken as integers of a width: a quotient by zero is all ones, a remainder by zero the
dividend. -/
def rvAlu (f : RvAlu) (w : Bool) (a b : W64) : W64 :=
  let n : Nat := if w then 32 else 64
  let ua := a.toNat % 2 ^ n
  let ub := b.toNat % 2 ^ n
  let sa := signed n ua
  let sb := signed n ub
  let sh := ub % n
  let r : Int := match f with
    | .add => (ua + ub : Nat)
    | .sub => sa - sb
    | .sll => (ua * 2 ^ sh : Nat)
    | .slt => nat1 (decide (sa < sb))
    | .sltu => nat1 (decide (ua < ub))
    | .xor => ((a ^^^ b).toNat : Nat)
    | .srl => (ua / 2 ^ sh : Nat)
    | .sra => Int.fdiv sa (2 ^ sh : Nat)
    | .or => ((a ||| b).toNat : Nat)
    | .and => ((a &&& b).toNat : Nat)
    | .mul => (ua * ub : Nat)
    | .mulh => Int.fdiv (sa * sb) (2 ^ n : Nat)
    | .mulhsu => Int.fdiv (sa * ub) (2 ^ n : Nat)
    | .mulhu => (ua * ub / 2 ^ n : Nat)
    | .div => if sb = 0 then -1 else Int.tdiv sa sb
    | .divu => if ub = 0 then -1 else (ua / ub : Nat)
    | .rem => if sb = 0 then sa else Int.tmod sa sb
    | .remu => if ub = 0 then (ua : Int) else (ua % ub : Nat)
  BitVec.ofInt 64 (signed n (r % (2 ^ n : Nat)).toNat)

/-- Whether a branch is taken. -/
def rvCond (f : RvCond) (a b : W64) : Bool :=
  match f with
  | .eq => decide (a = b)
  | .ne => decide (a ≠ b)
  | .lt => decide (a.toInt < b.toInt)
  | .ge => decide (b.toInt ≤ a.toInt)
  | .ltu => decide (a.toNat < b.toNat)
  | .geu => decide (b.toNat ≤ a.toNat)

/-- What an atomic access leaves in memory, given what it found. -/
def rvAmo (f : RvAmo) (size : Nat) (old x : W64) : W64 :=
  let sg (w : W64) : Int := signed (8 * size) w.toNat
  let un (w : W64) : Nat := w.toNat % 2 ^ (8 * size)
  match f with
  | .swap => x
  | .add => old + x
  | .xor => old ^^^ x
  | .and => old &&& x
  | .or => old ||| x
  | .min => if sg x < sg old then x else old
  | .max => if sg old < sg x then x else old
  | .minu => if un x < un old then x else old
  | .maxu => if un old < un x then x else old

/-! ## The effect of an instruction -/

/-- What an instruction comes to: the state and the core, its pc already where it goes, or an exception. -/
abbrev RvOut := Except RvTrap (State × ApcCore)

/-- A loaded value extended by its sign or with zeros. -/
def rvExtend (size : Nat) (sign : Bool) (x : W64) : W64 :=
  if sign then rvImm (8 * size) x.toNat else BitVec.ofNat 64 (x.toNat % 2 ^ (8 * size))

/-- An illegal instruction. -/
def rvIllegal {α : Type} (w : Nat) : Except RvTrap α := .error { cause := 2, tval := BitVec.ofNat 64 w }

/-- The rounding mode that an instruction names, or fcsr's where it names none. -/
def rvMode (k : ApcCore) (rm : Nat) : Option RvRm := rvRmOf (if rm = 7 then k.fcsr.toNat / 32 else rm)

/-- A CSR instruction: the old value goes to rd, and what is written is the source, or the old value with the source's bits set
or cleared; setting and clearing with source number 0 write nothing. -/
def rvCsrExec (s : State) (c : Nat) (k : ApcCore) (w : Nat) (f : RvCsrOp) (rd : Nat) (src : RvCsrSrc) (a : Nat) : RvOut :=
  let n := match src with | .reg n => n | .imm n => n
  let x := match src with | .reg n => rvX k n | .imm n => BitVec.ofNat 64 n
  let write := decide (f = .write) || decide (n ≠ 0)
  match rvCsrAt a with
  | none => rvIllegal w
  | some r =>
    if !rvCsrOk k a write then rvIllegal w
    else
      let old := rvCsrGet s c k r
      -- The bit of mip that stands for an interrupt of the APC is no stored bit of it.
      let base := if r = .mip then k.csrs.mip else if r = .sip then k.csrs.mip &&& k.csrs.mideleg else old
      let new := match f with | .write => x | .set => base ||| x | .clear => base &&& ~~~x
      .ok (s, rvSetX (if write then rvCsrPut k r new else k) rd old)

/-- LR: the value, with its 8-byte unit reserved. -/
def rvLr (s : State) (c : Nat) (k : ApcCore) (size rd : Nat) (va : W64) : RvOut :=
  if va.toNat % size ≠ 0 then .error { cause := 4, tval := va }
  else
    match rvTranslate s c k .load va with
    | .error t => .error t
    | .ok pa =>
      match rvReadMain s c pa size with
      | some x => .ok (s, { rvSetX k rd (rvExtend size true x) with resv := some (pa / 8 * 8) })
      | none => .error { cause := 5, tval := va }

/-- SC: the value stored and 0 where the unit is still reserved, else 1; the reservation ends. -/
def rvSc (s : State) (c : Nat) (k : ApcCore) (size rd : Nat) (va x : W64) : RvOut :=
  if va.toNat % size ≠ 0 then .error { cause := 6, tval := va }
  else
    match rvTranslate s c k .store va with
    | .error t => .error t
    | .ok pa =>
      if !rvMain pa then .error { cause := 7, tval := va }
      else if k.resv = some (pa / 8 * 8) then
        match rvWrite s c pa size x with
        | some s1 => .ok (s1, { rvSetX k rd 0 with resv := none })
        | none => .error { cause := 7, tval := va }
      else .ok (s, { rvSetX k rd 1 with resv := none })

/-- An atomic access: what memory held goes to rd. -/
def rvAmoExec (s : State) (c : Nat) (k : ApcCore) (f : RvAmo) (size rd : Nat) (va x : W64) : RvOut :=
  if va.toNat % size ≠ 0 then .error { cause := 6, tval := va }
  else
    match rvTranslate s c k .store va with
    | .error t => .error t
    | .ok pa =>
      match rvReadMain s c pa size with
      | none => .error { cause := 7, tval := va }
      | some old =>
        match rvWrite s c pa size (rvAmo f size old x) with
        | some s1 => .ok (s1, rvSetX (dropApcResv pa size k) rd (rvExtend size true old))
        | none => .error { cause := 7, tval := va }

/-- A floating-point result of a precision written with its exceptions. -/
def rvPutF (s : State) (k : ApcCore) (dbl : Bool) (rd : Nat) (r : FVal × RvFlags) : RvOut :=
  .ok (s, rvAccrue (rvSetF k rd (rvBits64 dbl r.1)) r.2)

/-- An integer result of a floating-point instruction written with its exceptions. -/
def rvPutX (s : State) (k : ApcCore) (rd : Nat) (x : W64) (fl : RvFlags) : RvOut := .ok (s, rvAccrue (rvSetX k rd x) fl)

/-- The environment call of a mode: 8, 9 or 11. -/
def rvEcall (k : ApcCore) : Nat := 8 + k.priv.toNat

/-- The effect of an instruction of a core whose pc already stands past it; `here` is the instruction's own address and `w` its
bits. -/
def rvExec (s : State) (c : Nat) (k : ApcCore) (here : W64) (w : Nat) (op : RvOp) : RvOut :=
  let x := rvX k
  let fp {α : Type} (a : Except RvTrap α) : Except RvTrap α := if rvFs k = 0 then rvIllegal w else a
  let rounded (rm : Nat) (a : RvRm → RvOut) : RvOut :=
    fp (match rvMode k rm with | some m => a m | none => rvIllegal w)
  match op with
  | .lui rd imm => .ok (s, rvSetX k rd imm)
  | .auipc rd imm => .ok (s, rvSetX k rd (here + imm))
  | .jal rd off => .ok (s, { rvSetX k rd k.pc with pc := here + off })
  | .jalr rd rs1 off => .ok (s, { rvSetX k rd k.pc with pc := (x rs1 + off) &&& ~~~1#64 })
  | .branch f rs1 rs2 off => .ok (s, if rvCond f (x rs1) (x rs2) then { k with pc := here + off } else k)
  | .load size sign rd rs1 off => (rvLoad s c k (x rs1 + off) size).map fun v => (s, rvSetX k rd (rvExtend size sign v))
  | .store size rs1 rs2 off => rvStore s c k (x rs1 + off) size (x rs2)
  | .alu f w rd rs1 rs2 => .ok (s, rvSetX k rd (rvAlu f w (x rs1) (x rs2)))
  | .aluImm f w rd rs1 imm => .ok (s, rvSetX k rd (rvAlu f w (x rs1) imm))
  | .fence => .ok (s, k)
  | .fenceI => .ok (s, k)
  | .ecall => .error { cause := rvEcall k, tval := 0 }
  | .ebreak => .error { cause := 3, tval := here }
  | .mret => if k.priv = 3 then .ok (s, rvMret k) else rvIllegal w
  | .sret =>
    if k.priv = 3 ∨ (k.priv = 1 ∧ !k.csrs.mstatus.getLsbD 22) then .ok (s, rvSret k) else rvIllegal w
  | .wfi => if k.priv ≠ 3 ∧ k.csrs.mstatus.getLsbD 21 then rvIllegal w else .ok (s, k)
  | .sfenceVma =>
    if k.priv = 3 ∨ (k.priv = 1 ∧ !k.csrs.mstatus.getLsbD 20) then .ok (s, k) else rvIllegal w
  | .csr f rd src a => rvCsrExec s c k w f rd src a
  | .lr size rd rs1 => rvLr s c k size rd (x rs1)
  | .sc size rd rs1 rs2 => rvSc s c k size rd (x rs1) (x rs2)
  | .amo f size rd rs1 rs2 => rvAmoExec s c k f size rd (x rs1) (x rs2)
  | .fload dbl rd rs1 off =>
    fp ((rvLoad s c k (x rs1 + off) (if dbl then 8 else 4)).map fun v => (s, rvSetF k rd (rvBox dbl v.toNat)))
  | .fstore dbl rs1 rs2 off => fp (rvStore s c k (x rs1 + off) (if dbl then 8 else 4) (rvF k rs2))
  | .fma dbl np na rd rs1 rs2 rs3 rm =>
    rounded rm fun m =>
      rvPutF s k dbl rd (rvFusedF (rvFmt dbl) m np na (rvVal dbl (rvF k rs1)) (rvVal dbl (rvF k rs2)) (rvVal dbl (rvF k rs3)))
  | .fbin f dbl rd rs1 rs2 rm =>
    rounded rm fun m => rvPutF s k dbl rd (rvBinF f (rvFmt dbl) m (rvVal dbl (rvF k rs1)) (rvVal dbl (rvF k rs2)))
  | .fsqrt dbl rd rs1 rm => rounded rm fun m => rvPutF s k dbl rd (rvSqrtF (rvFmt dbl) m (rvVal dbl (rvF k rs1)))
  | .fsgn f dbl rd rs1 rs2 => fp (.ok (s, rvSetF k rd (rvSignInject f dbl (rvF k rs1) (rvF k rs2))))
  | .fminmax max dbl rd rs1 rs2 => fp (rvPutF s k dbl rd (rvMinMax max (rvVal dbl (rvF k rs1)) (rvVal dbl (rvF k rs2))))
  | .fcmp f dbl rd rs1 rs2 =>
    let r := rvCmpF f (rvVal dbl (rvF k rs1)) (rvVal dbl (rvF k rs2))
    fp (rvPutX s k rd (BitVec.ofNat 64 (nat1 r.1)) r.2)
  | .fclass dbl rd rs1 =>
    fp (.ok (s, rvSetX k rd (BitVec.ofNat 64 (rvClass (rvFmt dbl) (rvVal dbl (rvF k rs1))))))
  | .fcvtFmt toDbl rd rs1 rm =>
    rounded rm fun m =>
      let v := rvVal (!toDbl) (rvF k rs1)
      rvPutF s k toDbl rd (rvOnce (rvFmt toDbl) m (v, rvSig [v]))
  | .fcvtToInt dbl t rd rs1 rm =>
    rounded rm fun m => let r := rvToInt t m (rvVal dbl (rvF k rs1)); rvPutX s k rd r.1 r.2
  | .fcvtFromInt dbl t rd rs1 rm =>
    rounded rm fun m =>
      let n := rvOfInt t (x rs1)
      rvPutF s k dbl rd (rvRound (rvFmt dbl) m (decide (n < 0)) (n : Rat))
  | .fmvToInt dbl rd rs1 =>
    fp (.ok (s, rvSetX k rd (if dbl then rvF k rs1 else rvImm 32 (rvF k rs1).toNat)))
  | .fmvFromInt dbl rd rs1 => fp (.ok (s, rvSetF k rd (rvBox dbl (x rs1).toNat)))

/-! ## A step of a core -/

/-- Whether an instruction writes the count of instructions itself. -/
def rvWritesCount (op : RvOp) : Bool :=
  match op with
  | .csr f _ src a =>
    decide (a = 0xB02) && (decide (f = .write) || (match src with | .reg n => decide (n ≠ 0) | .imm n => decide (n ≠ 0)))
  | _ => false

/-- Whether an instruction writes the count of cycles itself. -/
def rvWritesCycle (op : RvOp) : Bool :=
  match op with
  | .csr f _ src a =>
    decide (a = 0xB00) && (decide (f = .write) || (match src with | .reg n => decide (n ≠ 0) | .imm n => decide (n ≠ 0)))
  | _ => false

/-- The cycles that a step of core `c` takes, of which the spec says nothing: one or more. -/
def rvTick (c : Nat) (k : ApcCore) : ApcCore :=
  if k.csrs.mcountinhibit.getLsbD 0 then k
  else { k with csrs := { k.csrs with mcycle := k.csrs.mcycle + 1 + BitVec.ofNat 64 (Config.apcStall c k.csrs.mcycle.toNat) } }

/-- An instruction counted as retired. -/
def rvRetire (k : ApcCore) : ApcCore :=
  if k.csrs.mcountinhibit.getLsbD 2 then k else { k with csrs := { k.csrs with minstret := k.csrs.minstret + 1 } }

/-- An exception taken by core `c`, which has retired nothing. -/
def rvExcept (s : State) (c : Nat) (k : ApcCore) (t : RvTrap) : State :=
  { s with dev := setApc s.dev c (rvTick c (rvTake k false t.cause t.tval)) }

/-- An instruction of core `c` fetched, decoded and executed. -/
def rvInstr (s : State) (c : Nat) (k : ApcCore) : State :=
  match rvFetch s c k with
  | .error t => rvExcept s c k t
  | .ok w =>
    match rvDecode w with
    | none => rvExcept s c k { cause := 2, tval := BitVec.ofNat 64 w }
    | some op =>
      match rvExec s c { k with pc := k.pc + BitVec.ofNat 64 (rvLength w) } k.pc w op with
      | .error t => rvExcept s c k t
      | .ok (s1, k1) =>
        let k2 := if rvWritesCount op then k1 else rvRetire k1
        { s1 with dev := setApc s1.dev c (if rvWritesCycle op then k2 else rvTick c k2) }

/-- A step of application core `c` (R345), once boot has released the APC (R355): an interrupt taken, or an instruction. The
interrupt of the APC that a core takes as external is no longer pending. -/
def apcStep (c : Nat) (s : State) : State :=
  let k := apcOf s.dev c
  if c < 16 ∧ s.plant.apcUp then
    match rvInterrupt s k with
    | some i =>
      let d := setApc s.dev c (rvTick c (rvTake k true i 0))
      { s with dev := if i = 11 then { d with irqs := d.irqs.drop 1 } else d }
    | none => rvInstr s c k
  else s

end Sys2Proof.Machine
end

