-- ==== Sys2Proof/Machine/Sched.lean ====
section
/-! DEFINITION. What a core runs next (R41, R42, R144), what standing time does (R27, R45, R201, R394), and what
each move of the input does (log 2). -/

namespace Sys2Proof.Machine

/-- What the selected wave comes to next: a clause header, an instruction of its clause, a word whose opcode is not listed,
or the device after a fetch that waits or faults. -/
inductive NextUp where
  | header (h : W64)
  | instr (i : Instr)
  | reserved (cls : BitVec 4) (code : W64)
  | stop (d : Device)

/-- The fetch of the selected wave (R56, R141): its clause header where none is in force, or where a yield is due before
the clause's first word; else the word at sr.clpos. -/
def nextUp (v : View) : NextUp :=
  match v.w.pos.hdr with
  | none =>
    match fetchCode v v.p.pc with
    | .ok w => .header w
    | .wait d => .stop d
    | .bad f => .stop (fetchTrap v v.p.pc f)
  | some h =>
    if v.w.pos.clpos = 0 ∧ v.w.pos.yieldDue ∧ v.w.trap.trlvl = 0 then .header h
    else
      let va := v.wordVa v.w.pos.clpos.toNat
      match fetchCode v va with
      | .ok w =>
        match decodeWord (h.extractLsb' 60 4) w with
        | .ok i => .instr i
        | .error _ => .reserved (h.extractLsb' 60 4) w
      | .wait d => .stop d
      | .bad f => .stop (fetchTrap v va f)

/-- The course of the wave that is selected: its next instruction given its meaning. -/
def runNext (ex : Instr → State → Out State) (s : State) : Out State :=
  match view s.dev with
  | none => .fault .noWave
  | some v =>
    match nextUp v with
    | .header h => ex (.clauseHeader (Header.ofBits h)) s
    | .instr i => ex i s
    | .reserved cls code => .next { s with dev := reservedWord v cls code }
    | .stop d => .next { s with dev := d }

/-- Whether an alcove that a block is attached to is still being refilled (R86). -/
def refilling (d : Device) (b : Block) : Bool := b.attach.any fun a => (alcOf d a.entry).target.isSome

/-- Whether a wave may issue: it has a path, its block and context are not stopped, its block's alcoves stand on the core
(R39, R86), and the records that stand for its hall have been restored (R52). -/
def mayIssue (d : Device) (core : Nat) (w : Wave) : Bool :=
  let k := ctxOf d w.ctx
  decide (w.pos.paths ≠ []) && !w.halted && !k.halting &&
  !((tblFind d.blocks w.block).elim true fun b => b.ended || refilling d b) &&
  !awaitsRecords d core w.ctx

/-- Whether a wave stands between two words of a clause in force (R42). -/
def midClause (w : Wave) : Bool := decide (w.pos.clpos ≠ 0) && w.pos.hdr.isSome

/-- The rank of a wave at an issue choice, least first (R41, R144): priority, a rank lowered by YIELD, dispatch time,
slot. -/
def issueRank (e : Nat × Wave) : List Nat := [3 - e.2.prio, nat1 e.2.pos.yrank, e.2.disp, e.1]

/-- The slots that a core tries, in order: the wave inside a clause alone (R42), else all that may issue, by rank. -/
def issueOrder (d : Device) (core : Nat) : List Nat :=
  let ws := (coreOf d core).waves.filter fun e => mayIssue d core e.2
  match ws.find? fun e => decide (e.1 = (coreOf d core).last) && midClause e.2 with
  | some e => [e.1]
  | none => (sortBy (fun a b => lexLt (issueRank a) (issueRank b)) ws).map (·.1)

/-- Whether an instruction of a clause is marked uniform, by its own bit or by its clause's (R28). -/
def marked (v : View) (i : Instr) : Bool :=
  v.uni || match encode i with | some (c, w) => uniBit c w | none => false

/-- The beats of a word: one for each half of a 64-wide wave with an active lane, one for a uniform word (R27, R28). -/
def beats (v : View) (once : Bool) : Nat :=
  if v.w.width = 64 ∧ !once ∧ v.active &&& 0xFFFFFFFF ≠ 0 ∧ v.active >>> 32 ≠ 0 then 2 else 1

/-- Whether what a wave comes to next is a word (R41): a clause header takes no issue slot. -/
def comesToWord (v : View) : Bool :=
  match nextUp v with
  | .header _ => false
  | .instr _ => true
  | .reserved _ _ => true
  | .stop _ => false

/-- Whether the landing monitor throttles a hall (R436). -/
def throttledHall (d : Device) (h : Nat) : Bool := decide ((flightAt d h).throttle = some (decide (h % 2 = 1)))

/-- The hall cycles that a wave's next instruction takes of its core's issue slot (R27, R28, R436): its beats, twice that on
a hall that the landing monitor throttles, none for a header. -/
def slotCycles (d : Device) (core slot : Nat) : Nat :=
  let n : Nat := match viewAt d core slot with
    | some v =>
      match nextUp v with
      | .header _ => 0
      | .instr i => beats v (marked v i)
      | .reserved _ _ => beats v v.uni
      | .stop _ => 0
    | none => 0
  if throttledHall d (hallOfCore core) then 2 * n else n

/-- Whether the issue of a wave's next instruction is an issue choice: that of a word which is not held by a clause begun
(R42, R144). -/
def isChoice (d : Device) (core slot : Nat) : Bool :=
  match viewAt d core slot with
  | some v => comesToWord v && !midClause v.w
  | none => false

/-- A core's waves once a choice is made: lowered ranks have had their effect (R144). -/
def clearRanks (choice : Bool) (ws : Tbl Wave) : Tbl Wave :=
  if choice then tblMap (fun _ w => { w with pos := { w.pos with yrank := false } }) ws else ws

/-- The state with a wave selected for issue. -/
def selectWave (s : State) (core slot : Nat) : State :=
  { s with dev := modCore { s.dev with cur := some (core, slot) } core fun k =>
      { k with last := slot, busy := slotCycles s.dev core slot, waves := clearRanks (isChoice s.dev core slot) k.waves } }

/-- The state `s1` in which the wave tried was not ready, with the core's choice as it stood before. -/
def unselect (s : State) (core : Nat) (s1 : State) : State :=
  let k0 := coreOf s.dev core
  { s1 with dev := modCore { s1.dev with cur := s.dev.cur } core fun k =>
      { k with last := k0.last, busy := k0.busy, waves := tblMap (fun n w =>
          match tblFind k0.waves n with | some x => { w with pos := { w.pos with yrank := x.pos.yrank } } | none => w) k.waves } }

/-- Whether a wave that was tried has not issued: it stands as it stood when selected. -/
def notReady (core slot : Nat) (before after : State) : Bool :=
  decide (waveOf after.dev core slot = waveOf before.dev core slot)

/-! ## Packed pairs (R29) -/

/-- Whether two waves may be packed (R29): 16-wide waves of one grid, each with one path, at one PC and depth, both at the
boundary before the first word of their clauses. -/
def mayPack (d : Device) (core a b : Nat) : Bool :=
  match viewAt d core a, viewAt d core b with
  | some v, some w =>
    let fits (x : View) : Bool :=
      decide (x.w.width = 16) && decide (x.w.pos.paths.length = 1) && x.w.pos.hdr.isSome && decide (x.w.pos.clpos = 0) &&
      mayIssue d core x.w && comesToWord x
    decide (a ≠ b) && fits v && fits w && decide (v.blk.grid = w.blk.grid) && decide (v.p.pc = w.p.pc) &&
    decide (v.p.depth = w.p.depth)
  | _, _ => false

/-- The block of a wave. -/
def waveBlock (d : Device) (core slot : Nat) : Nat := ((waveOf d core slot).map (·.block)).getD 0

/-- A wave's block as it reads the b registers given, with no note of a write by the word (R66). -/
def freshRegs (bregs : Tbl W32) (b : Block) : Block := { b with bregs := bregs, bwritten := 0 }

/-- The b registers after both words of a pair, where they share a block: the write from the higher slot stands (R66). -/
def mergeRegs (lo : Block) (b : Block) : Block :=
  { b with
    bregs := (List.range 8).foldl (fun t i =>
      if lo.bwritten.getLsbD i ∧ !b.bwritten.getLsbD i then tblSet t i (bget lo i) else t) b.bregs
    bwritten := lo.bwritten ||| b.bwritten }

/-- Whether a pair stays packed after a word: both waves stand inside the clause, at one word, with one path each (R29). -/
def staysPacked (d : Device) (core a b : Nat) : Bool :=
  match waveOf d core a, waveOf d core b with
  | some v, some w =>
    midClause v && midClause w && decide (v.pos.clpos = w.pos.clpos) && decide (v.pos.paths.length = 1) &&
    decide (w.pos.paths.length = 1) && decide (v.trap.trlvl = w.trap.trlvl)
  | _, _ => false

/-- The pair to which a wave that is chosen belongs, as long as both may go on together (R29). -/
def pairOf (d : Device) (core slot : Nat) : Option (Nat × Nat) :=
  let may (k : Nat) : Bool := match waveOf d core k with | some w => mayIssue d core w | none => false
  match (coreOf d core).pair with
  | some p =>
    if (p.1 = slot ∨ p.2 = slot) ∧ (mayPack d core p.1 p.2 || (staysPacked d core p.1 p.2 && may p.1 && may p.2)) then some p
    else none
  | none => none

/-- A core whose pair has come apart: a member that stands inside the clause goes on with it before any other wave (R42, R56). -/
def splitPair (d : Device) (core a b : Nat) : Device :=
  let inside (k : Nat) : Bool := match waveOf d core k with | some w => midClause w | none => false
  modCore d core fun k =>
    { k with pair := none, last := if inside a then a else if inside b then b else k.last }

/-- The core's pair after a word of it: packed as long as both may go on together (R29). -/
def keepPair (d : Device) (core a b : Nat) : Device := if staysPacked d core a b then d else splitPair d core a b

/-- What trying a paired word comes to. -/
inductive PairTry where
  | issued (s : State)
  | unready (s : State)
  | stop (r : Out State)

/-- A paired word (R29): both waves issue it in one hall cycle, each reading the b registers as they stood before it (R66).
Where one of them is not ready neither issues, and each keeps what it asked for. -/
def pairWord (ex : Instr → State → Out State) (core : Nat) (p : Nat × Nat) (s : State) : PairTry :=
  let s0 := selectWave s core p.1
  let bid := waveBlock s.dev core p.1
  let shared := decide (waveBlock s.dev core p.2 = bid)
  let old := ((tblFind s.dev.blocks bid).map (·.bregs)).getD []
  match runNext ex { s0 with dev := modBlock s0.dev bid (freshRegs old) } with
  | .next s1 =>
    if notReady core p.1 s0 s1 then .unready (unselect s core s1)
    else
      let lo := tblFind s1.dev.blocks bid
      let s2 := { s1 with dev := (if shared then modBlock else fun d _ _ => d) { s1.dev with cur := some (core, p.2) } bid (freshRegs old) }
      match runNext ex s2 with
      | .next s3 =>
        if notReady core p.2 s2 s3 then .unready { s with dev := { s.dev with walks := s3.dev.walks, nextId := s3.dev.nextId } }
        else
          let d := match shared, lo with | true, some x => modBlock s3.dev bid (mergeRegs x) | _, _ => s3.dev
          .issued { s3 with dev := keepPair d core p.1 p.2 }
      | r => .stop r
  | r => .stop r

/-- The core's pair after one of its members has issued a word alone: none (R29). -/
def leavePair (d : Device) (core slot : Nat) (choice : Bool) : Device :=
  match (coreOf d core).pair with
  | some p => if choice && (decide (p.1 = slot) || decide (p.2 = slot)) then modCore d core fun k => { k with pair := none } else d
  | none => d

/-- A wave tried alone (R41): the state, and whether it has issued; one that is not ready keeps what it asked for. -/
def tryWave (ex : Instr → State → Out State) (core slot : Nat) (s : State) : Out (State × Bool) :=
  match runNext ex (selectWave s core slot) with
  | .next s1 =>
    if notReady core slot (selectWave s core slot) s1 then .next (unselect s core s1, false)
    else .next ({ s1 with dev := leavePair s1.dev core slot (isChoice s.dev core slot) }, true)
  | .fault r => .fault r
  | .refused r => .refused r

/-- The waves of a core tried in order (R41): the first that is ready issues; each that is not keeps what it asked for. A pair
that stands at a boundary is packed only where both are ready (R29); inside the clause both wait for the one that is not. -/
def tryWaves (ex : Instr → State → Out State) (core : Nat) : List Nat → State → Out State
  | [], s => .next s
  | k :: t, s =>
    let alone (s : State) : Out State :=
      match tryWave ex core k s with
      | .next r => if r.2 then .next r.1 else tryWaves ex core t r.1
      | .fault r => .fault r
      | .refused r => .refused r
    match pairOf s.dev core k with
    | some p =>
      match pairWord ex core p s with
      | .issued s1 => .next s1
      | .unready s1 => if staysPacked s.dev core p.1 p.2 then .next s1 else alone s1
      | .stop r => r
    | none => alone s

/-! ## Time -/

/-- Whether the wave in a slot is ready (R41): what it would run next changes it, or asks for a translation, which is no
condition of R41. -/
def readyFor (ex : Instr → State → Out State) (s : State) (core slot : Nat) : Bool :=
  match waveOf s.dev core slot with
  | none => false
  | some w =>
    mayIssue s.dev core w &&
    match runNext ex { s with dev := { s.dev with cur := some (core, slot) } } with
    | .next s1 => decide (waveOf s1.dev core slot ≠ some w) || decide (s1.dev.walks ≠ s.dev.walks)
    | _ => false

/-- Two waves packed (R29): both are ready. -/
def packWaves (ex : Instr → State → Out State) (s : State) (core a b : Nat) : Device :=
  if mayPack s.dev core a b && readyFor ex s core a && readyFor ex s core b then
    modCore s.dev core fun k => { k with pair := some (min a b, max a b) }
  else s.dev

/-- Whether an outstanding operation is one of the hall's engines (R289). -/
def hallOp (o : LongOp) : Bool :=
  match o.kind with
  | .ncall => true
  | .ray => true
  | .decomp => true
  | .fill => true
  | .query => decide (o.args ≠ [])
  | _ => false

/-- The tokens that a wave's operations of the hall hold. -/
def hallTokens (h : Hall) (core slot : Nat) (w : Wave) : BitVec 16 :=
  let bit (k : Nat) : BitVec 16 := BitVec.ofNat 16 (2 ^ k)
  let ops := (w.ops.filter hallOp).filterMap fun o => o.tok.map bit
  let mats := (h.mat.filter fun e => decide (e.core = core) && decide (e.slot = slot) && e.staging.isNone).filterMap fun e =>
    (xTok e.word).map fun k => bit k.toNat
  let cps := (h.cq.flatMap fun q => q.2.filter fun o => decide (o.core = core) && decide (o.slot = slot)).filterMap fun o =>
    (eTok o.word).map fun k => bit k.toNat
  (ops ++ mats ++ cps).foldl (fun a b => a ||| b) 0

/-- A wave without its load-type and store-type instructions and the tokens of its engine operations. -/
def relieveMemory (toks : BitVec 16) (w : Wave) : Wave :=
  { w with
    ops := w.ops.filter fun o => !(decide (o.kind = .load) || decide (o.kind = .store) || hallOp o)
    tokPend := w.tokPend &&& ~~~(toks &&& ~~~w.tokOrph) }

/-- Whether a wave waits only on load-type instructions, store-type instructions or engine tokens (R339). -/
def waitsOnMemory (ex : Instr → State → Out State) (s : State) (core slot : Nat) (w : Wave) : Bool :=
  let toks := hallTokens (hallOf s.dev (hallOfCore core)) core slot w
  !readyFor ex s core slot && readyFor ex { s with dev := modWave s.dev core slot (relieveMemory toks) } core slot

/-- Whether some wave of a hall waits so. -/
def hallWaits (ex : Instr → State → Out State) (s : State) (h : Nat) : Bool :=
  (List.range 4).any fun i => (coreOf s.dev (4 * h + i)).waves.any fun e => waitsOnMemory ex s (4 * h + i) e.1 e.2

/-- A wave after `n` hall cycles; the watchdog does not count for one that has not resumed (R394). -/
def waveTime (n : Nat) (resumed : Bool) (w : Wave) : Wave :=
  { w with cnt := { w.cnt with
      wcycle := w.cnt.wcycle + BitVec.ofNat 64 n
      fair := if w.trap.trlvl = 0 then w.cnt.fair + n else w.cnt.fair
      wd := if w.halted || !resumed then w.cnt.wd else w.cnt.wd + n } }

/-- A core after `n` hall cycles. -/
def coreTime (n : Nat) (resumed : Wave → Bool) (k : Core) : Core :=
  { k with waves := tblMap (fun _ w => waveTime n (resumed w) w) k.waves, busy := k.busy - n }

/-- The cycles among the next `n` in which a core whose slot is taken for `busy` cycles issues: on a throttled hall every
other (R339, R436). -/
def issueCycles (throttled : Bool) (n busy : Nat) : Nat := if throttled then (min n busy + 1) / 2 else min n busy

/-- The counts of a hall after `n` hall cycles (R339): those in which each core issued, and, where a wave waits on memory or
an engine, those in which none did. -/
def countTime (n : Nat) (issues : List Nat) (waits : Bool) (c : HallCount) : HallCount :=
  { c with
    cycles := c.cycles + n, issued := c.issued + issues.sum
    stalled := if waits then c.stalled + (n - issues.foldl max 0) else c.stalled }

/-- A matrix entry after `n` hall cycles: those in which its tile fetch waits for another module lie outside its occupancy and
its watchdog's count (R419). -/
def entryTime (n : Nat) (e : MatEntry) : MatEntry := if e.fetching then { e with occEnd := e.occEnd + n } else e

/-- The microcoded units that count a hall's cycles: kind and number (R308). Texture filtering finishes what it takes within a
word's issue, and none of its work stands for a cycle; raster setup counts the cycles of its gallery's first hall (log 145). -/
def hallUnits (h : Nat) : List (Nat × Nat) :=
  [(0, h), (3, h), (4, h)] ++ if h % 16 = 0 then [(1, h / 16)] else []

/-- A hall's microcoded units after `n` of its cycles (R427): each counts those for which it has had work and made no step. -/
def unitTimes (d0 : Device) (h n : Nat) (d : Device) : Device :=
  (hallUnits h).foldl (fun d u =>
    if (unitWork d0 u.1 u.2).isSome && !unitStopped d0 u.1 u.2 then modUnit d u.1 u.2 fun x => { x with idle := x.idle + n }
    else unitStepped u.1 u.2 d) d

/-- The hall cycle's notes of block-register writes are past (R66). -/
def clearNotes (h : Nat) (b : Block) : Block := if hallOfCore b.core = h then { b with bnotes := [] } else b

/-- The answers of other modules that a matrix entry's tile fetch waits for have come (R419). -/
def tileAnswered (d : Device) (hall op : Nat) : Device :=
  modHall d hall fun h => { h with mat := h.mat.map fun e => if e.id = op then { e with fetching := false } else e }

/-- `n` cycles of a hall whose clock runs, counted for its governor and its matrix engine's watchdog (R339, R419); at their
end a target asked for in them is computed (R336). -/
def hallTime (ex : Instr → State → Out State) (s : State) (h n : Nat) : State :=
  if n = 0 ∨ !clockRuns s.dev h then s
  else
    let issues := (List.range 4).map fun i => issueCycles (throttledHall s.dev h) n (coreOf s.dev (4 * h + i)).busy
    let d1 := modHall s.dev h fun x =>
      { x with
        cycle := x.cycle + n, count := countTime n issues (hallWaits ex s h) x.count
        mat := x.mat.map (entryTime n), matIdle := if matStands s.dev x then x.matIdle + n else 0 }
    let resumed (c : Nat) (w : Wave) : Bool := !awaitsRecords s.dev c w.ctx
    { s with dev := settleDue (unitTimes s.dev h n { d1 with
        cores := tblMap (fun c k => if hallOfCore c = h then coreTime n (resumed c) k else k) d1.cores
        blocks := tblMap (fun _ => clearNotes h) d1.blocks }) h }

/-- The hall cycles that pass before a core's next issue: those for which its slot is taken, and that of a result that a
block register has taken (R66). -/
def slotWait (d : Device) (core : Nat) : Nat :=
  max (coreOf d core).busy (nat1 (d.blocks.any fun e => decide (e.2.core = core) && decide (e.2.bnotes ≠ [])))

/-- The turn of a core (R41): the cycles pass that its slot is still taken, then a wave issues, if its clock runs. -/
def coreTurn (ex : Instr → State → Out State) (core : Nat) (s : State) : Out State :=
  if clockRuns s.dev (hallOfCore core) then
    let s1 := hallTime ex s (hallOfCore core) (slotWait s.dev core)
    tryWaves ex core (issueOrder s1.dev core) s1
  else .next s

/-- Whether a step of the opcode table is an agent's own: no word, no clause header. -/
def agentStep (i : Instr) : Bool :=
  decide (i.ctorIdx ≠ (Instr.clauseHeader (Header.ofBits 0)).ctorIdx) && (encode i).isNone

/-- The state after a move. -/
def moveStep (ex : Instr → State → Out State) (m : Move) (s : State) : Out State :=
  match m with
  | .core c => coreTurn ex c s
  | .event i => if agentStep i then ex i s else .next s
  | .hallTime h n => .next (hallTime ex s h n)
  | .fabricTime n => .next { s with dev := { s.dev with fcycle := s.dev.fcycle + BitVec.ofNat 64 n } }
  | .l2Evict line => .next { s with dev := evictLine s.dev line }
  | .pack c a b => .next { s with dev := packWaves ex s c a b }
  | .mgmtUpdate i => .next (takeUpdate s i)
  | .peer a bs bad => .next { s with dev := peerBytes s.dev a bs bad }
  | .tileAnswer h op => .next { s with dev := onHall h (fun d => tileAnswered d h op) s.dev }
  | .apc c => .next (apcStep c s)
  | .mgmtFrame bs => .next { s with plant := { s.plant with mgmtIn := s.plant.mgmtIn ++ [bs] } }

end Sys2Proof.Machine
end

