-- ==== Sys2Proof/Machine/Texture.lean ====
section
/-! DEFINITION. Texture words: TEX, TEXLD and TEXQ (R322 to R324). -/

namespace Sys2Proof.Machine

/-- The level field of a texture word, SUB[13:10]. -/
def texLevel (w : WordB) : Nat := w.sub.toNat / 4

/-- A record number past the last one. -/
def recPast (w : WordB) : Check := c14 (decide (4096 ≤ w.rc.toNat + texLevel w)) 31

/-- TEXLD (R323). -/
def jobTexld (w : WordB) : Job :=
  { code := w.toBits 0x11, g := w.hd.g, lanes := .each, u := w.tl.u, mem := true, refs := bRefs w
    legal := fun _ => bChecks w ++ tailChecks w.tl [0] true 2 ++
      [c14 (decide (w.am ≠ 0)) 15, c14 (decide (w.sub.toNat % 4 ≠ 0)) 9, recPast w]
    act := fun v ex => ldbAct v w (w.rc.toNat + texLevel w) ex }
/-- TEXLD (R323): its step. -/
def execTexld (w : WordB) (s : State) : Out State := runJob (jobTexld w) s

/-- The dimensions that TEXQ writes for a component (R324). -/
def texDim (r : BufRec) (j : Nat) : W32 :=
  BitVec.ofNat 32 (if j = 0 then r.ext0 else if j = 1 then r.ext1 + 1 else if j = 2 then r.ext2 + 1 else r.fmt + 256 * r.enc)

/-- TEXQ (R324). -/
def jobTexq (w : WordB) : Job :=
  { code := w.toBits 0x12, g := w.hd.g, lanes := .each, u := w.tl.u, uniOk := true, mem := true
    refs := vRefs (regNo w.d) (enabled w.cm).length
    legal := fun _ => tailChecks w.tl [0] true 0 ++
      [c13 (!isV w.d) 47, groupCheck w.d (enabled w.cm).length 47, c14 (!isUnused w.a) 39,
       c14 (decide (w.am ≠ 0)) 15, c14 (decide (w.sub.toNat % 4 ≠ 0)) 9, recPast w]
    act := fun v ex =>
      if 63 ≤ loadsOut v.w then .hold v.d
      else
        match readRecord v (w.rc.toNat + texLevel w) ex with
        | .stop e => e
        | .ok r ps =>
          Eff.readMoved v ps <| loadDone v [] v.d w.hd.md (groupWrites v (regNo w.d) (enabled w.cm).length (targets v (w.tl.u || v.uni) ex)
            fun _ => (enabled w.cm).map (texDim r)) }
/-- TEXQ (R324): its step. -/
def execTexq (w : WordB) (s : State) : Out State := runJob (jobTexq w) s

/-! ## Sampling (R322) -/

/-- A texel of a sample: level, element coordinates and weight. -/
structure Tap where
  level : Nat
  x : Nat
  y : Nat
  z : Nat
  wt : Rat

/-- An integer texel coordinate mapped by the wrap mode into a level of a width. -/
def wrapTexel (mode : BitVec 2) (n : Nat) (i : Int) : Nat :=
  if n = 0 then 0
  else if mode = 0 then (min (max i 0) (n - 1)).toNat
  else if mode = 1 then (i % (n : Int)).toNat
  else
    let m := (i % (2 * n : Int)).toNat
    if m < n then m else 2 * n - 1 - m

/-- floor(frac(x) × 256) / 256. -/
def frac256 (x : Rat) : Rat := (((x - (x.floor : Rat)) * 256).floor : Rat) / 256

/-- The texel coordinates of one axis with their weights: two with `.lin`, else one. At an infinite coordinate the spec
states none: they are free (log 15). -/
def axisTaps (lin : Bool) (mode : BitVec 2) (n : Nat) (u : FVal) : List (Nat × Rat) :=
  match u with
  | .nan _ => go 0
  | .num _ x => go x
  | .inf neg =>
    let f : Rat := ((Config.choice (2 + nat1 neg) % 256 : Nat) : Rat) / 256
    let i := Config.choice (nat1 neg)
    if lin then [(i % max 1 n, 1 - f), ((i + 1) % max 1 n, f)] else [(i % max 1 n, 1)]
where
  go (x : Rat) : List (Nat × Rat) :=
    if lin then
      let p := x * (n : Rat) - 1 / 2
      let f := frac256 p
      [(wrapTexel mode n p.floor, 1 - f), (wrapTexel mode n (p.floor + 1), f)]
    else [(wrapTexel mode n ((x * (n : Rat)).floor), 1)]

/-- The layer of a record with DIMS 2: w rounded, halves up, clamped. -/
def texLayer (r : BufRec) (w : FVal) : Nat :=
  match w with
  | .num _ x => (min (max ((x + 1 / 2).floor) 0) (r.ext2 : Int)).toNat
  | .inf false => r.ext2
  | _ => 0

/-- The texels of a level with their weights. -/
def levelTaps (lin : Bool) (mode : BitVec 2) (lv : Nat) (r : BufRec) (c : Nat → FVal) (wt : Rat) : List Tap :=
  let ys := if r.dims = 0 then [(0, (1 : Rat))] else axisTaps lin mode (r.ext1 + 1) (c 1)
  let z := if r.dims = 2 then texLayer r (c 2) else 0
  ys.flatMap fun y => (axisTaps lin mode r.ext0 (c 0)).map fun x =>
    { level := lv, x := x.1, y := y.1, z := z, wt := wt * x.2 * y.2 }

/-- A lane's coordinate; NaN counts as 0. -/
def texCoord (v : View) (w : WordB) (dims l i : Nat) : FVal :=
  if dims < i then .num false 0
  else match f32 (vget v.d v.core v.w l (regNo w.a + i)) with | .nan _ => .num false 0 | x => x

/-- |a − b| × n in FP32, RNE. -/
def texSlope (a b : FVal) (n : Nat) : FVal :=
  let nb : FVal := match b with | .num s x => .num (!s) (-x) | .inf s => .inf (!s) | x => x
  let d := (addF fp32 .rne a nb).1
  let m : FVal := match d with | .num _ x => .num false (ratAbs x) | .inf _ => .inf false | x => x
  (prodF fp32 .rne m (.num false (n : Rat))).1

/-- λ of a lane (R322): FLOG2(ρ) in a pixel wave, from the fine differences over its quad; 0 in any other wave. -/
def texLambda (v : View) (w : WordB) (r : BufRec) (l : Nat) : FVal :=
  if v.w.gfx.pix.isNone then .num false 0
  else
    let q := l / 4 * 4
    let row := l % 4 / 2
    let col := l % 2
    let c (k i : Nat) : FVal := texCoord v w r.dims k i
    let dx (i n : Nat) : FVal := texSlope (c (q + 2 * row + 1) i) (c (q + 2 * row) i) n
    let dy (i n : Nat) : FVal := texSlope (c (q + 2 + col) i) (c (q + col) i) n
    let rho := (maxF (maxF (dx 0 r.ext0) (dx 1 (r.ext1 + 1))).1 (maxF (dy 0 r.ext0) (dy 1 (r.ext1 + 1))).1).1
    (log2F (f32Bits rho) rho).1

/-- The levels of a sample with their weights (R322); free where λ is a NaN (log 15). -/
def texLevels (nl : Nat) (mip : Bool) (lam : FVal) : List (Nat × Rat) :=
  let at' (i : Int) : Nat := (min (max i 0) ((nl : Int) - 1)).toNat
  match lam with
  | .inf neg => [(if neg then 0 else nl - 1, 1)]
  | .nan _ => [(Config.choice 4 % nl, 1)]
  | .num _ x =>
    if mip then
      let l0 := at' x.floor
      let g := if x < 0 then 0 else frac256 x
      [(l0, 1 - g), (min (l0 + 1) (nl - 1), g)]
    else [(at' ((x + 1 / 2).floor), 1)]

/-- The records of a texture's levels, in order, with the pieces they were read from (R322), or what the word does instead. -/
def texRecords (v : View) (ex : Mask) : Nat → Nat → Except Eff (List BufRec × List Piece)
  | 0, _ => .ok ([], [])
  | n + 1, rc =>
    match readRecord v rc ex with
    | .stop e => .error e
    | .ok r ps =>
      match texRecords v ex n (rc + 1) with
      | .error e => .error e
      | .ok l => .ok (r :: l.1, ps ++ l.2)

/-- A lane's texel with its element. -/
structure TapAt where
  lane : Nat
  tap : Tap
  rc : BufRec
  elem : Elem

/-- The words that one level's texels give to each enabled component, with their weights: lane, component values. -/
abbrev TapVals := List (Nat × Rat × List W32)

/-- The texels of one level read (R91, R322), checked first, or what the word does instead. -/
def readLevel (v : View) (w : WordB) (ts : List TapAt) (d : Device) :
    Except Eff (TapVals × List RemotePart × Device) :=
  match ts with
  | [] => .ok ([], [], d)
  | t0 :: _ =>
    let r := t0.rc
    let ins := ts.filter fun t => t.elem.inside
    let data := ins.map fun t => (t.lane, t.elem.va, elemBytes r.fmt)
    let scs := if 6 ≤ r.enc then ins.map fun t => let s := scaleAt r t.elem; (t.lane, s.1, s.2) else []
    match checkLanes { v with d := d } { rd := true, w := false, x := false } (recordReader r) none (data ++ scs) with
    | .wait d1 => .error (.hold d1)
    | .trap t => .error (.trap t)
    | .ok ls =>
      let x := loadLanes v (recordReader r) w.tl.ch false ls d
      let bytes := x.1.map (·.2)
      let words (t : TapAt) (raw : Nat) (sc : List Byte) : Nat × Rat × List W32 :=
        (t.lane, t.tap.wt, (enabled w.cm).flatMap fun j => componentLoad r raw j t.elem.inside sc)
      let inside := ((List.range ins.length).zip ins).map fun e =>
        words e.2 (elemRaw r e.2.elem (bytes.getD e.1 [])) (bytes.getD (ins.length + e.1) [])
      let outside := (ts.filter fun t => !t.elem.inside).map fun t => words t 0 []
      .ok (inside ++ outside, lanesPorts v.d ls, x.2)

/-- The levels' texels read one after another. -/
def readLevels (v : View) (w : WordB) (ts : List TapAt) : List Nat → Device → Except Eff (TapVals × List RemotePart × Device)
  | [], d => .ok ([], [], d)
  | lv :: t, d =>
    match readLevel v w (ts.filter fun x => decide (x.tap.level = lv)) d with
    | .error e => .error e
    | .ok (xs, ps, d1) =>
      match readLevels v w ts t d1 with
      | .error e => .error e
      | .ok (ys, qs, d2) => .ok (xs ++ ys, ps ++ qs, d2)

/-- A component of a lane's sample: the exact weighted sum, rounded once (R322). -/
def sampleWord (xs : TapVals) (l i : Nat) : W32 :=
  let terms := (xs.filter fun x => decide (x.1 = l)).map fun x =>
    (mulF (f32 (x.2.2.getD i 0)) (.num false x.2.1)).1
  f32Bits (roundF fp32 .rne (sumF .rne terms).1).1

/-- TEX (R322). -/
def texAct (v : View) (w : WordB) (ex : Mask) : Eff :=
  let nl := texLevel w + 1
  let lin := w.sub.getLsbD 0
  let mip := w.sub.getLsbD 1
  if 63 ≤ loadsOut v.w || !unitReady v.d 2 v.hall v.w.ctx then .hold v.d
  else
    match texRecords v ex nl w.rc.toNat with
    | .error e => e
    | .ok (rs, ps) =>
      match rs with
      | [] => .hold v.d
      | r0 :: _ =>
        let regs := recordRegs r0 w.cm
        match firstBad [groupCheck w.d regs 47, groupCheck w.a (r0.dims + 1) 39] with
        | some c => .trap (wordTrap v c.cause ex c.info)
        | none =>
          let ls := lanesOf v.width ex
          let taps := ls.flatMap fun l =>
            (texLevels nl mip (texLambda v w r0 l)).flatMap fun lv =>
              let r := rs.getD lv.1 r0
              (levelTaps lin w.am lv.1 r (texCoord v w r.dims l) lv.2).map fun t =>
                ({ lane := l, tap := t, rc := r, elem := elemAt r t.x t.y t.z } : TapAt)
          match readLevels v w taps (List.range nl) v.d with
          | .error e => e
          | .ok (xs, ports, d) =>
            Eff.readMoved v ps <| loadDone v ports d w.hd.md (groupWrites v (regNo w.d) regs ls fun l => (List.range regs).map (sampleWord xs l))

/-- TEX (R322). -/
def jobTex (w : WordB) : Job :=
  { code := w.toBits 0x10, g := w.hd.g, lanes := .each, u := w.tl.u, mem := true
    refs := vRefs (regNo w.a) 3 ++ vRefs (regNo w.d) 4
    legal := fun _ => tailChecks w.tl [0] true 2 ++
      [c13 (!isV w.d) 47, c13 (!isV w.a) 39, c14 (decide (w.am = 3)) 15, recPast w]
    act := fun v ex => texAct v w ex }
/-- TEX (R322): its step. -/
def execTex (w : WordB) (s : State) : Out State := runJob (jobTex w) s

end Sys2Proof.Machine
end

