-- ==== Sys2Proof/Machine/Stall.lean ====
section
/-! DEFINITION. The stall rule of the regroup unit (R289): a wave's readiness asked of the words themselves. -/

namespace Sys2Proof.Machine

/-- The meaning of an instruction that a wave issues; other steps leave the state. -/
def wordStep (i : Instr) (s : State) : Out State :=
  match i with
  | .clauseHeader h => execClauseHeader h s
  | .iadd w => execIadd w s
  | .isub w => execIsub w s
  | .imul w => execImul w s
  | .imulh w => execImulh w s
  | .imad w => execImad w s
  | .idp4 w => execIdp4 w s
  | .imin w => execImin w s
  | .imax w => execImax w s
  | .shl w => execShl w s
  | .shr w => execShr w s
  | .sar w => execSar w s
  | .fshf w => execFshf w s
  | .bfe w => execBfe w s
  | .bfi w => execBfi w s
  | .popc w => execPopc w s
  | .clz w => execClz w s
  | .ctz w => execCtz w s
  | .brev w => execBrev w s
  | .blut w => execBlut w s
  | .icmp w => execIcmp w s
  | .fcmp w => execFcmp w s
  | .sel w => execSel w s
  | .mov w => execMov w s
  | .movi w => execMovi w s
  | .plut w => execPlut w s
  | .iaddi w => execIaddi w s
  | .imuli w => execImuli w s
  | .andi w => execAndi w s
  | .ori w => execOri w s
  | .xori w => execXori w s
  | .faddi w => execFaddi w s
  | .fmuli w => execFmuli w s
  | .fadd w => execFadd w s
  | .fmul w => execFmul w s
  | .ffma w => execFfma w s
  | .fmin w => execFmin w s
  | .fmax w => execFmax w s
  | .fclass w => execFclass w s
  | .frnd w => execFrnd w s
  | .ffrc w => execFfrc w s
  | .fldexp w => execFldexp w s
  | .frcp w => execFrcp w s
  | .frsq w => execFrsq w s
  | .fsqrt w => execFsqrt w s
  | .fexp2 w => execFexp2 w s
  | .flog2 w => execFlog2 w s
  | .fsin w => execFsin w s
  | .fcos w => execFcos w s
  | .hadd2 w => execHadd2 w s
  | .hmul2 w => execHmul2 w s
  | .hfma2 w => execHfma2 w s
  | .hmin2 w => execHmin2 w s
  | .hmax2 w => execHmax2 w s
  | .hdot2 w => execHdot2 w s
  | .qdot4 w => execQdot4 w s
  | .cvt w => execCvt w s
  | .shfl w => execShfl w s
  | .lpush w => execLpush w s
  | .ballot w => execBallot w s
  | .vote w => execVote w s
  | .wred w => execWred w s
  | .wscan w => execWscan w s
  | .bcast w => execBcast w s
  | .matchLanes w => execMatchLanes w s
  | .bsel w => execBsel w s
  | .pair w => execPair w s
  | .sadd w => execSadd w s
  | .ssub w => execSsub w s
  | .smul w => execSmul w s
  | .smulh w => execSmulh w s
  | .smad w => execSmad w s
  | .smin w => execSmin w s
  | .smax w => execSmax w s
  | .sshl w => execSshl w s
  | .sshr w => execSshr w s
  | .ssar w => execSsar w s
  | .sblut w => execSblut w s
  | .smov w => execSmov w s
  | .smovi w => execSmovi w s
  | .smovh w => execSmovh w s
  | .saddi w => execSaddi w s
  | .scmp w => execScmp w s
  | .slea w => execSlea w s
  | .readlane w => execReadlane w s
  | .writelane w => execWritelane w s
  | .rdsr w => execRdsr w s
  | .wrsr w => execWrsr w s
  | .rdcnt w => execRdcnt w s
  | .ld w => execLd w s
  | .st w => execSt w s
  | .lds w => execLds w s
  | .sts w => execSts w s
  | .sld w => execSld w s
  | .ldc w => execLdc w s
  | .ldb w => execLdb w s
  | .stb w => execStb w s
  | .atom w => execAtom w s
  | .atoms w => execAtoms w s
  | .red w => execRed w s
  | .ldrsv w => execLdrsv w s
  | .stcnd w => execStcnd w s
  | .fence w => execFence w s
  | .arinit w => execArinit w s
  | .arrive w => execArrive w s
  | .arwait w => execArwait w s
  | .qgath w => execQgath w s
  | .qscat w => execQscat w s
  | .qflush w => execQflush w s
  | .qstat w => execQstat w s
  | .alcmake w => execAlcmake w s
  | .alcatt w => execAlcatt w s
  | .alcseal w => execAlcseal w s
  | .alcrel w => execAlcrel w s
  | .alcevict w => execAlcevict w s
  | .alcqry w => execAlcqry w s
  | .launch w => execLaunch w s
  | .pref w => execPref w s
  | .cwb w => execCwb w s
  | .cinv w => execCinv w s
  | .cpy w => execCpy w s
  | .cpyr w => execCpyr w s
  | .cpyf w => execCpyf w s
  | .cpyx w => execCpyx w s
  | .signal w => execSignal w s
  | .fmtd w => execFmtd w s
  | .mma w => execMma w s
  | .mmas w => execMmas w s
  | .mmad w => execMmad w s
  | .mzero w => execMzero w s
  | .mld w => execMld w s
  | .mst w => execMst w s
  | .mscl w => execMscl w s
  | .mdload w => execMdload w s
  | .mprune w => execMprune w s
  | .mdecomp w => execMdecomp w s
  | .ncall w => execNcall w s
  | .wpin w => execWpin w s
  | .wpref w => execWpref w s
  | .wunpin w => execWunpin w s
  | .wstat w => execWstat w s
  | .rtrace w => execRtrace w s
  | .rtget w => execRtget w s
  | .rtaccept w => execRtaccept w s
  | .tex w => execTex w s
  | .texld w => execTexld w s
  | .texq w => execTexq w s
  | .interp w => execInterp w s
  | .ddx w => execDdx w s
  | .ddy w => execDdy w s
  | .expc w => execExpc w s
  | .expz w => execExpz w s
  | .discard w => execDiscard w s
  | .emitv w => execEmitv w s
  | .emitp w => execEmitp w s
  | .bra w => execBra w s
  | .brv w => execBrv w s
  | .jmp w => execJmp w s
  | .jmpi w => execJmpi w s
  | .call w => execCall w s
  | .calli w => execCalli w s
  | .ret w => execRet w s
  | .exit w => execExit w s
  | .yield w => execYield w s
  | .nop w => execNop w s
  | .waitk w => execWaitk w s
  | .trap w => execTrap w s
  | .eret w => execEret w s
  | .bkpt w => execBkpt w s
  | .perfc w => execPerfc w s
  | .csload w => execCsload w s
  | .tlbinv w => execTlbinv w s
  | .halt w => execHalt w s
  | .ctxsave w => execCtxsave w s
  | .ctxrest w => execCtxrest w s
  | _ => .next s

/-- Whether the wave in a slot is ready (R41). -/
def waveReady (s : State) (core slot : Nat) : Bool := readyFor wordStep s core slot

/-- What a wave runs next, as far as the stall rule asks: a wait on tokens, a word that every NCALL must precede (R287), or
another. -/
inductive NextKind where
  | waits
  | calls
  | other'
  deriving DecidableEq, Repr

/-- The kind of a wave's next instruction. -/
def nextKind (v : View) : NextKind :=
  match nextUp v with
  | .header _ => .waits
  | .instr (.waitk _) => .waits
  | .instr (.call _) => .calls
  | .instr (.calli _) => .calls
  | .instr (.ret _) => .calls
  | _ => .other'

/-- A wave as it would stand had the hall's operations finished, but for what does not wait on them alone. -/
def relieveWave (k : NextKind) (toks : BitVec 16) (w : Wave) : Wave :=
  match k with
  | .calls => { w with ops := w.ops.map fun o => if hallOp o then { o with regs := [], win := none } else o }
  | .waits => { w with ops := w.ops.filter fun o => !hallOp o, tokPend := w.tokPend &&& ~~~(toks &&& ~~~w.tokOrph) }
  | .other' => { w with ops := w.ops.filter fun o => !hallOp o }

/-- The state in which the hall's operations would have finished for a wave: tables and queues empty. -/
def relieve (s : State) (core slot : Nat) : State :=
  match viewAt s.dev core slot with
  | none => s
  | some v =>
    let toks := hallTokens (hallOf s.dev v.hall) core slot v.w
    let d1 := modHall s.dev v.hall fun h => { h with mat := [], staging := [], cq := [] }
    { s with dev := modWave d1 core slot (relieveWave (nextKind v) toks) }

/-- Whether a wave is held only by operations of its hall, or waits at issue for a staging buffer (R288, R289). -/
def heldByHall (s : State) (core slot : Nat) : Bool :=
  !waveReady s core slot && waveReady (relieve s core slot) core slot

/-- The waves of a hall with an NCALL outstanding: core and slot. -/
def callers (d : Device) (h : Nat) : List (Nat × Nat) :=
  (List.range 4).flatMap fun i =>
    ((coreOf d (4 * h + i)).waves.filter fun e =>
      (e.2.ops.any fun o => decide (o.kind = .ncall)) && decide (e.2.pos.paths ≠ [])).map fun e => (4 * h + i, e.1)

/-- The stall rule (R289): every open bin is flushed once each caller is held by the hall alone. -/
def flushStalled (s : State) (hall : Nat) : State :=
  let cs := callers s.dev hall
  if cs ≠ [] ∧ cs.all fun c => heldByHall s c.1 c.2 then { s with dev := flushAll s.dev hall } else s

/-- BIN_FLUSH_STALL (R289). -/
def execBinFlushStall (hall : Nat) (s : State) : Out State := .next (flushStalled s hall)

end Sys2Proof.Machine
end

