-- ==== Sys2Proof/Machine/Dispatch.lean ====
section
/-! DEFINITION. The meaning of each instruction: one arm per constructor. -/

namespace Sys2Proof.Machine

/-- The meaning of an instruction in a state. -/
def exec (i : Instr) (s : State) : Host.Outcome State Fault Refusal :=
  match i with
  | .iadd w => Sys2Proof.Machine.execIadd w s
  | .isub w => Sys2Proof.Machine.execIsub w s
  | .imul w => Sys2Proof.Machine.execImul w s
  | .imulh w => Sys2Proof.Machine.execImulh w s
  | .imad w => Sys2Proof.Machine.execImad w s
  | .idp4 w => Sys2Proof.Machine.execIdp4 w s
  | .imin w => Sys2Proof.Machine.execImin w s
  | .imax w => Sys2Proof.Machine.execImax w s
  | .shl w => Sys2Proof.Machine.execShl w s
  | .shr w => Sys2Proof.Machine.execShr w s
  | .sar w => Sys2Proof.Machine.execSar w s
  | .fshf w => Sys2Proof.Machine.execFshf w s
  | .bfe w => Sys2Proof.Machine.execBfe w s
  | .bfi w => Sys2Proof.Machine.execBfi w s
  | .popc w => Sys2Proof.Machine.execPopc w s
  | .clz w => Sys2Proof.Machine.execClz w s
  | .ctz w => Sys2Proof.Machine.execCtz w s
  | .brev w => Sys2Proof.Machine.execBrev w s
  | .blut w => Sys2Proof.Machine.execBlut w s
  | .icmp w => Sys2Proof.Machine.execIcmp w s
  | .fcmp w => Sys2Proof.Machine.execFcmp w s
  | .sel w => Sys2Proof.Machine.execSel w s
  | .mov w => Sys2Proof.Machine.execMov w s
  | .movi w => Sys2Proof.Machine.execMovi w s
  | .plut w => Sys2Proof.Machine.execPlut w s
  | .iaddi w => Sys2Proof.Machine.execIaddi w s
  | .imuli w => Sys2Proof.Machine.execImuli w s
  | .andi w => Sys2Proof.Machine.execAndi w s
  | .ori w => Sys2Proof.Machine.execOri w s
  | .xori w => Sys2Proof.Machine.execXori w s
  | .faddi w => Sys2Proof.Machine.execFaddi w s
  | .fmuli w => Sys2Proof.Machine.execFmuli w s
  | .fadd w => Sys2Proof.Machine.execFadd w s
  | .fmul w => Sys2Proof.Machine.execFmul w s
  | .ffma w => Sys2Proof.Machine.execFfma w s
  | .fmin w => Sys2Proof.Machine.execFmin w s
  | .fmax w => Sys2Proof.Machine.execFmax w s
  | .fclass w => Sys2Proof.Machine.execFclass w s
  | .frnd w => Sys2Proof.Machine.execFrnd w s
  | .ffrc w => Sys2Proof.Machine.execFfrc w s
  | .fldexp w => Sys2Proof.Machine.execFldexp w s
  | .frcp w => Sys2Proof.Machine.execFrcp w s
  | .frsq w => Sys2Proof.Machine.execFrsq w s
  | .fsqrt w => Sys2Proof.Machine.execFsqrt w s
  | .fexp2 w => Sys2Proof.Machine.execFexp2 w s
  | .flog2 w => Sys2Proof.Machine.execFlog2 w s
  | .fsin w => Sys2Proof.Machine.execFsin w s
  | .fcos w => Sys2Proof.Machine.execFcos w s
  | .longAluComplete core slot op => Sys2Proof.Machine.execLongAluComplete core slot op s
  | .hadd2 w => Sys2Proof.Machine.execHadd2 w s
  | .hmul2 w => Sys2Proof.Machine.execHmul2 w s
  | .hfma2 w => Sys2Proof.Machine.execHfma2 w s
  | .hmin2 w => Sys2Proof.Machine.execHmin2 w s
  | .hmax2 w => Sys2Proof.Machine.execHmax2 w s
  | .hdot2 w => Sys2Proof.Machine.execHdot2 w s
  | .qdot4 w => Sys2Proof.Machine.execQdot4 w s
  | .cvt w => Sys2Proof.Machine.execCvt w s
  | .shfl w => Sys2Proof.Machine.execShfl w s
  | .lpush w => Sys2Proof.Machine.execLpush w s
  | .ballot w => Sys2Proof.Machine.execBallot w s
  | .vote w => Sys2Proof.Machine.execVote w s
  | .wred w => Sys2Proof.Machine.execWred w s
  | .wscan w => Sys2Proof.Machine.execWscan w s
  | .bcast w => Sys2Proof.Machine.execBcast w s
  | .matchLanes w => Sys2Proof.Machine.execMatchLanes w s
  | .bsel w => Sys2Proof.Machine.execBsel w s
  | .pair w => Sys2Proof.Machine.execPair w s
  | .sadd w => Sys2Proof.Machine.execSadd w s
  | .ssub w => Sys2Proof.Machine.execSsub w s
  | .smul w => Sys2Proof.Machine.execSmul w s
  | .smulh w => Sys2Proof.Machine.execSmulh w s
  | .smad w => Sys2Proof.Machine.execSmad w s
  | .smin w => Sys2Proof.Machine.execSmin w s
  | .smax w => Sys2Proof.Machine.execSmax w s
  | .sshl w => Sys2Proof.Machine.execSshl w s
  | .sshr w => Sys2Proof.Machine.execSshr w s
  | .ssar w => Sys2Proof.Machine.execSsar w s
  | .sblut w => Sys2Proof.Machine.execSblut w s
  | .smov w => Sys2Proof.Machine.execSmov w s
  | .smovi w => Sys2Proof.Machine.execSmovi w s
  | .smovh w => Sys2Proof.Machine.execSmovh w s
  | .saddi w => Sys2Proof.Machine.execSaddi w s
  | .scmp w => Sys2Proof.Machine.execScmp w s
  | .slea w => Sys2Proof.Machine.execSlea w s
  | .readlane w => Sys2Proof.Machine.execReadlane w s
  | .writelane w => Sys2Proof.Machine.execWritelane w s
  | .rdsr w => Sys2Proof.Machine.execRdsr w s
  | .wrsr w => Sys2Proof.Machine.execWrsr w s
  | .rdcnt w => Sys2Proof.Machine.execRdcnt w s
  | .ld w => Sys2Proof.Machine.execLd w s
  | .st w => Sys2Proof.Machine.execSt w s
  | .lds w => Sys2Proof.Machine.execLds w s
  | .sts w => Sys2Proof.Machine.execSts w s
  | .sld w => Sys2Proof.Machine.execSld w s
  | .ldc w => Sys2Proof.Machine.execLdc w s
  | .ldb w => Sys2Proof.Machine.execLdb w s
  | .stb w => Sys2Proof.Machine.execStb w s
  | .atom w => Sys2Proof.Machine.execAtom w s
  | .atoms w => Sys2Proof.Machine.execAtoms w s
  | .red w => Sys2Proof.Machine.execRed w s
  | .ldrsv w => Sys2Proof.Machine.execLdrsv w s
  | .stcnd w => Sys2Proof.Machine.execStcnd w s
  | .fence w => Sys2Proof.Machine.execFence w s
  | .loadComplete core slot op => Sys2Proof.Machine.execLoadComplete core slot op s
  | .storeAck core slot op => Sys2Proof.Machine.execStoreAck core slot op s
  | .arinit w => Sys2Proof.Machine.execArinit w s
  | .arrive w => Sys2Proof.Machine.execArrive w s
  | .arwait w => Sys2Proof.Machine.execArwait w s
  | .qgath w => Sys2Proof.Machine.execQgath w s
  | .qscat w => Sys2Proof.Machine.execQscat w s
  | .qflush w => Sys2Proof.Machine.execQflush w s
  | .qstat w => Sys2Proof.Machine.execQstat w s
  | .queueGatherFetch core queue => Sys2Proof.Machine.execQueueGatherFetch core queue s
  | .alcmake w => Sys2Proof.Machine.execAlcmake w s
  | .alcatt w => Sys2Proof.Machine.execAlcatt w s
  | .alcattComplete core slot op => Sys2Proof.Machine.execAlcattComplete core slot op s
  | .alcseal w => Sys2Proof.Machine.execAlcseal w s
  | .alcrel w => Sys2Proof.Machine.execAlcrel w s
  | .alcevict w => Sys2Proof.Machine.execAlcevict w s
  | .alcqry w => Sys2Proof.Machine.execAlcqry w s
  | .alcoveEvictDone entry => Sys2Proof.Machine.execAlcoveEvictDone entry s
  | .alcoveRefillDone entry => Sys2Proof.Machine.execAlcoveRefillDone entry s
  | .launch w => Sys2Proof.Machine.execLaunch w s
  | .pref w => Sys2Proof.Machine.execPref w s
  | .cwb w => Sys2Proof.Machine.execCwb w s
  | .cinv w => Sys2Proof.Machine.execCinv w s
  | .cpy w => Sys2Proof.Machine.execCpy w s
  | .cpyr w => Sys2Proof.Machine.execCpyr w s
  | .cpyf w => Sys2Proof.Machine.execCpyf w s
  | .cpyx w => Sys2Proof.Machine.execCpyx w s
  | .signal w => Sys2Proof.Machine.execSignal w s
  | .copyOpStart hall queue => Sys2Proof.Machine.execCopyOpStart hall queue s
  | .copyUnitLand hall queue => Sys2Proof.Machine.execCopyUnitLand hall queue s
  | .copyOpComplete hall queue => Sys2Proof.Machine.execCopyOpComplete hall queue s
  | .signalPerform hall queue => Sys2Proof.Machine.execSignalPerform hall queue s
  | .fmtd w => Sys2Proof.Machine.execFmtd w s
  | .mma w => Sys2Proof.Machine.execMma w s
  | .mmas w => Sys2Proof.Machine.execMmas w s
  | .mmad w => Sys2Proof.Machine.execMmad w s
  | .mzero w => Sys2Proof.Machine.execMzero w s
  | .mld w => Sys2Proof.Machine.execMld w s
  | .mst w => Sys2Proof.Machine.execMst w s
  | .mscl w => Sys2Proof.Machine.execMscl w s
  | .mdload w => Sys2Proof.Machine.execMdload w s
  | .mprune w => Sys2Proof.Machine.execMprune w s
  | .mdecomp w => Sys2Proof.Machine.execMdecomp w s
  | .matrixGrant hall => Sys2Proof.Machine.execMatrixGrant hall s
  | .matrixEntryComplete hall op => Sys2Proof.Machine.execMatrixEntryComplete hall op s
  | .ncall w => Sys2Proof.Machine.execNcall w s
  | .binFlushAge hall bin => Sys2Proof.Machine.execBinFlushAge hall bin s
  | .binFlushStall hall => Sys2Proof.Machine.execBinFlushStall hall s
  | .regroupEntryPost hall => Sys2Proof.Machine.execRegroupEntryPost hall s
  | .regroupPassComplete hall op => Sys2Proof.Machine.execRegroupPassComplete hall op s
  | .wpin w => Sys2Proof.Machine.execWpin w s
  | .wpref w => Sys2Proof.Machine.execWpref w s
  | .wunpin w => Sys2Proof.Machine.execWunpin w s
  | .wstat w => Sys2Proof.Machine.execWstat w s
  | .rtrace w => Sys2Proof.Machine.execRtrace w s
  | .rtget w => Sys2Proof.Machine.execRtget w s
  | .rtaccept w => Sys2Proof.Machine.execRtaccept w s
  | .rayQueryStop core slot lane => Sys2Proof.Machine.execRayQueryStop core slot lane s
  | .tex w => Sys2Proof.Machine.execTex w s
  | .texld w => Sys2Proof.Machine.execTexld w s
  | .texq w => Sys2Proof.Machine.execTexq w s
  | .interp w => Sys2Proof.Machine.execInterp w s
  | .ddx w => Sys2Proof.Machine.execDdx w s
  | .ddy w => Sys2Proof.Machine.execDdy w s
  | .expc w => Sys2Proof.Machine.execExpc w s
  | .expz w => Sys2Proof.Machine.execExpz w s
  | .discard w => Sys2Proof.Machine.execDiscard w s
  | .emitv w => Sys2Proof.Machine.execEmitv w s
  | .emitp w => Sys2Proof.Machine.execEmitp w s
  | .rasterTriangle gallery => Sys2Proof.Machine.execRasterTriangle gallery s
  | .fragmentProcess grid index => Sys2Proof.Machine.execFragmentProcess grid index s
  | .drawFlush grid => Sys2Proof.Machine.execDrawFlush grid s
  | .unitImageSwitch kind unit => Sys2Proof.Machine.execUnitImageSwitch kind unit s
  | .bra w => Sys2Proof.Machine.execBra w s
  | .brv w => Sys2Proof.Machine.execBrv w s
  | .jmp w => Sys2Proof.Machine.execJmp w s
  | .jmpi w => Sys2Proof.Machine.execJmpi w s
  | .call w => Sys2Proof.Machine.execCall w s
  | .calli w => Sys2Proof.Machine.execCalli w s
  | .ret w => Sys2Proof.Machine.execRet w s
  | .exit w => Sys2Proof.Machine.execExit w s
  | .yield w => Sys2Proof.Machine.execYield w s
  | .nop w => Sys2Proof.Machine.execNop w s
  | .waitk w => Sys2Proof.Machine.execWaitk w s
  | .trap w => Sys2Proof.Machine.execTrap w s
  | .eret w => Sys2Proof.Machine.execEret w s
  | .bkpt w => Sys2Proof.Machine.execBkpt w s
  | .clauseHeader h => Sys2Proof.Machine.execClauseHeader h s
  | .fairnessTimer core slot => Sys2Proof.Machine.execFairnessTimer core slot s
  | .reservationDeferExpire core slot => Sys2Proof.Machine.execReservationDeferExpire core slot s
  | .progressWatchdog core slot => Sys2Proof.Machine.execProgressWatchdog core slot s
  | .perfc w => Sys2Proof.Machine.execPerfc w s
  | .perfcComplete core slot op => Sys2Proof.Machine.execPerfcComplete core slot op s
  | .csload w => Sys2Proof.Machine.execCsload w s
  | .csloadComplete core slot op => Sys2Proof.Machine.execCsloadComplete core slot op s
  | .tlbinv w => Sys2Proof.Machine.execTlbinv w s
  | .tlbinvComplete core slot op => Sys2Proof.Machine.execTlbinvComplete core slot op s
  | .halt w => Sys2Proof.Machine.execHalt w s
  | .ctxsave w => Sys2Proof.Machine.execCtxsave w s
  | .ctxrest w => Sys2Proof.Machine.execCtxrest w s
  | .pageWalkComplete walk => Sys2Proof.Machine.execPageWalkComplete walk s
  | .gridDispatchBegin queue => Sys2Proof.Machine.execGridDispatchBegin queue s
  | .blockPlace queue => Sys2Proof.Machine.execBlockPlace queue s
  | .blockRetire block => Sys2Proof.Machine.execBlockRetire block s
  | .gridComplete grid => Sys2Proof.Machine.execGridComplete grid s
  | .streamWaitCheck queue => Sys2Proof.Machine.execStreamWaitCheck queue s
  | .dfeAccessRetry queue => Sys2Proof.Machine.execDfeAccessRetry queue s
  | .starvedGridReport grid => Sys2Proof.Machine.execStarvedGridReport grid s
  | .launchEnqueue queue word => Sys2Proof.Machine.execLaunchEnqueue queue word s
  | .queueReset queue => Sys2Proof.Machine.execQueueReset queue s
  | .preemptRequest ctx value => Sys2Proof.Machine.execPreemptRequest ctx value s
  | .preemptHalt ctx => Sys2Proof.Machine.execPreemptHalt ctx s
  | .preemptSave ctx => Sys2Proof.Machine.execPreemptSave ctx s
  | .contextResume ctx => Sys2Proof.Machine.execContextResume ctx s
  | .blockRestore ctx index => Sys2Proof.Machine.execBlockRestore ctx index s
  | .hallOwnerWrite hall value => Sys2Proof.Machine.execHallOwnerWrite hall value s
  | .hallOwnerChange hall => Sys2Proof.Machine.execHallOwnerChange hall s
  | .fresume ctx va => Sys2Proof.Machine.execFresume ctx va s
  | .waveResume core slot => Sys2Proof.Machine.execWaveResume core slot s
  | .coolantGrantWrite zone value => Sys2Proof.Machine.execCoolantGrantWrite zone value s
  | .ibudWrite hall value => Sys2Proof.Machine.execIbudWrite hall value s
  | .windowAccess a => Sys2Proof.Machine.execWindowAccess a s
  | .registerWrite addr value => Sys2Proof.Machine.execRegisterWrite addr value s
  | .controlIntervalBoundary samples outside => Sys2Proof.Machine.execControlIntervalBoundary samples outside s
  | .voltageSlewEnd flight => Sys2Proof.Machine.execVoltageSlewEnd flight s
  | .clockHop hall => Sys2Proof.Machine.execClockHop hall s
  | .clockHopEnd hall => Sys2Proof.Machine.execClockHopEnd hall s
  | .landingSample flight r => Sys2Proof.Machine.execLandingSample flight r s
  | .droopDetect hall => Sys2Proof.Machine.execDroopDetect hall s
  | .droopClear hall cycles => Sys2Proof.Machine.execDroopClear hall cycles s
  | .valveStep zone r => Sys2Proof.Machine.execValveStep zone r s
  | .coolantEvent zone r => Sys2Proof.Machine.execCoolantEvent zone r s
  | .coolantEvacuation zone => Sys2Proof.Machine.execCoolantEvacuation zone s
  | .evacuationEnd zone r => Sys2Proof.Machine.execEvacuationEnd zone r s
  | .overheatStop zone => Sys2Proof.Machine.execOverheatStop zone s
  | .ageingReplan hall margins => Sys2Proof.Machine.execAgeingReplan hall margins s
  | .matrixEngineHang hall => Sys2Proof.Machine.execMatrixEngineHang hall s
  | .matrixEngineRestart hall => Sys2Proof.Machine.execMatrixEngineRestart hall s
  | .copyQueueReset hall queue => Sys2Proof.Machine.execCopyQueueReset hall queue s
  | .unitReload kind unit => Sys2Proof.Machine.execUnitReload kind unit s
  | .decoderWatchdog core slot va => Sys2Proof.Machine.execDecoderWatchdog core slot va s
  | .remoteTimeout r => Sys2Proof.Machine.execRemoteTimeout r s
  | .remoteRequest r => Sys2Proof.Machine.execRemoteRequest r s
  | .scrub d => Sys2Proof.Machine.execScrub d s
  | .flitCrcReplay port flits => Sys2Proof.Machine.execFlitCrcReplay port flits s
  | .portRetrain port lanes => Sys2Proof.Machine.execPortRetrain port lanes s
  | .portRemove port => Sys2Proof.Machine.execPortRemove port s
  | .moduleBoot images => Sys2Proof.Machine.execModuleBoot images s
  | .attestationRequest nonce => Sys2Proof.Machine.execAttestationRequest nonce s
  | .moduleNumberAssign number => Sys2Proof.Machine.execModuleNumberAssign number s
  | .captureRead addr len => Sys2Proof.Machine.execCaptureRead addr len s
  | .checkpoint seq failed => Sys2Proof.Machine.execCheckpoint seq failed s
  | .checkpointRestore => Sys2Proof.Machine.execCheckpointRestore s
  | .weightFillComplete hall op => Sys2Proof.Machine.execWeightFillComplete hall op s
  | .queryComplete core slot op => Sys2Proof.Machine.execQueryComplete core slot op s
  | .contextRecordDone core slot op => Sys2Proof.Machine.execContextRecordDone core slot op s
  | .portTrained port lanes => Sys2Proof.Machine.execPortTrained port lanes s
  | .unitReloadEnd kind unit => Sys2Proof.Machine.execUnitReloadEnd kind unit s

end Sys2Proof.Machine
end

