-- ==== Sys2Proof/Machine/Place.lean ====
section
/-! DEFINITION. A wave placed by hand, with one instruction where it fetches next: the load of a program that
`State.withFetchWord` stands for (log 1). -/

namespace Sys2Proof.Machine

/-- Where the placed wave's code lies: a virtual page mapped to the same physical page of device memory. -/
def placeVa : Nat := 0x10000

/-- The launch parameter block of the placed wave: one block of one 32-wide wave, the smallest stack. -/
def placeLpb : Lpb :=
  { va := 0, entry := BitVec.ofNat 48 placeVa, gx := 1, gy := 1, gz := 1, wavew := 1, nwaves := 0, order := 0, swz := 0
    prio := 0, perf := 4, acct := 0, stack := 16, frame0 := 0, scratch := 0, grains := 0, current := 0, naff := 0, recn := 0
    recbase := 0, wstbase := 0, args := 0, sigaddr := 0, aff := [] }

/-- A draw with nothing in it. -/
def blankDraw : Draw := { tris := [], pending := [], pixelBlocks := 0, frags := [], changed := [], reported := false, tried := false }

/-- The grid of the placed wave. -/
def placeGrid' : Grid :=
  { queue := 0, ctx := 0, seq := 1, lpb := placeLpb, nextPos := 1, undone := [], retired := 0, bad := false, refCore := 0
    cores := [0], shadow := [], waited := 0, refused := false, tried := none, draw := blankDraw, parent := none }

/-- The block of the placed wave, on core 0 from slot 0. -/
def placeBlock : Block :=
  { grid := 1, ctx := 0, core := 0, slot0 := 0, nwaves := 1, linear := 0, dpos := 0, ref := 0, sgran := 0, ngran := 0, freed := []
    acct := 0, mmap := 0, bregs := [], bwritten := 0, bnotes := [], preq := 4, grains := 0, current := 0, attach := [], pixel := false, ended := false }

/-- The placed wave at the clause of its code, with the clause's header in force or still to be issued. -/
def placeWave (hdr : Option W64) : Wave :=
  let w := startWave 1 placeBlock placeGrid' 1 0 0 0 0
  { w with pos := { w.pos with hdr := hdr } }

/-- The translation of the placed wave's code page. -/
def placeTlb : TlbEntry :=
  { ctx := 0, page := placeVa, bits := 16, pa := placeVa, kind := 0, mt := 0, priv := false, x := true, w := false, rd := true
    dirty := false }

/-- A device with the placed wave alone on core 0 and its code in memory. -/
def placeDevice (d : Device) (code : List Byte) (hdr : Option W64) : Device :=
  let k := coreOf d 0
  { d with
    st := { d.st with mem := memPut d.st.mem placeVa code }
    grids := tblSet d.grids 1 placeGrid'
    blocks := tblSet d.blocks 1 placeBlock
    cores := tblSet d.cores 0 { k with waves := [(0, placeWave hdr)], tlb := placeTlb :: k.tlb, last := 0, busy := 0 } }

end Sys2Proof.Machine
end

