-- ==== Sys2Proof/Machine/Round.lean ====
section
/-! DEFINITION. The die's own steps that may be due, in the order they follow one another in where the input names none
(log 2). -/

namespace Sys2Proof.Machine

/-- The step of an outstanding operation that completes it. -/
def opMove (core slot : Nat) (o : LongOp) : Option Instr :=
  match o.kind with
  | .alu => some (.longAluComplete core slot o.id)
  | .load => some (.loadComplete core slot o.id)
  | .store => some (.storeAck core slot o.id)
  | .cwb => some (.storeAck core slot o.id)
  | .flush => some (.storeAck core slot o.id)
  | .query => some (.queryComplete core slot o.id)
  | .perfc => some (.perfcComplete core slot o.id)
  | .alcatt => some (.alcattComplete core slot o.id)
  | .tlbinv => some (.tlbinvComplete core slot o.id)
  | .csload => some (.csloadComplete core slot o.id)
  | .ctxSave => some (.contextRecordDone core slot o.id)
  | .ctxRest => some (.contextRecordDone core slot o.id)
  | .fill => some (.weightFillComplete (hallOfCore core) (o.args.headD 0).toNat)
  | .decomp => none
  | .ncall => none
  | .ray => none
  | .evict => none

/-- The agents' steps that concern a wave. -/
def waveMoves (core slot : Nat) (w : Wave) : List Instr :=
  (w.ops.filterMap (opMove core slot)) ++
  (w.gfx.rays.filterMap fun e => if e.2.flying then some (.rayQueryStop core slot e.1) else none) ++
  [.fairnessTimer core slot, .reservationDeferExpire core slot, .progressWatchdog core slot]

/-- The agents' steps that concern a core. -/
def coreMoves (c : Nat) (k : Core) : List Instr :=
  (k.waves.flatMap fun e => waveMoves c e.1 e.2) ++ (k.queues.map fun e => .queueGatherFetch c e.1)

/-- The engines' steps on a hall. -/
def hallMoves (h : Nat) (x : Hall) : List Instr :=
  (x.cq.flatMap fun e => [.copyOpStart h e.1, .copyUnitLand h e.1, .copyOpComplete h e.1, .signalPerform h e.1]) ++
  [.matrixGrant h, .regroupEntryPost h, .binFlushStall h] ++
  (x.mat.flatMap fun e => [.matrixEntryComplete h e.id, .regroupPassComplete h e.id]) ++
  ((List.range x.bins.length).map fun i => .binFlushAge h i) ++ [.clockHop h, .clockHopEnd h, .hallOwnerChange h]

/-- The DFE's steps on a grid. -/
def gridMoves (g : Nat) (x : Grid) : List Instr :=
  (List.range 8).map (fun y => .rasterTriangle y) ++ ((List.range x.draw.frags.length).map fun i => .fragmentProcess g i) ++
  [.drawFlush g, .starvedGridReport g, .gridComplete g]

/-- The steps of a context's pre-emption and return. -/
def ctxMoves (c : Nat) (k : Ctx) : List Instr :=
  (if k.req then [.preemptHalt c, .preemptSave c] else []) ++
  (if k.resume then .contextResume c :: (List.range k.records.length).map fun i => .blockRestore c i else [])

/-- The steps of the launch queues. -/
def queueMoves (d : Device) : List Instr :=
  d.queues.flatMap fun e => [.gridDispatchBegin e.1, .streamWaitCheck e.1, .dfeAccessRetry e.1, .blockPlace e.1]

/-- The steps of page walks and of the flights' supplies. -/
def walkMoves (d : Device) : List Instr :=
  (d.walks.map fun e => .pageWalkComplete e.1) ++ (d.flights.map fun e => .voltageSlewEnd e.1)

/-- The steps of alcoves that move. -/
def alcoveMoves (d : Device) : List Instr :=
  d.alcoves.flatMap fun e => if e.2.busy then [.alcoveEvictDone e.1, .alcoveRefillDone e.1] else []

/-- The units that work waits for whose image they do not run (R308). -/
def unitsDue (d : Device) : List (Nat × Nat) :=
  if d.images = [] then []
  else ((List.range 5).flatMap fun k => (List.range Config.halls).map fun u => (k, u)).filter fun e =>
    match unitWork d e.1 e.2 with | some c => decide (unitImage d e.1 e.2 ≠ imageOf d e.1 c) | none => false

/-- The steps of the units that run images. -/
def unitMoves (d : Device) : List Instr :=
  (d.units.map fun e => .unitReloadEnd e.kind e.unit) ++ (unitsDue d).map fun e => .unitImageSwitch e.1 e.2

/-- The turns of the application cores, once boot has released them (R345, R355). -/
def apcMoves (pl : Plant) : List Move := if pl.apcUp then (List.range 16).map Move.apc else []

/-- The die's own steps, each once, in a fixed order (log 2): an input that names no move stands for this round. -/
def roundMoves (d : Device) : List Move :=
  let evs : List Instr := [d.cores.flatMap fun e => coreMoves e.1 e.2, walkMoves d, d.halls.flatMap fun e => hallMoves e.1 e.2,
    alcoveMoves d, queueMoves d, d.blocks.map fun e => .blockRetire e.1, d.grids.flatMap fun e => gridMoves e.1 e.2,
    d.ctxs.flatMap fun e => ctxMoves e.1 e.2, unitMoves d].flatten
  let tiles := d.halls.flatMap fun e => (e.2.mat.filter fun m => m.fetching).map fun m => Move.tileAnswer e.1 m.id
  (evs.map Move.event) ++ tiles ++ (d.cores.map fun e => .core e.1) ++ (d.halls.map fun e => .hallTime e.1 1) ++ [.fabricTime 1]

end Sys2Proof.Machine
end

