-- ==== Sys2Proof/Machine/Step.lean ====
section
/-! DEFINITION. The step of the machine (R41; log 2), and the placement of one instruction where it fetches next (log 1). -/

namespace Sys2Proof.Machine

/-- A step: the next move of the input, or of the die's own round where the input names none (log 2). -/
def step (s : State) : Host.Outcome State Fault Refusal :=
  match s.moves with
  | m :: t => moveStep exec m { s with moves := t }
  | [] =>
    match apcMoves s.plant ++ roundMoves s.dev with
    | m :: t => moveStep exec m { s with moves := t }
    | [] => .next s

/-- The state with an instruction of `nbits` bits where core 0 fetches next: its clause header and, above 64 bits, its word
with the header in force; the next move is core 0's (log 1). -/
def State.withFetchWord (s : State) (nbits w : Nat) : State :=
  let hdr := if nbits ≤ 64 then none else some (BitVec.ofNat 64 w)
  { s with dev := placeDevice s.dev (leBytes 144 w) hdr, moves := [.core 0] }

end Sys2Proof.Machine
end

