-- ==== Sys2Proof/Machine/Jobs.lean ====
section
/-! DEFINITION. The word of each instruction as the shared course of words sees it (R41, R68, R385, R395). -/

namespace Sys2Proof.Machine

/-- The job of an instruction word; none for the clause header and the steps that are no words. -/
def wordJob : Instr → Option Job
  | .iadd w => some (jobIadd w)
  | .isub w => some (jobIsub w)
  | .imul w => some (jobImul w)
  | .imulh w => some (jobImulh w)
  | .imad w => some (jobImad w)
  | .idp4 w => some (jobIdp4 w)
  | .imin w => some (jobImin w)
  | .imax w => some (jobImax w)
  | .shl w => some (jobShl w)
  | .shr w => some (jobShr w)
  | .sar w => some (jobSar w)
  | .fshf w => some (jobFshf w)
  | .bfe w => some (jobBfe w)
  | .bfi w => some (jobBfi w)
  | .popc w => some (jobPopc w)
  | .clz w => some (jobClz w)
  | .ctz w => some (jobCtz w)
  | .brev w => some (jobBrev w)
  | .blut w => some (jobBlut w)
  | .icmp w => some (jobIcmp w)
  | .fcmp w => some (jobFcmp w)
  | .sel w => some (jobSel w)
  | .mov w => some (jobMov w)
  | .movi w => some (jobMovi w)
  | .plut w => some (jobPlut w)
  | .iaddi w => some (jobIaddi w)
  | .imuli w => some (jobImuli w)
  | .andi w => some (jobAndi w)
  | .ori w => some (jobOri w)
  | .xori w => some (jobXori w)
  | .faddi w => some (jobFaddi w)
  | .fmuli w => some (jobFmuli w)
  | .fadd w => some (jobFadd w)
  | .fmul w => some (jobFmul w)
  | .ffma w => some (jobFfma w)
  | .fmin w => some (jobFmin w)
  | .fmax w => some (jobFmax w)
  | .fclass w => some (jobFclass w)
  | .frnd w => some (jobFrnd w)
  | .ffrc w => some (jobFfrc w)
  | .fldexp w => some (jobFldexp w)
  | .frcp w => some (jobFrcp w)
  | .frsq w => some (jobFrsq w)
  | .fsqrt w => some (jobFsqrt w)
  | .fexp2 w => some (jobFexp2 w)
  | .flog2 w => some (jobFlog2 w)
  | .fsin w => some (jobFsin w)
  | .fcos w => some (jobFcos w)
  | .hadd2 w => some (jobHadd2 w)
  | .hmul2 w => some (jobHmul2 w)
  | .hfma2 w => some (jobHfma2 w)
  | .hmin2 w => some (jobHmin2 w)
  | .hmax2 w => some (jobHmax2 w)
  | .hdot2 w => some (jobHdot2 w)
  | .qdot4 w => some (jobQdot4 w)
  | .cvt w => some (jobCvt w)
  | .shfl w => some (jobShfl w)
  | .lpush w => some (jobLpush w)
  | .ballot w => some (jobBallot w)
  | .vote w => some (jobVote w)
  | .wred w => some (jobWred w)
  | .wscan w => some (jobWscan w)
  | .bcast w => some (jobBcast w)
  | .matchLanes w => some (jobMatchLanes w)
  | .bsel w => some (jobBsel w)
  | .pair w => some (jobPair w)
  | .sadd w => some (jobSadd w)
  | .ssub w => some (jobSsub w)
  | .smul w => some (jobSmul w)
  | .smulh w => some (jobSmulh w)
  | .smad w => some (jobSmad w)
  | .smin w => some (jobSmin w)
  | .smax w => some (jobSmax w)
  | .sshl w => some (jobSshl w)
  | .sshr w => some (jobSshr w)
  | .ssar w => some (jobSsar w)
  | .sblut w => some (jobSblut w)
  | .smov w => some (jobSmov w)
  | .smovi w => some (jobSmovi w)
  | .smovh w => some (jobSmovh w)
  | .saddi w => some (jobSaddi w)
  | .scmp w => some (jobScmp w)
  | .slea w => some (jobSlea w)
  | .readlane w => some (jobReadlane w)
  | .writelane w => some (jobWritelane w)
  | .rdsr w => some (jobRdsr w)
  | .wrsr w => some (jobWrsr w)
  | .rdcnt w => some (jobRdcnt w)
  | .ld w => some (jobLd w)
  | .st w => some (jobSt w)
  | .lds w => some (jobLds w)
  | .sts w => some (jobSts w)
  | .sld w => some (jobSld w)
  | .ldc w => some (jobLdc w)
  | .ldb w => some (jobLdb w)
  | .stb w => some (jobStb w)
  | .atom w => some (jobAtom w)
  | .atoms w => some (jobAtoms w)
  | .red w => some (jobRed w)
  | .ldrsv w => some (jobLdrsv w)
  | .stcnd w => some (jobStcnd w)
  | .fence w => some (jobFence w)
  | .arinit w => some (jobArinit w)
  | .arrive w => some (jobArrive w)
  | .arwait w => some (jobArwait w)
  | .qgath w => some (jobQgath w)
  | .qscat w => some (jobQscat w)
  | .qflush w => some (jobQflush w)
  | .qstat w => some (jobQstat w)
  | .alcmake w => some (jobAlcmake w)
  | .alcatt w => some (jobAlcatt w)
  | .alcseal w => some (jobAlcseal w)
  | .alcrel w => some (jobAlcrel w)
  | .alcevict w => some (jobAlcevict w)
  | .alcqry w => some (jobAlcqry w)
  | .launch w => some (jobLaunch w)
  | .pref w => some (jobPref w)
  | .cwb w => some (jobCwb w)
  | .cinv w => some (jobCinv w)
  | .cpy w => some (jobCpy w)
  | .cpyr w => some (jobCpyr w)
  | .cpyf w => some (jobCpyf w)
  | .cpyx w => some (jobCpyx w)
  | .signal w => some (jobSignal w)
  | .fmtd w => some (jobFmtd w)
  | .mma w => some (jobMma w)
  | .mmas w => some (jobMmas w)
  | .mmad w => some (jobMmad w)
  | .mzero w => some (jobMzero w)
  | .mld w => some (jobMld w)
  | .mst w => some (jobMst w)
  | .mscl w => some (jobMscl w)
  | .mdload w => some (jobMdload w)
  | .mprune w => some (jobMprune w)
  | .mdecomp w => some (jobMdecomp w)
  | .ncall w => some (jobNcall w)
  | .wpin w => some (jobWpin w)
  | .wpref w => some (jobWpref w)
  | .wunpin w => some (jobWunpin w)
  | .wstat w => some (jobWstat w)
  | .rtrace w => some (jobRtrace w)
  | .rtget w => some (jobRtget w)
  | .rtaccept w => some (jobRtaccept w)
  | .tex w => some (jobTex w)
  | .texld w => some (jobTexld w)
  | .texq w => some (jobTexq w)
  | .interp w => some (jobInterp w)
  | .ddx w => some (jobDdx w)
  | .ddy w => some (jobDdy w)
  | .expc w => some (jobExpc w)
  | .expz w => some (jobExpz w)
  | .discard w => some (jobDiscard w)
  | .emitv w => some (jobEmitv w)
  | .emitp w => some (jobEmitp w)
  | .bra w => some (jobBra w)
  | .brv w => some (jobBrv w)
  | .jmp w => some (jobJmp w)
  | .jmpi w => some (jobJmpi w)
  | .call w => some (jobCall w)
  | .calli w => some (jobCalli w)
  | .ret w => some (jobRet w)
  | .exit w => some (jobExit w)
  | .yield w => some (jobYield w)
  | .nop w => some (jobNop w)
  | .waitk w => some (jobWaitk w)
  | .trap w => some (jobTrap w)
  | .eret w => some (jobEret w)
  | .bkpt w => some (jobBkpt w)
  | .perfc w => some (jobPerfc w)
  | .csload w => some (jobCsload w)
  | .tlbinv w => some (jobTlbinv w)
  | .halt w => some (jobHalt w)
  | .ctxsave w => some (jobCtxsave w)
  | .ctxrest w => some (jobCtxrest w)
  | .longAluComplete _ _ _ => none
  | .loadComplete _ _ _ => none
  | .storeAck _ _ _ => none
  | .queueGatherFetch _ _ => none
  | .alcattComplete _ _ _ => none
  | .alcoveEvictDone _ => none
  | .alcoveRefillDone _ => none
  | .copyOpStart _ _ => none
  | .copyUnitLand _ _ => none
  | .copyOpComplete _ _ => none
  | .signalPerform _ _ => none
  | .matrixGrant _ => none
  | .matrixEntryComplete _ _ => none
  | .binFlushAge _ _ => none
  | .binFlushStall _ => none
  | .regroupEntryPost _ => none
  | .regroupPassComplete _ _ => none
  | .rayQueryStop _ _ _ => none
  | .rasterTriangle _ => none
  | .fragmentProcess _ _ => none
  | .drawFlush _ => none
  | .unitImageSwitch _ _ => none
  | .clauseHeader _ => none
  | .fairnessTimer _ _ => none
  | .reservationDeferExpire _ _ => none
  | .progressWatchdog _ _ => none
  | .perfcComplete _ _ _ => none
  | .csloadComplete _ _ _ => none
  | .tlbinvComplete _ _ _ => none
  | .pageWalkComplete _ => none
  | .gridDispatchBegin _ => none
  | .blockPlace _ => none
  | .blockRetire _ => none
  | .gridComplete _ => none
  | .streamWaitCheck _ => none
  | .dfeAccessRetry _ => none
  | .starvedGridReport _ => none
  | .launchEnqueue _ _ => none
  | .queueReset _ => none
  | .preemptRequest _ _ => none
  | .preemptHalt _ => none
  | .preemptSave _ => none
  | .contextResume _ => none
  | .blockRestore _ _ => none
  | .hallOwnerWrite _ _ => none
  | .hallOwnerChange _ => none
  | .fresume _ _ => none
  | .waveResume _ _ => none
  | .coolantGrantWrite _ _ => none
  | .ibudWrite _ _ => none
  | .windowAccess _ => none
  | .registerWrite _ _ => none
  | .controlIntervalBoundary _ _ => none
  | .voltageSlewEnd _ => none
  | .clockHop _ => none
  | .clockHopEnd _ => none
  | .landingSample _ _ => none
  | .droopDetect _ => none
  | .droopClear _ _ => none
  | .valveStep _ _ => none
  | .coolantEvent _ _ => none
  | .coolantEvacuation _ => none
  | .evacuationEnd _ _ => none
  | .overheatStop _ => none
  | .ageingReplan _ _ => none
  | .matrixEngineHang _ => none
  | .matrixEngineRestart _ => none
  | .copyQueueReset _ _ => none
  | .unitReload _ _ => none
  | .decoderWatchdog _ _ _ => none
  | .remoteTimeout _ => none
  | .remoteRequest _ => none
  | .scrub _ => none
  | .flitCrcReplay _ _ => none
  | .portRetrain _ _ => none
  | .portRemove _ => none
  | .moduleBoot _ => none
  | .attestationRequest _ => none
  | .moduleNumberAssign _ => none
  | .captureRead _ _ => none
  | .checkpoint _ _ => none
  | .checkpointRestore => none
  | .weightFillComplete _ _ => none
  | .queryComplete _ _ _ => none
  | .contextRecordDone _ _ _ => none
  | .portTrained _ _ => none
  | .unitReloadEnd _ _ => none

end Sys2Proof.Machine
end

