-- ==== Sys2Proof/Safety.lean ====
section
/-! DEFINITION. What the claims speak of: when a word issues (R41, R68, R385, R386, R395), the state it leaves, and the
plant's invariant (R342, R355, R443). -/

namespace Sys2Proof.Machine

/-- A word that issues on its wave's turn: the wave is selected and held by nothing (R41, R234, R238), the word has an
executing lane (R385), breaks no rule of its encoding or use (R386, R395), and its token is idle (R68). -/
structure Issues (j : Job) (s : State) (v : View) (ex : Mask) : Prop where
  sel : view s.dev = some v
  noWait : v.w.arw = none
  free : jobHeld j v = false
  lanes : j.exec v = ex
  someLane : ex ≠ 0
  legal : firstBad (sharedChecks j v ++ j.legal v) = none
  early : j.early v ex = none
  token : ∀ k, j.tok = some k → v.w.tokPend.getLsbD k.toNat = false ∧ v.w.tokOrph.getLsbD k.toNat = false

/-- The state after a word of `v`'s wave that left the die as `d`: counted, and its wave moved on. -/
def Issued (s : State) (v : View) (d : Device) (pos : Pos) : State := { s with dev := finish v d pos }

/-- The instruction is a word that issues (R41, R68, R385, R386, R395). -/
def Runs (i : Instr) (s : State) (v : View) (ex : Mask) : Prop := ∃ j, wordJob i = some j ∧ Issues j s v ex

/-- The word completes: the die is left as `t`, the word is counted, and its wave goes on to the clause's next word. -/
def Goes (i : Instr) (s : State) (v : View) (t : Device) : Prop := exec i s = .next (Issued s v t .onward)

/-- The flags that a word raises: of every executing lane, or once (R118). -/
def wordFlags (v : View) (once : Bool) (ex : Mask) (res : Nat → W32 × Flags) : Flags :=
  if once then (res 0).2 else orFlags ((lanesOf v.width ex).map fun l => (res l).2)

/-- `t` is the die in which an ALU word's results stand (R67, R118, R165): the entries that its sources popped are gone,
its flags collected, and its destination written; a queue takes one entry, 0 in the lanes that do not execute. -/
def Lands (v : View) (once : Bool) (ex : Mask) (d : Operand) (pops : List Operand) (res : Nat → W32 × Flags)
    (t : Device) : Prop :=
  let d0 := v.put (popApply v v.d pops) (addFlags (wordFlags v once ex res))
  match d with
  | .q j => pushEntry v d0 j (fun l => if ex.getLsbD l then (res l).1 else 0) = .done t
  | d => t = putWrites v d0 (dstWrites v d ex fun l => (res l).1)

/-- `t` is the die in which a long-latency ALU word's results are pending (R149, R166); a queue takes its entry at once. -/
def LandsLater (v : View) (once : Bool) (ex : Mask) (d : Operand) (la : BitVec 4) (pops : List Operand)
    (res : Nat → W32 × Flags) (t : Device) : Prop :=
  let d0 := popApply v v.d pops
  let fl := wordFlags v once ex res
  match d with
  | .q j => pushEntry v (v.put d0 (addFlags fl)) j (fun l => if ex.getLsbD l then (res l).1 else 0) = .done t
  | d => t = v.put d0 (pushOp .alu (windowOf (some la)) (dstWrites v d ex fun l => (res l).1) none fl [])

/-- The byte ranges that a store of `bs` at offset `off` of the 256-byte block of `va` writes: the block's stored bytes and
its side byte (R85 to R91). -/
def blockStored (d : Device) (ctx : Nat) (p : Piece) (r : Reader) (va off : Nat) (bs : List Byte) : List (Nat × Nat) :=
  match blockRead d p.hall ctx p.te r va with
  | .error _ => []
  | .ok (sp, old, _) =>
    let base := p.te.pa + (va / 256 * 256 - p.te.page)
    let new := patchBytes ((tblFind d.st.back (base / 256)).getD old) off bs
    [(base, (if p.te.kind = 1 then new else (packSparse new).2).length), (sp, 1)]

/-- The byte ranges that a store over the parts of a compressed page writes, each part at the state that it finds. -/
def cutsStored (own ctx : Nat) (p : Piece) (r : Reader) :
    List (Nat × Nat × Nat) → List Byte → Device → List (Nat × Nat)
  | [], _, _ => []
  | c :: cs, bs, d =>
    blockStored d ctx p r c.1 c.2.1 (bs.take c.2.2) ++
      cutsStored own ctx p r cs (bs.drop c.2.2) (blockWrite d own ctx p r c.1 c.2.1 (bs.take c.2.2))

/-- The byte ranges that a store of a piece writes: its own bytes, or the blocks that it lies in. -/
def pieceStored (v : View) (r : Reader) (p : Piece) (bs : List Byte) (d : Device) : List (Nat × Nat) :=
  if p.te.kind = 0 then [(p.pa, bs.length)]
  else cutsStored v.w.ctx v.w.ctx p r (blockCuts p.va p.len) bs (pieceTouch (notePiece v r d p bs.length) v.w.ctx p)

/-- The byte ranges that a lane's store writes. -/
def piecesStored (v : View) (r : Reader) (ch : BitVec 2) : List Piece → List Byte → Device → List (Nat × Nat)
  | [], _, _ => []
  | p :: ps, bs, d =>
    pieceStored v r p (bs.take p.len) d ++ piecesStored v r ch ps (bs.drop p.len) (storePiece v r ch d p (bs.take p.len))

/-- The byte ranges that the lanes' stores write, in lane order. -/
def lanesStored (v : View) (r : Reader) (ch : BitVec 2) (data : Nat → List Byte) :
    List (Nat × List Piece) → Device → List (Nat × Nat)
  | [], _ => []
  | (l, ps) :: t, d => piecesStored v r ch ps (data l) d ++ lanesStored v r ch data t (storePieces v r ch ps (data l) d)

/-- An address lies outside every range. -/
def Outside (a : Nat) (rs : List (Nat × Nat)) : Prop := ∀ e ∈ rs, a < e.1 ∨ e.1 + e.2 ≤ a

/-- What a word leaves as it was, whatever else it writes: the plant, the stores of memory, scratchpad, accumulators and
descriptors, every register-file word outside `rf`, every other wave, every s register, predicate and b register outside
`sr`, `pr` and `br`, and of the wave's special registers all but sr.fflags. -/
structure Framed (s s' : State) (v : View) (rf sr pr br : Nat → Prop) : Prop where
  plant : s'.plant = s.plant
  mem : s'.dev.st.mem = s.dev.st.mem
  spad : s'.dev.st.spad = s.dev.st.spad
  acc : s'.dev.st.acc = s.dev.st.acc
  md : s'.dev.st.md = s.dev.st.md
  file : ∀ k, ¬ rf k → tblGet 0#32 s'.dev.st.rf k = tblGet 0#32 s.dev.st.rf k
  others : ∀ c slot, (c, slot) ≠ (v.core, v.slot) → waveOf s'.dev c slot = waveOf s.dev c slot
  blocks : ∀ b n, b ≠ v.w.block ∨ ¬ br n →
    (tblFind s'.dev.blocks b).map (bget · n) = (tblFind s.dev.blocks b).map (bget · n)
  wave : ∃ w, waveOf s'.dev v.core v.slot = some w ∧ (∀ n, ¬ sr n → sget w n = sget v.w n) ∧
    (∀ n, ¬ pr n → predMask w n = predMask v.w n) ∧ w.fmode = v.w.fmode ∧ w.lfsr = v.w.lfsr ∧ w.wb = v.w.wb ∧
    w.old = v.w.old ∧ w.trap = v.w.trap ∧ w.gfx = v.w.gfx ∧ w.tokPend = v.w.tokPend ∧ w.tokOrph = v.w.tokOrph

/-- The coolant granted to all 36 zones, in valve steps of 16 gill (R342). -/
def grantSum (pl : Plant) : Nat := ((List.range 36).map fun z => (zoneOf pl z).grant.toNat).sum

/-- What every step keeps of the plant: the grants stay within 6,000 gill (R342), the measurement register is 64 bytes
(R355), and every port listed runs on 4, 2 or 1 lanes (R443). -/
def Plant.Inv (pl : Plant) : Prop :=
  16 * grantSum pl ≤ 6000 ∧ pl.measure.length = 64 ∧ ∀ e ∈ pl.ports, e.2.lanes = 4 ∨ e.2.lanes = 2 ∨ e.2.lanes = 1

end Sys2Proof.Machine
end

