-- ==== Sys2Proof/Certificates/Slice0/Obligations.lean ====
section
/-! DEFINITION. The statements for the provers, each a proposition under `Obligations`, and the forms that several of them
share. -/

namespace Sys2Proof.Machine

/-! ## Forms that several statements share -/

/-- An A-format ALU word of `n` sources gives in each lane `f` of its sources there: lane by lane, or, uniform, once from
the lowest active lane (R164, R165). `fps` tells which sources are read as FP32. -/
def LaneWord (mk : WordA → Instr) (n : Nat) (fps : List Bool) (f : View → WordA → Nat → List W32 → W32 × Flags) : Prop :=
  ∀ (w : WordA) (s : State) (v : View) (ex : Mask) (ents : List (List W32)) (t : Device),
    Runs (mk w) s v ex → popWalk v (aSrcs w n) [] = (ents, none) →
    Lands v (w.u || v.uni) ex w.d (aSrcs w n)
      (aluResult v (w.u || v.uni) ents ((aSrcs w n).zip fps) (f v w)) t → Goes (mk w) s v t

/-- A word of integer type I32 or N32 gives an exact value, wrapped or saturated (R100, R168). -/
def IntWord (mk : WordA → Instr) (n : Nat) (f : Int → Int → Int → Int) : Prop :=
  LaneWord mk n [false, false, false] fun _ w _ xs =>
    let sg := decide (w.sub.toNat % 16 = 2)
    let x (i : Nat) : Int := intOf 32 sg (xs.getD i 0).toNat
    let r := narrowInt 32 sg (w.hd.md.getLsbD 3) (f (x 0) (x 1) (x 2))
    (wrap 32 r.1, r.2)

/-- A word of bit operations gives `f` of the raw values and raises no flag (R167). -/
def BitWord (mk : WordA → Instr) (n : Nat) (f : WordA → W32 → W32 → W32 → W32) : Prop :=
  LaneWord mk n [false, false, false] fun _ w _ xs => (f w (xs.getD 0 0) (xs.getD 1 0) (xs.getD 2 0), 0)

/-- An FP32 word rounds `f` of its sources, read with ABS, NEG and flush, in its rounding mode (R108, R112, R148). -/
def FpWord (mk : WordA → Instr) (n : Nat) (f : Rm → FVal → FVal → FVal → FVal × Flags) : Prop :=
  LaneWord mk n [true, true, true] fun v w _ xs =>
    let x (i : Nat) : FVal := if i < xs.length then fsrc v.w.fmode (negOf w i) (absOf w i) (xs.getD i 0) else .num false 0
    fres v.w.fmode (f (rmOf v.w.fmode (w.hd.md.toNat % 8)) (x 0) (x 1) (x 2))

/-- A packed word computes both 16-bit elements alike (R183). -/
def PackWord (mk : WordA → Instr) (n : Nat) (f : Fmt → Rm → FVal → FVal → FVal → FVal × Flags) : Prop :=
  LaneWord mk n [false, false, false] fun v w _ xs =>
    let t := if w.sub.toNat % 16 = 9 then fp16 else bf16
    let x (e i : Nat) : FVal := if i < xs.length then halfOf t (negOf w i) (absOf w i) (xs.getD i 0) e else .num false 0
    packHalves t fun e => f t (rmOf v.w.fmode (w.hd.md.toNat % 8)) (x e 0) (x e 1) (x e 2)

/-- An approximate function's word completes with its result pending: a function of the operand alone that Table 5.3
admits (R116, R166, R182). Where the destination is a queue, the condition is that the queue takes the entry. -/
def ApproxWord (mk : WordA → Instr) (table : FVal → FVal × Flags → Prop) : Prop :=
  ∃ f : FVal → FVal × Flags, (∀ a, table a (f a)) ∧
    ∀ (w : WordA) (s : State) (v : View) (ex : Mask) (ents : List (List W32)),
      Runs (mk w) s v ex → popWalk v [w.a] [] = (ents, none) →
      let res := aluResult v (w.u || v.uni) ents [(w.a, true)] fun _ xs =>
        fres v.w.fmode (f (fsrc v.w.fmode (w.neg.getLsbD 2) (w.abs.getLsbD 2) (xs.getD 0 0)))
      (∀ j, w.d = .q j → ∃ t, pushEntry v (v.put (popApply v v.d [w.a]) (addFlags (wordFlags v (w.u || v.uni) ex res))) j
        (fun l => if ex.getLsbD l then (res l).1 else 0) = .done t) →
      ∃ t, LandsLater v (w.u || v.uni) ex w.d w.hd.md [w.a] res t ∧ Goes (mk w) s v t

/-- An inexact result: within the bound of the exact value, or the FP32 value nearest to it (Table 5.3). -/
def Inexact (y bound : Rat) (r : FVal × Flags) : Prop :=
  r.2 = flInexact ∧ (r.1 = nearest y ∨ ∃ n z, r.1 = .num n z ∧ ratAbs (z - y) ≤ bound)

/-- Table 5.3 of 1/x: one ulp, a power of 2 exact; past the FP32 range the value is free. -/
def rcpSays (a : FVal) (r : FVal × Flags) : Prop :=
  match a with
  | .nan sig => r = (.nan false, if sig then flInvalid else 0)
  | .inf n => r = (.num n 0, 0)
  | .num n x =>
    if x = 0 then r = (.inf n, flDivZero)
    else if (roundTo fp32 .rne n (1 / x)).2 = 0 then r = roundTo fp32 .rne n (1 / x)
    else r.2 = flInexact ∧ (ratAbs (1 / x) ≤ maxFinite fp32 →
      r.1 = (roundTo fp32 .rne n (1 / x)).1 ∨ ∃ z, r.1 = .num n z ∧ ratAbs (z - 1 / x) ≤ ulpAt (ratAbs (1 / x)))

/-- Table 5.3 of the square root: one ulp (the exact root lies between z − u and z + u), a perfect square exact. -/
def sqrtSays (a : FVal) (r : FVal × Flags) : Prop :=
  match a with
  | .nan sig => r = (.nan false, if sig then flInvalid else 0)
  | .inf n => r = if n then (.nan false, flInvalid) else (.inf false, 0)
  | .num n x =>
    if x = 0 then r = (.num n 0, 0)
    else if n then r = (.nan false, flInvalid)
    else
      let q := sqrtDown x
      if q.2 then r = (.num false q.1, 0)
      else r.2 = flInexact ∧ (r.1 = .num false q.1 ∨ ∃ z, r.1 = .num false z ∧
        (z ≤ ulpAt q.1 ∨ (z - ulpAt q.1) * (z - ulpAt q.1) ≤ x) ∧ x ≤ (z + ulpAt q.1) * (z + ulpAt q.1))

/-- Table 5.3 of the reciprocal square root: one ulp. -/
def rsqSays (a : FVal) (r : FVal × Flags) : Prop :=
  match a with
  | .nan sig => r = (.nan false, if sig then flInvalid else 0)
  | .inf n => r = if n then (.nan false, flInvalid) else (.num false 0, 0)
  | .num n x =>
    if x = 0 then r = (.inf n, flDivZero)
    else if n then r = (.nan false, flInvalid)
    else
      let q := sqrtDown (1 / x)
      r.2 = flInexact ∧ (r.1 = .num false q.1 ∨ ∃ z, r.1 = .num false z ∧
        (z ≤ ulpAt q.1 ∨ (z - ulpAt q.1) * (z - ulpAt q.1) * x ≤ 1) ∧ 1 ≤ (z + ulpAt q.1) * (z + ulpAt q.1) * x)

/-- Table 5.3 of 2^x: 2 ulp, an integer from −149 to 127 exact. -/
def exp2Says (a : FVal) (r : FVal × Flags) : Prop :=
  match a with
  | .nan sig => r = (.nan false, if sig then flInvalid else 0)
  | .inf n => r = if n then (.num false 0, 0) else (.inf false, 0)
  | .num _ x =>
    if 128 ≤ x then r = (.inf false, flOverflow ||| flInexact)
    else if x.den = 1 ∧ -149 ≤ x then r = (.num false (pow2 x.num), 0)
    else Inexact (exactExp2 x) (2 * ulpAt (exactExp2 x)) r

/-- Table 5.3 of log2 x: 2^-22 in [0.5, 2], 2 ulp elsewhere, a power of 2 exact. -/
def log2Says (a : FVal) (r : FVal × Flags) : Prop :=
  match a with
  | .nan sig => r = (.nan false, if sig then flInvalid else 0)
  | .inf n => r = if n then (.nan false, flInvalid) else (.inf false, 0)
  | .num n x =>
    if x = 0 then r = (.inf true, flDivZero)
    else if n then r = (.nan false, flInvalid)
    else if x = pow2 (ratLog2 x) then r = (.num (decide (ratLog2 x < 0)) ((ratLog2 x : Int) : Rat), 0)
    else Inexact (exactLog2 x) (if 1 / 2 ≤ x ∧ x ≤ 2 then pow2 (-22) else 2 * ulpAt (ratAbs (exactLog2 x))) r

/-- Table 5.3 of sin 2πx: 2^-22, a multiple of a quarter turn exact. -/
def sinSays (a : FVal) (r : FVal × Flags) : Prop :=
  match a with
  | .nan sig => r = (.nan false, if sig then flInvalid else 0)
  | .inf _ => r = (.nan false, flInvalid)
  | .num n x =>
    if (x * 2).den = 1 then r = (.num n 0, 0)
    else if (x * 4).den = 1 then r = if (x * 4).num % 4 = 1 then (.num false 1, 0) else (.num true (-1), 0)
    else Inexact (exactSin x) (pow2 (-22)) r

/-- Table 5.3 of cos 2πx: 2^-22, a multiple of a quarter turn exact. -/
def cosSays (a : FVal) (r : FVal × Flags) : Prop :=
  match a with
  | .nan sig => r = (.nan false, if sig then flInvalid else 0)
  | .inf _ => r = (.nan false, flInvalid)
  | .num _ x =>
    if x.den = 1 then r = (.num false 1, 0)
    else if (x * 2).den = 1 then r = (.num true (-1), 0)
    else if (x * 4).den = 1 then r = (.num false 0, 0)
    else Inexact (exactCos x) (pow2 (-22)) r

/-- An I-format word gives `f` of operand A and IMM, once where MOD[51] or UNI says so (R170). -/
def ImmWord (mk : WordI → Instr) (fp : Bool) (f : View → WordI → W32 → W32 × Flags) : Prop :=
  ∀ (w : WordI) (s : State) (v : View) (ex : Mask) (ents : List (List W32)) (t : Device),
    Runs (mk w) s v ex → popWalk v [w.a] [] = (ents, none) →
    Lands v (w.hd.md.getLsbD 3 || v.uni) ex w.d [w.a]
      (aluResult v (w.hd.md.getLsbD 3 || v.uni) ents [(w.a, fp)] fun _ xs => f v w (xs.getD 0 0)) t →
    Goes (mk w) s v t

/-- The predicates PD and PE after a test in each executing lane: the test combined with PC, and its complement, which
stands where both name one predicate (R147, R176). -/
def predsAfter (v : View) (ex : Mask) (w : WordP) (t : Nat → Bool) (x : Wave) : Wave :=
  let c (l : Nat) : Bool := predOf v.w w.pc.toNat l != w.pcn
  let r (l : Nat) : Bool := match w.cmb.toNat with
    | 0 => t l
    | 1 => t l && c l
    | 2 => t l || c l
    | _ => t l != c l
  let m := maskOf ((lanesOf v.width ex).filter r)
  predPut w.pe.toNat ex (~~~m) (predPut w.pd.toNat ex m x)

/-- A compare word tests its operands lane by lane, or once, and writes predicates and flags only (R176). -/
def CompareWord (mk : WordP → Instr) (fp : Bool) (f : View → WordP → W32 → W32 → Bool × Flags) : Prop :=
  ∀ (w : WordP) (s : State) (v : View) (ex : Mask) (ents : List (List W32)),
    Runs (mk w) s v ex → popWalk v [w.a, w.b] [] = (ents, none) →
    let once := w.u || v.uni
    let test (l : Nat) : Bool × Flags :=
      let xs := if once then aluVals v v.lane0 0 [(w.a, fp), (w.b, fp)] ents else aluVals v l l [(w.a, fp), (w.b, fp)] ents
      f v w (xs.getD 0 0) (xs.getD 1 0)
    let fl := if once then (test 0).2 else orFlags ((lanesOf v.width ex).map fun l => (test l).2)
    Goes (mk w) s v (v.put (popApply v v.d [w.a, w.b]) fun x => addFlags fl (predsAfter v ex w (fun l => (test l).1) x))

/-- A cross-lane word gives each executing lane `f` of its sources' values in all lanes (R187). -/
def CrossWord (mk : WordA → Instr) (n : Nat) (f : View → WordA → Mask → (Nat → Nat → W32) → Nat → W32) : Prop :=
  ∀ (w : WordA) (s : State) (v : View) (ex : Mask) (ents : List (List W32)) (t : Device),
    Runs (mk w) s v ex → popWalk v (aSrcs w n) [] = (ents, none) →
    Lands v false ex w.d (aSrcs w n)
      (fun l => (f v w ex (fun i k => src v (ents.getD i []) ((aSrcs w n).getD i (.pos 0)) k) l, 0)) t →
    Goes (mk w) s v t

/-- A reduction combines the sources of some executing lanes in lane order (R191). -/
def ReduceWord (mk : WordA → Instr) (scan : Bool) : Prop :=
  ∀ (w : WordA) (s : State) (v : View) (ex : Mask) (ents : List (List W32)) (t : Device),
    Runs (mk w) s v ex → popWalk v [w.a] [] = (ents, none) →
    Lands v false ex w.d [w.a] (fun l =>
      let ls := (lanesOf v.width ex).filter fun i =>
        !scan || decide (i < l) || (decide (i = l) && !w.sub.getLsbD 7)
      let xs := ls.map fun i => aluVal v (ents.headD []) (w.a, decide (w.sub.toNat % 16 = 8)) i i
      let k := w.sub.toNat / 16 % 8
      if w.sub.toNat % 16 = 8 then
        fres v.w.fmode (reduceFp (rmOf v.w.fmode (w.hd.md.toNat % 8)) k
          (xs.map (fsrc v.w.fmode (w.neg.getLsbD 2) (w.abs.getLsbD 2))))
      else reduceInt (decide (w.sub.toNat % 16 = 2)) (w.hd.md.getLsbD 3) k xs) t →
    Goes (mk w) s v t

/-- A SCALAR word of `n` sources computes once for the wave and writes an s or b register (R194). -/
def ScalarWord (mk : WordA → Instr) (f : WordA → W64 → W64 → W64 → W64 × Flags) : Prop :=
  ∀ (w : WordA) (s : State) (v : View) (ex : Mask), Runs (mk w) s v ex →
    let r := f w (src64 v w.a) (src64 v w.b) (src64 v w.c)
    Goes (mk w) s v (putWrites v (v.put v.d (addFlags r.2)) (scalarPut w.d r.1))

/-- A typed scalar word computes exactly, then wraps or saturates in its width, and extends its result (R194, R195). -/
def ScalarIntWord (mk : WordA → Instr) (f : Nat → Int → Int → Int → Int) : Prop :=
  ScalarWord mk fun w a b c =>
    let k := w.sub.toNat % 16
    let n := if k % 4 = 3 then 64 else 32
    let sg := decide (k < 4)
    let x (y : W64) : Int := intOf n sg y.toNat
    let r := narrowInt n sg (w.hd.md.getLsbD 3) (f n (x a) (x b) (x c))
    (wrap 64 (intOf n sg (wrap n r.1).toNat), r.2)

/-- A scalar shift of a value of `n` bits, 32 or 64, by the low `n` bits of b (R195). -/
def ScalarShiftWord (mk : WordA → Instr) (f : Nat → W64 → Nat → Int) : Prop :=
  ScalarWord mk fun w a b _ =>
    let k := w.sub.toNat % 16
    let n := if k % 4 = 3 then 64 else 32
    (wrap 64 (intOf n (decide (k < 4)) (wrap n (f n a (b.toNat % 2 ^ n))).toNat), 0)

/-- A half-operation of PAIR gives `f` of a, b and d and raises its flags (R153). -/
def HalfGives (hop : Nat) (f : View → W32 → W32 → W32 → W32 × Flags) : Prop :=
  ∃ k, halfKind hop = some k ∧ ∀ v a b d, k.f v a b d = f v a b d

/-- An I-format scalar word writes an s or b register (R196). -/
def ScalarImmWord (mk : WordI → Instr) (f : View → WordI → W64) : Prop :=
  ∀ (w : WordI) (s : State) (v : View) (ex : Mask), Runs (mk w) s v ex →
    Goes (mk w) s v (putWrites v v.d (scalarPut w.d (f v w)))

end Sys2Proof.Machine

open Sys2Proof Sys2Proof.Machine

/-! ## Compute -/

/-- R168, R169: IADD, ISUB, IMUL, IMULH, IMAD, IMIN, IMAX and IDP4 give their exact value of Table 8.1, wrapped or
saturated, in each executing lane, and change nothing else. -/
def Obligations.IntegerArithmeticResults : Prop :=
  IntWord .iadd 2 (fun a b _ => a + b) ∧ IntWord .isub 2 (fun a b _ => a - b) ∧ IntWord .imul 2 (fun a b _ => a * b) ∧
  IntWord .imulh 2 (fun a b _ => a * b / 4294967296) ∧ IntWord .imad 3 (fun a b c => a * b + c) ∧
  IntWord .imin 2 (fun a b _ => min a b) ∧ IntWord .imax 2 (fun a b _ => max a b) ∧
  LaneWord .idp4 3 [false, false, false] (fun _ w _ xs =>
    let p (i : Nat) : Int :=
      intOf 8 (decide (w.sub.toNat % 16 = 0)) ((xs.getD 0 0).toNat / 256 ^ i % 256) *
        intOf 8 (decide (w.sub.toNat / 16 = 0)) ((xs.getD 1 0).toNat / 256 ^ i % 256)
    let r := narrowInt 32 true (w.hd.md.getLsbD 3) (intOf 32 true (xs.getD 2 0).toNat + p 0 + p 1 + p 2 + p 3)
    (wrap 32 r.1, r.2))

/-- R171 to R175, R177: shifts, funnel shifts, bit fields, counts, reversal, lookup, select and move. -/
def Obligations.BitOperationResults : Prop :=
  BitWord .shl 2 (fun _ a b _ => if b.toNat < 32 then BitVec.ofNat 32 (a.toNat * 2 ^ b.toNat) else 0) ∧
  BitWord .shr 2 (fun _ a b _ => if b.toNat < 32 then BitVec.ofNat 32 (a.toNat / 2 ^ b.toNat) else 0) ∧
  BitWord .sar 2 (fun _ a b _ => wrap 32 (a.toInt / ((2 ^ min b.toNat 31 : Nat) : Int))) ∧
  BitWord .fshf 3 (fun w a b c =>
    let n := if w.sub.getLsbD 1 then min c.toNat 32 else c.toNat % 32
    let x := b.toNat * 2 ^ 32 + a.toNat
    BitVec.ofNat 32 (if w.sub.getLsbD 0 then x * 2 ^ n / 2 ^ 32 else x / 2 ^ n)) ∧
  BitWord .bfe 2 (fun w a b _ =>
    let p := min (b.toNat % 256) 32
    let n := min (b.toNat / 256 % 256) 32
    let sg := decide (w.sub.toNat % 16 = 2)
    let x := (intOf 32 sg a.toNat / ((2 ^ p : Nat) : Int)) % ((2 ^ n : Nat) : Int)
    if n = 0 then 0 else if sg ∧ ((2 ^ (n - 1) : Nat) : Int) ≤ x then wrap 32 (x - ((2 ^ n : Nat) : Int)) else wrap 32 x) ∧
  BitWord .bfi 3 (fun _ a b c =>
    let p := min (b.toNat % 256) 32
    let n := min (b.toNat / 256 % 256) 32
    let k := BitVec.ofNat 32 ((2 ^ n - 1) * 2 ^ p)
    (c &&& ~~~k) ||| (BitVec.ofNat 32 (a.toNat * 2 ^ p) &&& k)) ∧
  BitWord .popc 1 (fun _ a _ _ => BitVec.ofNat 32 ((List.range 32).filter fun i => a.getLsbD i).length) ∧
  BitWord .clz 1 (fun _ a _ _ => BitVec.ofNat 32 (((List.range 32).find? fun i => a.getLsbD (31 - i)).getD 32)) ∧
  BitWord .ctz 1 (fun _ a _ _ => BitVec.ofNat 32 (((List.range 32).find? fun i => a.getLsbD i).getD 32)) ∧
  BitWord .brev 1 (fun _ a _ _ => BitVec.ofNat 32
    (((List.range 32).map fun i => if a.getLsbD i then 2 ^ (31 - i) else 0).sum)) ∧
  BitWord .blut 3 (fun w a b c => BitVec.ofNat 32 (((List.range 32).map fun i =>
    if w.sub.getLsbD ((if a.getLsbD i then 1 else 0) + (if b.getLsbD i then 2 else 0) + (if c.getLsbD i then 4 else 0))
    then 2 ^ i else 0).sum)) ∧
  LaneWord .sel 2 [false, false, false] (fun v w l xs =>
    (if predFieldOf v.w w.c l then xs.getD 0 0 else xs.getD 1 0, 0)) ∧
  BitWord .mov 1 (fun _ a _ _ => a) ∧
  (∀ w : WordA, encode (.popc w) = some (0, w.toBits 0x16) ∧ encode (.clz w) = some (0, w.toBits 0x17) ∧
    encode (.ctz w) = some (0, w.toBits 0x18) ∧ encode (.brev w) = some (0, w.toBits 0x19)) ∧
  ∀ mk ∈ [Instr.popc, .clz, .ctz, .brev], ∀ (w : WordA) (s : State) (v : View) (ex : Mask), Runs (mk w) s v ex →
    w.b = .v 0 ∧ w.c = .v 0 ∧ w.sub = 0

/-- R170, R177: the I-format words compute with IMM in place of operand B, and MOVI gives IMM. -/
def Obligations.ImmediateResults : Prop :=
  ImmWord .iaddi false (fun _ w a => (a + w.imm, 0)) ∧ ImmWord .imuli false (fun _ w a => (a * w.imm, 0)) ∧
  ImmWord .andi false (fun _ w a => (a &&& w.imm, 0)) ∧ ImmWord .ori false (fun _ w a => (a ||| w.imm, 0)) ∧
  ImmWord .xori false (fun _ w a => (a ^^^ w.imm, 0)) ∧
  ImmWord .faddi true (fun v w a => fres v.w.fmode (addF fp32 (rmOf v.w.fmode (w.hd.md.toNat % 8))
    (fsrc v.w.fmode false false a) (fsrc v.w.fmode false false w.imm))) ∧
  ImmWord .fmuli true (fun v w a => fres v.w.fmode (prodF fp32 (rmOf v.w.fmode (w.hd.md.toNat % 8))
    (fsrc v.w.fmode false false a) (fsrc v.w.fmode false false w.imm))) ∧
  ∀ (w : WordI) (s : State) (v : View) (ex : Mask) (t : Device), Runs (.movi w) s v ex →
    Lands v (w.hd.md.getLsbD 3 || v.uni) ex w.d [] (fun _ => (w.imm, 0)) t → Goes (.movi w) s v t

/-- R176, R178, R190, R197: compares, predicate lookups, votes and scalar compares write predicates in the executing
lanes; only FCMP raises flags. -/
def Obligations.PredicateResults : Prop :=
  CompareWord .icmp false (fun _ w a b =>
    let sg := decide (w.sub.toNat % 16 = 2)
    let x := intOf 32 sg a.toNat
    let y := intOf 32 sg b.toNat
    (match w.sub.toNat / 16 with
      | 0 => decide (x = y) | 1 => decide (x ≠ y) | 2 => decide (x < y)
      | 3 => decide (x ≤ y) | 4 => decide (y < x) | _ => decide (y ≤ x), 0)) ∧
  CompareWord .fcmp true (fun v w a b =>
    condFp (w.sub.toNat / 16) (fsrc v.w.fmode false false a) (fsrc v.w.fmode false false b)) ∧
  (∀ (w : WordP) (s : State) (v : View) (ex : Mask), Runs (.plut w) s v ex →
    let bit (b : Bool) : Nat := if b then 1 else 0
    let test (l : Nat) : Bool := w.sub.getLsbD (bit (predFieldOf v.w w.a l) + 2 * bit (predFieldOf v.w w.b l) +
      4 * bit (predOf v.w w.pc.toNat l != w.pcn))
    Goes (.plut w) s v (v.put v.d (predsAfter v ex w fun l => if w.u || v.uni then test v.lane0 else test l))) ∧
  (∀ (w : WordP) (s : State) (v : View) (ex : Mask), Runs (.vote w) s v ex →
    let yes := (lanesOf v.width ex).filter fun l => predFieldOf v.w w.a l
    let all := decide (maskOf yes = ex)
    let t := match w.sub.toNat with | 0 => all | 1 => decide (maskOf yes ≠ 0) | _ => all || decide (maskOf yes = 0)
    Goes (.vote w) s v (v.put v.d (predsAfter v ex w fun _ => t))) ∧
  (∀ (w : WordP) (s : State) (v : View) (ex : Mask), Runs (.scmp w) s v ex →
    let k := w.sub.toNat % 16
    let x (op : Operand) : Int := intOf (if k % 4 = 3 then 64 else 32) (decide (k < 4)) (src64 v op).toNat
    let t := match w.sub.toNat / 16 with
      | 0 => decide (x w.a = x w.b) | 1 => decide (x w.a ≠ x w.b) | 2 => decide (x w.a < x w.b)
      | 3 => decide (x w.a ≤ x w.b) | 4 => decide (x w.b < x w.a) | _ => decide (x w.b ≤ x w.a)
    Goes (.scmp w) s v (v.put v.d (predsAfter v ex w fun _ => t)) ∧ ex = v.active ∧ w.sub.toNat / 16 ≤ 5 ∧
      (k = 2 ∨ k = 3 ∨ k = 6 ∨ k = 7)) ∧
  ∀ w : WordP, encode (.scmp w) = some (2, w.toBits 0x10)

/-- R179 to R181: FP32 arithmetic with one rounding; classification without flush; rounding, fraction and scaling. -/
def Obligations.FloatArithmeticResults : Prop :=
  FpWord .fadd 2 (fun m a b _ => addF fp32 m a b) ∧ FpWord .fmul 2 (fun m a b _ => prodF fp32 m a b) ∧
  FpWord .ffma 3 (fun m a b c => fmaF fp32 m a b c) ∧ FpWord .fmin 2 (fun _ a b _ => minF a b) ∧
  FpWord .fmax 2 (fun _ a b _ => maxF a b) ∧
  LaneWord .fclass 1 [true] (fun _ _ _ xs => (fclassBits (xs.getD 0 0), 0)) ∧
  FpWord .frnd 1 (fun m a _ _ => rndF m a) ∧ FpWord .ffrc 1 (fun m a _ _ => frcF m a) ∧
  LaneWord .fldexp 2 [true, false] (fun v w _ xs =>
    fres v.w.fmode (ldexpF (rmOf v.w.fmode (w.hd.md.toNat % 8))
      (fsrc v.w.fmode (w.neg.getLsbD 2) (w.abs.getLsbD 2) (xs.getD 0 0)) (intOf 32 true (xs.getD 1 0).toNat)))

/-- R116, R166, R182: FRCP, FRSQ, FSQRT, FEXP2, FLOG2, FSIN and FCOS complete and leave their destination pending with a
result that Table 5.3 admits, the same for the same operand everywhere. -/
def Obligations.ApproximateFunctionResults : Prop :=
  ApproxWord .frcp rcpSays ∧ ApproxWord .frsq rsqSays ∧ ApproxWord .fsqrt sqrtSays ∧ ApproxWord .fexp2 exp2Says ∧
  ApproxWord .flog2 log2Says ∧ ApproxWord .fsin sinSays ∧ ApproxWord .fcos cosSays

/-- R183, R184: packed arithmetic on both elements, and dot products added to c and rounded once. -/
def Obligations.PackedArithmeticResults : Prop :=
  PackWord .hadd2 2 (fun t m a b _ => addF t m a b) ∧ PackWord .hmul2 2 (fun t m a b _ => prodF t m a b) ∧
  PackWord .hfma2 3 (fun t m a b c => fmaF t m a b c) ∧ PackWord .hmin2 2 (fun _ _ a b _ => minF a b) ∧
  PackWord .hmax2 2 (fun _ _ a b _ => maxF a b) ∧
  LaneWord .hdot2 3 [false, false, true] (fun v w _ xs =>
    let t := if w.sub.toNat % 16 = 9 then fp16 else bf16
    let e (i k : Nat) : FVal := decodeF t ((xs.getD i 0).toNat / 65536 ^ k % 65536)
    fres v.w.fmode (dotF (rmOf v.w.fmode (w.hd.md.toNat % 8)) [(e 0 0, e 1 0), (e 0 1, e 1 1)]
      (fsrc v.w.fmode (w.neg.getLsbD 0) (w.abs.getLsbD 0) (xs.getD 2 0)))) ∧
  LaneWord .qdot4 3 [false, false, true] (fun v w _ xs =>
    let f (c : Nat) : Fmt := if c = 11 then e4m3 else e5m2
    let a (k : Nat) : FVal := decodeF (f (w.sub.toNat % 16)) ((xs.getD 0 0).toNat / 256 ^ k % 256)
    let b (k : Nat) : FVal := decodeF (f (w.sub.toNat / 16)) ((xs.getD 1 0).toNat / 256 ^ k % 256)
    fres v.w.fmode (dotF (rmOf v.w.fmode (w.hd.md.toNat % 8)) [(a 0, b 0), (a 1, b 1), (a 2, b 2), (a 3, b 3)]
      (fsrc v.w.fmode (w.neg.getLsbD 0) (w.abs.getLsbD 0) (xs.getD 2 0))))

/-- R185, R186: CVT converts an element exactly, then rounds, wraps or saturates into the destination's type, and steps the
generator of each executing lane where its mode is stochastic. -/
def Obligations.ConversionResults : Prop :=
  (∀ (w : WordA) (s : State) (v : View) (ex : Mask) (ents : List (List W32)) (t : Device),
    Runs (.cvt w) s v ex → popWalk v (cvtSrcs w) [] = (ents, none) →
    let once := w.u || v.uni
    let res (l : Nat) : W64 × Flags × W32 :=
      if once then cvtLane v w ents v.lane0 0 (tblGet 0#32 v.w.lfsr 0) else cvtLane v w ents l l (tblGet 0#32 v.w.lfsr l)
    let ls := lanesOf v.width ex
    let gens (x : Wave) : Wave :=
      if w.hd.md.toNat % 8 = 5 then
        { x with lfsr := ls.foldl (fun t l => tblSet t (if once then 0 else l) (res l).2.2) x.lfsr }
      else x
    let d0 := v.put (popApply v v.d (cvtSrcs w)) fun x => addFlags (orFlags (ls.map fun l => (res l).2.1)) (gens x)
    (match w.d with
      | .q j => pushEntry v d0 j (fun l => if ex.getLsbD l then (res l).1.setWidth 32 else 0) = .done t
      | _ => t = putWrites v d0 (cvtWrites v w ex fun l => (res l).1)) →
    Goes (.cvt w) s v t) ∧
  (∀ (a b : Nat) (sat : Bool) (m : Rm) (g : Option Nat) (x na nb : Nat) (sa sb : Bool),
    intType a = some (na, sa) → intType b = some (nb, sb) →
    let y := intOf na sa x
    let z := satInt nb sb y
    cvtElem a b sat m g x =
      if sat then ((wrap nb z).toNat, if z ≠ y then flSaturated else 0) else ((wrap nb y).toNat, 0)) ∧
  (∀ (a b : Nat) (sat : Bool) (m : Rm) (x : Nat) (f g : Fmt),
    floatType a = some f → floatType b = some g →
    let r := convF g m (sat || decide (b = 13)) (decodeF f x)
    cvtElem a b sat m none x = (encodeF g r.1, r.2 ||| sigFlag (decodeF f x)))

/-- R187 to R193: the cross-lane words read any lane at its value before the word and write executing lanes only. LPUSH into a
vector register is R189's; that an s or b destination takes the highest receiving lane's value and a queue an entry with zeros in
the lanes that receive nothing is the model's choice (log 113), as are BALLOT's b and q destinations (log 53). -/
def Obligations.CrossLaneResults : Prop :=
  CrossWord .shfl 2 (fun _ w _ x l =>
    let n : Nat := 2 ^ (w.sub.toNat / 16 % 8)
    let b := (x 1 l).toNat
    let i := l % n
    let m := w.sub.toNat % 4
    let t : Int := if m = 0 then ((b % n : Nat) : Int) else if m = 1 then (i : Int) - (b : Int)
      else if m = 2 then (i : Int) + (b : Int) else ((i ^^^ (b % n) : Nat) : Int)
    x 0 (if 0 ≤ t ∧ t < (n : Int) then l - i + t.toNat else l)) ∧
  (∀ (w : WordA) (s : State) (v : View) (ex : Mask) (ents : List (List W32)) (t : Device),
    Runs (.lpush w) s v ex → popWalk v [w.a, w.b] [] = (ents, none) →
    let from' (t : Nat) : Option Nat :=
      ((lanesOf v.width ex).filter fun l => decide ((src v (ents.getD 1 []) w.b l).toNat % v.width = t)).getLast?
    let hit := maskOf ((lanesOf v.width ex).filter fun l => (from' l).isSome)
    let x (l : Nat) : W32 := src v (ents.getD 0 []) w.a ((from' l).getD l)
    let d0 := v.put (popApply v v.d [w.a, w.b]) (addFlags 0)
    (match w.d with
      | .v n => t = putWrites v d0 (dstWrites v (.v n) hit x)
      | .q j => pushEntry v d0 j (fun l => if hit.getLsbD l then x l else 0) = .done t
      | d => t = putWrites v d0 (dstWrites v d hit x)) →
    Goes (.lpush w) s v t) ∧
  (∀ (w : WordA) (s : State) (v : View) (ex : Mask) (t : Device), Runs (.ballot w) s v ex →
    let m := maskOf ((lanesOf v.width ex).filter fun l => predFieldOf v.w w.a l)
    (match w.d with
      | .s n => t = putWrites v v.d [(.sreg n, m)]
      | d => Lands v false ex d [] (fun _ => (m.extractLsb' (if w.sub.getLsbD 0 then 32 else 0) 32, 0)) t) →
    Goes (.ballot w) s v t) ∧
  ReduceWord .wred false ∧ ReduceWord .wscan true ∧
  CrossWord .bcast 2 (fun v _ ex x _ => x 0 ((x 1 ((lowLane v.width ex).getD 0)).toNat % v.width)) ∧
  CrossWord .matchLanes 1 (fun v w ex x l =>
    (maskOf ((lanesOf v.width ex).filter fun i => decide (x 0 i = x 0 l))).extractLsb'
      (if w.sub.getLsbD 0 then 32 else 0) 32) ∧
  CrossWord .bsel 3 (fun _ _ _ x l =>
    let byte (k prev : Nat) : Nat :=
      if k < 4 then (x 0 l).toNat / 256 ^ k % 256
      else if k < 8 then (x 1 l).toNat / 256 ^ (k - 4) % 256
      else if k = 9 then 255
      else if k = 10 then (if 128 ≤ prev then 255 else 0)
      else if k = 11 then prev else 0
    let c (i : Nat) : Nat := (x 2 l).toNat / 16 ^ i % 16
    let y0 := byte (c 0) 0
    let y1 := byte (c 1) y0
    let y2 := byte (c 2) y1
    let y3 := byte (c 3) y2
    BitVec.ofNat 32 (y0 + 256 * y1 + 65536 * y2 + 16777216 * y3)) ∧
  (∀ w : WordA, encode (.lpush w) = some (0, w.toBits 0x71) ∧ encode (.bcast w) = some (0, w.toBits 0x76) ∧
    encode (.matchLanes w) = some (0, w.toBits 0x77)) ∧
  ∀ (w : WordA) (s : State) (v : View) (ex : Mask), Runs (.matchLanes w) s v ex → ∃ n, w.d = .v n

/-- R151 to R153: both halves of a PAIR word read before either writes; each half has the effect of Table 7.5, and the
codes that the table leaves out are reserved. -/
def Obligations.PairResults : Prop :=
  (∀ (w : WordPair) (s : State) (v : View) (ex : Mask), Runs (.pair w) s v ex →
    let out (h : HalfOp) (k : HalfKind) : List (RegLoc × W64) × Flags :=
      if h.hop = 0 then ([], 0)
      else
        let ls := lanesOf v.width (v.active &&& predMask v.w h.g.toNat)
        let x (op : Operand) (l : Nat) : W32 := if k.fp then srcFp v [] op l else src v [] op l
        let r (l : Nat) : W32 × Flags := k.f v (x h.a l) (x h.b l) (vget v.d v.core v.w l h.d.toNat)
        (vWrites v h.d.toNat ls fun l => (r l).1, orFlags (ls.map fun l => (r l).2))
    ∃ k1 k2, halfKind w.h1.hop.toNat = some k1 ∧ halfKind w.h2.hop.toNat = some k2 ∧
      Goes (.pair w) s v (putWrites v (v.put v.d (addFlags ((out w.h1 k1).2 ||| (out w.h2 k2).2)))
        ((out w.h1 k1).1 ++ (out w.h2 k2).1))) ∧
  HalfGives 1 (fun _ a b _ => (a + b, 0)) ∧ HalfGives 2 (fun _ a b _ => (a - b, 0)) ∧
  HalfGives 3 (fun _ a b _ => (a * b, 0)) ∧
  HalfGives 4 (fun _ a b _ => (wrap 32 (min a.toInt b.toInt), 0)) ∧
  HalfGives 5 (fun _ a b _ => (wrap 32 (max a.toInt b.toInt), 0)) ∧
  HalfGives 6 (fun _ a b _ => (BitVec.ofNat 32 (min a.toNat b.toNat), 0)) ∧
  HalfGives 7 (fun _ a b _ => (BitVec.ofNat 32 (max a.toNat b.toNat), 0)) ∧
  HalfGives 8 (fun _ a b _ => (a &&& b, 0)) ∧ HalfGives 9 (fun _ a b _ => (a ||| b, 0)) ∧
  HalfGives 10 (fun _ a b _ => (a ^^^ b, 0)) ∧
  HalfGives 11 (fun _ a b _ => (if b.toNat < 32 then BitVec.ofNat 32 (a.toNat * 2 ^ b.toNat) else 0, 0)) ∧
  HalfGives 12 (fun _ a b _ => (if b.toNat < 32 then BitVec.ofNat 32 (a.toNat / 2 ^ b.toNat) else 0, 0)) ∧
  HalfGives 13 (fun _ a b _ => (wrap 32 (a.toInt / ((2 ^ min b.toNat 31 : Nat) : Int)), 0)) ∧
  HalfGives 14 (fun _ a _ _ => (a, 0)) ∧
  (let m (v : View) : Rm := rmOf v.w.fmode 0
   let x (v : View) (y : W32) : FVal := fsrc v.w.fmode false false y
   HalfGives 16 (fun v a b _ => fres v.w.fmode (addF fp32 (m v) (x v a) (x v b))) ∧
   HalfGives 17 (fun v a b _ => fres v.w.fmode (addF fp32 (m v) (x v a) (fsrc v.w.fmode true false b))) ∧
   HalfGives 18 (fun v a b _ => fres v.w.fmode (prodF fp32 (m v) (x v a) (x v b))) ∧
   HalfGives 19 (fun v a b d => fres v.w.fmode (fmaF fp32 (m v) (x v a) (x v b) (x v d))) ∧
   HalfGives 20 (fun v a b _ => fres v.w.fmode (minF (x v a) (x v b))) ∧
   HalfGives 21 (fun v a b _ => fres v.w.fmode (maxF (x v a) (x v b))) ∧
   HalfGives 24 (fun v a b _ => packHalves fp16 fun e =>
     addF fp16 (m v) (halfOf fp16 false false a e) (halfOf fp16 false false b e)) ∧
   HalfGives 25 (fun v a b _ => packHalves fp16 fun e =>
     prodF fp16 (m v) (halfOf fp16 false false a e) (halfOf fp16 false false b e)) ∧
   HalfGives 26 (fun v a b _ => packHalves bf16 fun e =>
     addF bf16 (m v) (halfOf bf16 false false a e) (halfOf bf16 false false b e)) ∧
   HalfGives 27 (fun v a b _ => packHalves bf16 fun e =>
     prodF bf16 (m v) (halfOf bf16 false false a e) (halfOf bf16 false false b e))) ∧
  ∀ n, n = 15 ∨ n = 22 ∨ n = 23 ∨ 28 ≤ n → halfKind n = none

/-- R194 to R196, R198, R199: the scalar words compute once for the wave, and READLANE and WRITELANE reach lane
src(B) mod W, active or not. -/
def Obligations.ScalarResults : Prop :=
  ScalarIntWord .sadd (fun _ a b _ => a + b) ∧ ScalarIntWord .ssub (fun _ a b _ => a - b) ∧
  ScalarIntWord .smul (fun _ a b _ => a * b) ∧
  ScalarIntWord .smulh (fun n a b _ => a * b / ((2 ^ n : Nat) : Int)) ∧
  ScalarIntWord .smad (fun _ a b c => a * b + c) ∧ ScalarIntWord .smin (fun _ a b _ => min a b) ∧
  ScalarIntWord .smax (fun _ a b _ => max a b) ∧
  ScalarShiftWord .sshl (fun n a k => if k < n then ((a.toNat * 2 ^ k : Nat) : Int) else 0) ∧
  ScalarShiftWord .sshr (fun n a k => if k < n then ((a.toNat % 2 ^ n / 2 ^ k : Nat) : Int) else 0) ∧
  ScalarShiftWord .ssar (fun n a k => (a.setWidth n).toInt / ((2 ^ min k (n - 1) : Nat) : Int)) ∧
  ScalarWord .sblut (fun w a b c => (BitVec.ofNat 64 (((List.range 64).map fun i =>
    if w.sub.getLsbD ((if a.getLsbD i then 1 else 0) + (if b.getLsbD i then 2 else 0) + (if c.getLsbD i then 4 else 0))
    then 2 ^ i else 0).sum), 0)) ∧
  ScalarWord .smov (fun _ a _ _ => (a, 0)) ∧
  ScalarImmWord .smovi (fun _ w => w.imm.signExtend 64) ∧
  ScalarImmWord .smovh (fun v w => BitVec.ofNat 64 (w.imm.toNat * 2 ^ 32 + (src64 v w.d).toNat % 2 ^ 32)) ∧
  ScalarImmWord .saddi (fun v w => src64 v w.a + w.imm.signExtend 64) ∧
  ScalarWord .slea (fun w a b c => (a + b * BitVec.ofNat 64 (2 ^ w.sub.toNat) + c, 0)) ∧
  (∀ (w : WordA) (s : State) (v : View) (ex : Mask) (n r : Nat), Runs (.readlane w) s v ex → w.d = .s n → w.a = .v r →
    Goes (.readlane w) s v (v.put v.d
      (sput n ((vget v.d v.core v.w ((src64 v w.b).toNat % v.width) r).setWidth 64)))) ∧
  (∀ (w : WordA) (s : State) (v : View) (ex : Mask) (r : Nat), Runs (.writelane w) s v ex → w.d = .v r →
    Goes (.writelane w) s v
      (vset v.d v.core v.w ((src64 v w.b).toNat % v.width) r ((src64 v w.a).setWidth 32))) ∧
  (∀ w : WordI, encode (.smovi w) = some (2, w.toBits 0x0D) ∧ encode (.smovh w) = some (2, w.toBits 0x0E) ∧
    encode (.saddi w) = some (2, w.toBits 0x0F)) ∧
  ∀ mk ∈ [Instr.smovi, .smovh, .saddi], ∀ (w : WordI) (s : State) (v : View) (ex : Mask), Runs (mk w) s v ex → w.hd.md = 0

/-- R155, R200, R201: RDSR gives the register's value, a per-lane register's in each active lane or lane 0's to an s
register; WRSR changes the register named and nothing else, and stores 1 for a 0 in sr.lfsr; RDCNT gives the counter. The
model's choices, which these rules do not state: a register wider than 32 bits gives a v register its low 32 bits (log 123),
sr.clpos reads the word after RDSR (log 41), and an unaligned value written stands as written (log 42). -/
def Obligations.SpecialRegisterResults : Prop :=
  (∀ (w : WordI) (s : State) (v : View) (ex : Mask), Runs (.rdsr w) s v ex →
    let code := w.imm.toNat % 4096
    let x (l : Nat) : W64 := match code with
      | 0x002 => (tblGet 0#32 v.w.lfsr l).setWidth 64
      | 0x005 => (BitVec.ofNat 32 (wbOf v.w l)).setWidth 64
      | 0x006 => (BitVec.ofNat 32 (oldOf v.w l)).setWidth 64
      | 0x007 => (BitVec.ofNat 32 (bsblkOf v.w l % 2 ^ 26)).setWidth 64
      | 0x0C1 => if v.w.gfx.helper.getLsbD l then 1 else 0
      | c => srWave v c
    Goes (.rdsr w) s v (putWrites v v.d (match w.d with
      | .s n => [(.sreg n, x 0)]
      | d => dstWrites v d ex fun l => (x l).setWidth 32))) ∧
  (∀ (w : WordI) (s : State) (v : View) (ex : Mask), Runs (.wrsr w) s v ex →
    let value (l : Nat) : W64 :=
      match w.a with | .v n => (vget v.d v.core v.w l n).setWidth 64 | op => src64 v op
    let x := value v.lane0
    Goes (.wrsr w) s v (v.put v.d fun y => match w.imm.toNat % 4096 with
      | 0x000 => { y with fflags := x.setWidth 7 }
      | 0x001 => { y with fmode := x.setWidth 3 }
      | 0x002 => putLfsr (lanesOf v.width ex) (fun l => if (value l).setWidth 32 = 0#32 then 1 else (value l).setWidth 32) y
      | 0x040 => { y with trap := { y.trap with trvec := x.setWidth 48 } }
      | 0x0C0 => { y with gfx := { y.gfx with dsb := x.setWidth 48 } }
      | 0x100 => { y with trap := { y.trap with bsbase := x.setWidth 48 } }
      | 0x101 => { y with trap := { y.trap with bslane := x.setWidth 32 } }
      | 0x102 => { y with trap := { y.trap with spillh := x.setWidth 48 } }
      | 0x140 => { y with trap := { y.trap with strvec := x.setWidth 48 } }
      | 0x141 => { y with trap := { y.trap with wdlim := x.setWidth 6 } }
      | 0x142 => { y with trap := { y.trap with trfbase := x.setWidth 48 } }
      | _ => y)) ∧
  (∀ (w : WordI) (s : State) (v : View) (ex : Mask) (n : Nat), Runs (.rdcnt w) s v ex → w.d = .s n →
    Goes (.rdcnt w) s v (v.put v.d (sput n (match w.imm.toNat % 256 with
      | 0 => v.w.cnt.wcycle
      | 1 => v.d.fcycle
      | 2 => v.w.cnt.wissue
      | 3 => v.w.cnt.spass
      | _ => v.w.cnt.grain))))

/-! ## Memory -/

namespace Sys2Proof.Machine

/-- The lanes whose data a memory word moves: the lowest active lane for a uniform word; no helper lane for a store
(R218, R220). -/
def movers (v : View) (once : Bool) (ex : Mask) (store : Bool) : List Nat :=
  (if once then [v.lane0] else lanesOf v.width ex).filter fun l => !(store && v.helpers.getLsbD l)

/-- The registers of loaded data: `k` consecutive vector registers in the lanes that receive it (R219, R221). -/
def loadedTo (v : View) (once : Bool) (ex : Mask) (r k : Nat) (sx : Bool) (xs : List (Nat × List Byte)) :
    List (RegLoc × W64) :=
  groupWrites v r k (lanesOf v.width (if once then v.active else ex)) fun l =>
    loadWords sx (tblGet [] xs (if once then v.lane0 else l))

/-- A load of global memory: its lanes' bytes are read at its address, and its destination is pending with them (R131,
R143, R221). A reserved load reads L2 (R124) and reserves what it reads (R139). -/
def LoadWord (mk : WordM → Instr) (const reserved : Bool) : Prop :=
  ∀ (w : WordM) (s : State) (v : View) (ex : Mask) (ls : List (Nat × List Piece)), Runs (mk w) s v ex →
    let once := w.tl.u || v.uni
    let n := 2 ^ w.sz.toNat
    let from' := movers v once ex false
    memHeld v w.tl true false = false →
    checkLanes v { rd := true, w := false, x := false } .plain (if once then some ex else none)
      (from'.map fun l => (l, addrOf v w.a w.b w.off l, n)) = .ok ls →
    let d0 := if acquires w.tl then l1Acquire v.d v.core else v.d
    let x := loadLanes v .plain w.tl.ch const ls (if reserved then dropLines v.core ls d0 else d0)
    let d := if reserved then from'.foldl (fun d l => reserve v d l (addrOf v w.a w.b w.off l)) x.2 else x.2
    Goes (mk w) s v (v.put d (pushOpTo (lanesPorts v.d ls) .load (windowOf (some w.hd.md))
      (loadedTo v once ex (regNo w.d) (max 1 (n / 4)) w.sx x.1) none 0 v.place))

/-- The scratchpad place of lane `l`'s address: this core's, or with CH 1 that of a core of the hall (R223). -/
def spadAt (v : View) (tl : MemTail) (a : Nat) : Nat × Nat :=
  if tl.ch = 1 then (4 * v.hall + a / 0x40000 % 4, a % 0x40000) else (v.core, a % 0x40000)

/-- What a store leaves as it was beside memory and scratchpad: the plant, register files, accumulators and descriptors, block
registers, every other wave but its reservations, and of its own wave s registers, predicates, every special register that is no
counter, the trap and shader state and the tokens. -/
structure StoreFramed (s s' : State) (v : View) : Prop where
  plant : s'.plant = s.plant
  rf : s'.dev.st.rf = s.dev.st.rf
  acc : s'.dev.st.acc = s.dev.st.acc
  md : s'.dev.st.md = s.dev.st.md
  others : ∀ c slot, (c, slot) ≠ (v.core, v.slot) →
    (waveOf s'.dev c slot).map (fun w => { w with resv := [] }) = (waveOf s.dev c slot).map fun w => { w with resv := [] }
  blocks : ∀ b n, (tblFind s'.dev.blocks b).map (bget · n) = (tblFind s.dev.blocks b).map (bget · n)
  wave : ∃ w, waveOf s'.dev v.core v.slot = some w ∧ w.sregs = v.w.sregs ∧ w.preds = v.w.preds ∧ w.fflags = v.w.fflags ∧
    w.fmode = v.w.fmode ∧ w.lfsr = v.w.lfsr ∧ w.wb = v.w.wb ∧ w.old = v.w.old ∧ w.trap = v.w.trap ∧ w.gfx = v.w.gfx ∧
    w.tokPend = v.w.tokPend ∧ w.tokOrph = v.w.tokOrph

end Sys2Proof.Machine

open Sys2Proof Sys2Proof.Machine

/-- R131, R139, R143, R218 to R226, R232: the loads LD, LDC, LDRSV, LDS and SLD read every lane's bytes and leave their destination
pending with them; LDRSV also reserves the aligned 8 bytes. That the lanes read in the step that issues the word is the model's
choice among the executions of chapter 6 (log 6), and that LDRSV reads L2 is read from R124 (log 54). -/
def Obligations.LoadResults : Prop :=
  LoadWord .ld false false ∧ LoadWord .ldc true false ∧ LoadWord .ldrsv false true ∧
  (∀ (w : WordM) (s : State) (v : View) (ex : Mask), Runs (.lds w) s v ex →
    let once := w.tl.u || v.uni
    let n := 2 ^ w.sz.toNat
    let at' (l : Nat) : Nat × Nat := spadAt v w.tl (addrOf v w.a w.b w.off l)
    let from' := movers v once ex false
    memHeld v w.tl true false = false →
    checkSpad v (decide (w.tl.ch = 1)) false true (if once then some ex else none)
      (from'.map fun l => (l, (at' l).1, (at' l).2, n)) = none →
    let d := v.put (if acquires w.tl then l1Acquire v.d v.core else v.d)
      (addPasses (corePasses n once true (from'.map fun l => (l, (at' l).1, (at' l).2, n))))
    Goes (.lds w) s v (v.put d (pushOp .load (windowOf (some w.hd.md))
      (loadedTo v once ex (regNo w.d) (max 1 (n / 4)) w.sx
        (from'.map fun l => (l, spadRead v.d (at' l).1 (at' l).2 n))) none 0 v.place))) ∧
  (∀ (w : WordM) (s : State) (v : View) (ex : Mask) (ls : List (Nat × List Piece)), Runs (.sld w) s v ex →
    let n := 2 ^ w.sz.toNat
    memHeld v w.tl true false = false →
    checkLanes v { rd := true, w := false, x := false } .plain (some ex)
      [(v.lane0, addrOf v w.a w.b w.off v.lane0, n)] = .ok ls →
    let x := loadLanes v .plain w.tl.ch false ls (if acquires w.tl then l1Acquire v.d v.core else v.d)
    Goes (.sld w) s v (v.put x.2 (pushOpTo (lanesPorts v.d ls) .load (windowOf (some w.hd.md))
      (sldWrites (regNo w.d) w.sx (tblGet [] x.1 v.lane0)) none 0 v.place)))

/-- R139, R220, R221, R223, R233: ST and STS store every lane's data in lane order, all checked first, and a store is
outstanding; STCND stores in the lanes whose reservation holds, clears it, and gives 0 there and 1 elsewhere. -/
def Obligations.StoreResults : Prop :=
  (∀ (w : WordM) (s : State) (v : View) (ex : Mask) (ls : List (Nat × List Piece)), Runs (.st w) s v ex →
    let once := w.tl.u || v.uni
    let n := 2 ^ w.sz.toNat
    memHeld v w.tl false true = false →
    checkLanes v { rd := false, w := true, x := false } .plain (if once then some ex else none)
      ((movers v once ex true).map fun l => (l, addrOf v w.a w.b w.off l, n)) = .ok ls →
    Goes (.st w) s v (v.put (storeLanes v .plain w.tl.ch (storeData v w.d n) ls v.d)
      (pushOpTo (lanesPorts v.d ls) .store none [] none 0 []))) ∧
  (∀ (w : WordM) (s : State) (v : View) (ex : Mask), Runs (.sts w) s v ex →
    let once := w.tl.u || v.uni
    let n := 2 ^ w.sz.toNat
    let at' (l : Nat) : Nat × Nat := spadAt v w.tl (addrOf v w.a w.b w.off l)
    let from' := movers v once ex true
    memHeld v w.tl false true = false →
    checkSpad v (decide (w.tl.ch = 1)) true false (if once then some ex else none)
      (from'.map fun l => (l, (at' l).1, (at' l).2, n)) = none →
    let d := v.put (if acquires w.tl then l1Acquire v.d v.core else v.d)
      (addPasses (corePasses n once true (from'.map fun l => (l, (at' l).1, (at' l).2, n))))
    Goes (.sts w) s v (v.put
      (from'.foldl (fun d l => spadWrite d (at' l).1 (at' l).2 (storeData v w.d n l)) d)
      (pushOp .store none [] none 0 []))) ∧
  (∀ (w : WordMA) (s : State) (v : View) (ex : Mask) (ls : List (Nat × List Piece)), Runs (.stcnd w) s v ex →
    let once := w.tl.u || v.uni
    let n := 2 ^ w.sz.toNat
    memHeld v w.tl true true = false →
    checkLanes v { rd := true, w := true, x := false } .plain (if once then some ex else none)
      ((movers v once ex true).map fun l => (l, addrOf v w.a w.b 0 l, n)) = .ok ls →
    let r := stcndLanes v w ls v.d
    let ws := vWrites v (regNo w.d) (lanesOf v.width (if once then v.active else ex)) fun l =>
      if r.1.contains (if once then v.lane0 else l) then 1 else 0
    Goes (.stcnd w) s v (v.put r.2 fun x =>
      pushOpTo (lanesPorts v.d ls) .store none [] none 0 []
        (pushOpTo (lanesPorts v.d ls) .load (windowOf (some w.hd.md)) ws none 0 v.place x)))

/-- R221, R223, R379: ST and STS change no byte of memory or scratchpad outside the bytes they store to, no vector, s, block or
predicate register, no special register that is no counter, no accumulator or descriptor, and nothing of another wave but
reservations of what they wrote. -/
def Obligations.StoreFrame : Prop :=
  (∀ (w : WordM) (s s' : State) (v : View) (ex : Mask) (ls : List (Nat × List Piece)), Runs (.st w) s v ex →
    let once := w.tl.u || v.uni
    let n := 2 ^ w.sz.toNat
    memHeld v w.tl false true = false →
    checkLanes v { rd := false, w := true, x := false } .plain (if once then some ex else none)
      ((movers v once ex true).map fun l => (l, addrOf v w.a w.b w.off l, n)) = .ok ls →
    exec (.st w) s = .next s' →
    (∀ a, Outside a (lanesStored v .plain w.tl.ch (storeData v w.d n) ls v.d) →
      memGet s'.dev.st.mem a = memGet s.dev.st.mem a) ∧
    s'.dev.st.spad = s.dev.st.spad ∧ StoreFramed s s' v) ∧
  (∀ (w : WordM) (s s' : State) (v : View) (ex : Mask), Runs (.sts w) s v ex →
    let once := w.tl.u || v.uni
    let n := 2 ^ w.sz.toNat
    let at' (l : Nat) : Nat × Nat := spadAt v w.tl (addrOf v w.a w.b w.off l)
    let from' := movers v once ex true
    memHeld v w.tl false true = false →
    checkSpad v (decide (w.tl.ch = 1)) true false (if once then some ex else none)
      (from'.map fun l => (l, (at' l).1, (at' l).2, n)) = none →
    exec (.sts w) s = .next s' →
    (∀ a, Outside a (from'.map fun l => (spadKey (at' l).1 (at' l).2, (storeData v w.d n l).length)) →
      memGet s'.dev.st.spad a = memGet s.dev.st.spad a) ∧
    s'.dev.st.mem = s.dev.st.mem ∧ StoreFramed s s' v)

/-- R124, R220, R230, R231: an atomic's result by its AOP, and ATOM, RED and ATOMS apply it lane by lane in ascending order, each
lane's old value going to D (RED gives none). -/
def Obligations.AtomicResults : Prop :=
  (∀ (n old d swap : Nat) (sg : Bool), old < 2 ^ n → d < 2 ^ n → swap < 2 ^ n →
    atomicOp 0 n sg old d swap = (old + d) % 2 ^ n ∧
    ((atomicOp 1 n sg old d swap : Nat) : Int) = ((old : Int) - d) % ((2 ^ n : Nat) : Int) ∧
    intOf n sg (atomicOp 2 n sg old d swap) = min (intOf n sg old) (intOf n sg d) ∧
    intOf n sg (atomicOp 3 n sg old d swap) = max (intOf n sg old) (intOf n sg d) ∧
    atomicOp 4 n sg old d swap = old &&& d ∧ atomicOp 5 n sg old d swap = old ||| d ∧
    atomicOp 6 n sg old d swap = old ^^^ d ∧ atomicOp 7 n sg old d swap = d ∧
    atomicOp 8 n sg old d swap = (if old = d then swap else old) ∧
    atomicOp 12 n sg old d swap = (if d ≤ old then 0 else old + 1) ∧
    atomicOp 13 n sg old d swap = (if old = 0 ∨ d < old then d else old - 1)) ∧
  (∀ (old d swap n : Nat) (sg : Bool), old < 2 ^ 32 → d < 2 ^ 32 →
    atomicOp 9 n sg old d swap = encodeF fp32 (addF fp32 .rne (decodeF fp32 old) (decodeF fp32 d)).1 ∧
    atomicOp 10 n sg old d swap = encodeF fp32 (minF (decodeF fp32 old) (decodeF fp32 d)).1 ∧
    atomicOp 11 n sg old d swap = encodeF fp32 (maxF (decodeF fp32 old) (decodeF fp32 d)).1) ∧
  (∀ (w : WordMA) (s : State) (v : View) (ex : Mask) (ls : List (Nat × List Piece)),
    let once := w.tl.u || v.uni
    let as := (movers v once ex true).map fun l => (l, addrOf v w.a w.b 0 l, 2 ^ w.sz.toNat)
    let r := atomicLanes v w ls (if acquires w.tl then l1Acquire v.d v.core else v.d)
    checkLanes v { rd := true, w := true, x := false } .plain (if once then some ex else none) as = .ok ls →
    (Runs (.atom w) s v ex → memHeld v w.tl true true = false →
      Goes (.atom w) s v (v.put r.2 fun x => pushOpTo (lanesPorts v.d ls) .store none [] none 0 []
        (pushOpTo (lanesPorts v.d ls) .load (windowOf (some w.hd.md)) (loadedTo v once ex (regNo w.d) (max 1 (2 ^ w.sz.toNat / 4)) false r.1) none 0 v.place x))) ∧
    (Runs (.red w) s v ex → memHeld v w.tl false true = false →
      Goes (.red w) s v (v.put r.2 (pushOpTo (lanesPorts v.d ls) .store none [] none 0 [])))) ∧
  (∀ (w : WordMA) (s : State) (v : View) (ex : Mask), Runs (.atoms w) s v ex →
    let once := w.tl.u || v.uni
    let n := 2 ^ w.sz.toNat
    let as := (movers v once ex true).map fun l =>
      (l, (spadAt v w.tl (addrOf v w.a w.b 0 l)).1, (spadAt v w.tl (addrOf v w.a w.b 0 l)).2, n)
    memHeld v w.tl true true = false →
    checkSpad v (decide (w.tl.ch = 1)) true true (if once then some ex else none) as = none →
    let d := v.put (if acquires w.tl then l1Acquire v.d v.core else v.d)
      (addPasses (corePasses n once false as))
    let r := spadAtomics v w as d
    Goes (.atoms w) s v (v.put r.2 fun x => pushOp .store none [] none 0 [] (pushOp .load (windowOf (some w.hd.md))
      (loadedTo v once ex (regNo w.d) (max 1 (n / 4)) false r.1) none 0 v.place x)))

/-- R88, R90, R91, R227 to R229: LDB and STB read their record, place each lane's element by it, and convert each enabled
component by its encoding; an element outside the extents loads 0 and stores nothing. That the record moves its lines as a load
does is read from R96 and R98; the scale bytes of helper lanes' flags are the model's choice (log 45), and so is that `.sr` under
ENC 1 to 3 rounds as R91 says and takes no generator step (log 140). -/
def Obligations.RecordAccessResults : Prop :=
  (∀ (w : WordB) (s : State) (v : View) (ex : Mask) (r : BufRec) (rps : List Piece) (ls : List (Nat × List Piece)),
    Runs (.ldb w) s v ex →
    let once := w.tl.u || v.uni
    let es := (movers v once ex false).map fun l => (l, laneElem v w r l)
    let ins := es.filter fun e => e.2.inside
    readRecord v w.rc.toNat ex = .ok r rps → firstBad (recordChecks w r) = none → memHeld v w.tl true false = false →
    checkLanes v { rd := true, w := false, x := false } (recordReader r) (if once then some ex else none)
      (ins.map (fun e => (e.1, e.2.va, elemBytes r.fmt)) ++ scaleAccess r es) = .ok ls →
    let x := loadLanes v (recordReader r) w.tl.ch false ls (if acquires w.tl then l1Acquire v.d v.core else v.d)
    let words (l : Nat) : List W32 :=
      let k := if once then v.lane0 else l
      match (es.find? fun e => decide (e.1 = k)).map (·.2) with
      | none => []
      | some e => (enabled w.cm).flatMap fun j =>
          componentLoad r (elemRaw r e (tblGet [] (x.1.take ins.length) k)) j e.inside
            (tblGet [] (x.1.drop ins.length) k)
    Goes (.ldb w) s v (loadTouch v.core v.w.ctx 0 false rps
      (v.put x.2 (pushOpTo (lanesPorts v.d ls) .load (windowOf (some w.hd.md))
        (groupWrites v (regNo w.d) (recordRegs r w.cm) (lanesOf v.width (if once then v.active else ex)) words)
        none 0 v.place)))) ∧
  (∀ (w : WordB) (s : State) (v : View) (ex : Mask) (r : BufRec) (rps : List Piece)
    (ls sls : List (Nat × List Piece)), Runs (.stb w) s v ex →
    let once := w.tl.u || v.uni
    let elem (l : Nat) : Elem := laneElem v w r l
    let ins := (movers v once ex false).filter fun l => (elem l).inside
    let live := ins.filter fun l => !v.helpers.getLsbD l
    let srBad := [2, 3, 8, 9, 10].contains r.fmt || decide (14 ≤ r.fmt) || (decide (r.fmt = 13) && decide (r.enc < 6))
    readRecord v w.rc.toNat ex = .ok r rps →
    firstBad (recordChecks w r ++ [c14 (decide (w.sub.toNat % 8 = 5) && srBad) 10]) = none →
    memHeld v w.tl false true = false →
    checkLanes v { rd := false, w := true, x := false } (recordReader r) (if once then some ex else none)
      (live.map fun l => (l, (elem l).va, elemBytes r.fmt)) = .ok ls →
    checkLanes v { rd := true, w := false, x := false } (recordReader r) (if once then some ex else none)
      (scaleAccess r (live.map fun l => (l, elem l))) = .ok sls →
    let scales := peekLanes v (recordReader r) sls ++ helperScales v r (ins.filter fun l => v.helpers.getLsbD l) elem
    let res (l : Nat) : List (Nat × Nat) × Flags × W32 :=
      laneCodes v w r (tblGet [] scales l) l (enabled w.cm) 0 (tblGet 0#32 v.w.lfsr (if once then 0 else l))
    let fl := orFlags (ins.map fun l => (res l).2.1)
    let gens (x : Wave) : Wave :=
      if w.sub.toNat % 8 = 5 ∧ ins ≠ [] then
        putLfsr (if once then [0] else ins) (fun l => (res (if once then v.lane0 else l)).2.2) x
      else x
    let d := storeElems v w r (fun l => (res l).1) elem ls v.d
    Goes (.stb w) s v (loadTouch v.core v.w.ctx 0 false rps (v.put (v.put d fun x => addFlags fl (gens x))
      (pushOpTo (lanesPorts v.d ls) .store none [] none 0 [])))) ∧
  (∀ (r : BufRec) (raw j : Nat) (sc : List Byte), r.enc ≠ 0 → r.swz.getD j 4 = 4 → componentLoad r raw j true sc = [0]) ∧
  (∀ (r : BufRec) (x y z : Nat), r.ilv = 0 → r.fmt ≠ 13 →
    (elemAt r x y z).va = (r.base + z * r.stride2 + y * r.stride1 + x * elemBytes r.fmt) % 2 ^ 48 ∧
    ((elemAt r x y z).inside = true ↔ x < r.ext0 ∧ y ≤ r.ext1 ∧ z ≤ r.ext2))

/-- R128, R129, R234, R262 to R264: FENCE acquires at once and, where it releases, holds its wave until its stores are
acknowledged, those of other modules at .dom only; PREF brings the lines that it may read to L2, and with CH 0 to L1 (the grain and
the tables' A bits are log 61's), CWB cleans each line's device copy and is ordered as a store, and CINV drops the core's copies. -/
def Obligations.FenceAndCacheResults : Prop :=
  (∀ (w : WordM) (s : State) (v : View) (ex : Mask), Runs (.fence w) s v ex →
    (∀ o ∈ v.w.ops, ∀ n, RegLoc.breg n ∉ o.regs) →
    let wide := 2 ≤ w.tl.sco.toNat
    let d := finish v (if wide ∧ w.tl.ord ≠ 2 then l1Acquire v.d v.core else v.d) .onward
    exec (.fence w) s = .next { s with dev :=
      if wide ∧ w.tl.ord ≠ 1 then v.put d fun x => { x with fenced := some (decide (w.tl.sco = 4)) } else d }) ∧
  (∀ (w : WordM) (s : State) (v : View) (ex : Mask), Runs (.pref w) s v ex →
    Goes (.pref w) s v
      ((movers v (w.tl.u || v.uni) ex false).foldl (fun d l => prefetch v w.tl.ch d (addrOf v w.a w.b w.off l)) v.d)) ∧
  (∀ (v : View) (ch : BitVec 2) (d : Device) (va leaf : Nat) (te : TlbEntry) (pte : W64),
    walkTables d v.w.ctx va = .ok te leaf pte → te.kind = 0 → te.mt ≠ 2 →
    permFault te { rd := true, w := false, x := false } v.priv va = none →
    let pa := te.pa + (va - te.page)
    waveReach d pa = true → isRemote d pa = false → (tblFind (prefetch v ch d va).st.l2 (pa / 128)).isSome = true) ∧
  (∀ (w : WordM) (s : State) (v : View) (ex : Mask) (ls : List (Nat × List Piece)),
    checkLanes v { rd := false, w := false, x := false, bare := true } .plain none
      ((lanesOf v.width ex).map fun l => (l, addrOf v w.a w.b w.off l, 1)) = .ok ls →
    let lines := ls.flatMap fun e => e.2.map fun p => p.pa / 128
    (Runs (.cwb w) s v ex →
      Goes (.cwb w) s v (v.put (lines.foldl cleanLine v.d) (pushOpTo (lanesPorts v.d ls) .cwb none [] none 0 []))) ∧
    (Runs (.cinv w) s v ex → w.tl.ch ≠ 1 →
      Goes (.cinv w) s v (modCore v.d v.core fun k => { k with l1 := k.l1.filter fun x => !lines.contains x.line }))) ∧
  (∀ (w : WordM) (s : State) (v : View) (ex : Mask), Runs (.cinv w) s v ex → w.tl.ch = 1 →
    Goes (.cinv w) s v (modCore v.d v.core fun k => { k with l1 := [] }))

/-! ## Synchronisation, queues, alcoves, launches, copies -/

/-- R79, R235 to R238: ARINIT writes the word, ARRIVE raises it, and ARWAIT goes on where the generation has changed and
otherwise leaves the wave waiting; a raise counts, and each full count advances the generation. -/
def Obligations.ArrivalResults : Prop :=
  (∀ (w : WordE) (s : State) (v : View) (ex : Mask) (loc : ArLoc), Runs (.arinit w) s v ex → storesOut v.w < 63 →
    arFind v ex (src64 v w.x) false true = .at loc →
    let y := (src64 v w.y).toNat
    Goes (.arinit w) s v (v.put (arUpdate v v.d loc (leBytes 4 (y % 2 ^ 32) ++ leBytes 4 0 ++ leBytes 4 (y / 2 ^ 32) ++
      leBytes 4 0)) (pushOpTo (arPorts v.d loc) .store none [] none 0 []))) ∧
  (∀ (w : WordE) (s : State) (v : View) (ex : Mask) (loc : ArLoc), Runs (.arrive w) s v ex →
    arFind v ex (src64 v w.x) true true = .at loc →
    storesFor false v.w = 0 → storesFor (decide (arPorts v.d loc ≠ [])) v.w = 0 →
    Goes (.arrive w) s v (emit
      (arUpdate v v.d loc (raiseBytes (arBytes v.d loc) ((src64 v w.y).toNat % 2 ^ 32) 0 0)) v.src (.raise (src64 v w.x)))) ∧
  (∀ (w : WordE) (s : State) (v : View) (ex : Mask) (loc : ArLoc), Runs (.arwait w) s v ex →
    let op := src64 v w.x
    let dst := if w.sub.getLsbD 0 then some (regNo w.y) else none
    arFind v ex op true false = .at loc →
    ((arGen v.d loc).extractLsb' 0 16 ≠ op.extractLsb' 48 16 →
      Goes (.arwait w) s v (v.put (arSeen v.core loc v.d) fun x => match dst with
        | some n => sput n ((arGen v.d loc).setWidth 64) x | none => x)) ∧
    ((arGen v.d loc).extractLsb' 0 16 = op.extractLsb' 48 16 → v.w.pos.clpos ≠ 0 ∨ field v.hdr 56 4 = 0 →
      Goes (.arwait w) s v (v.put v.d fun x => { x with arw := some { operand := op, dst := dst } }))) ∧
  (∀ (bs : List Byte) (n : Nat) (f : BitVec 7) (e : BitVec 8), bs.length = 16 →
    let word (l : List Byte) (i : Nat) : Nat := leNat ((l.drop (4 * i)).take 4)
    let target := if word bs 0 % 2 ^ 31 = 0 then 2 ^ 31 else word bs 0 % 2 ^ 31
    let c := word bs 1 + if 2 ^ 31 ≤ word bs 0 then 1 else n
    let r := raiseBytes bs n f e
    word r 0 = word bs 0 ∧ word r 1 = c % target ∧ word r 2 = (word bs 2 + c / target) % 2 ^ 32 ∧
      word r 3 = word bs 3 ||| f.toNat ||| (e.toNat * 256))

/-- R97, R239 to R242: QGATH and QSCAT bind a side of a queue to the wave, QFLUSH unbinds it and gives its token an
operation that ends with the wave's stores, and QSTAT reads its state. Model's choices: a queue not bound to the wave reads 0
(log 50), a second binding of a side replaces the first and keeps the other side (log 51), QFLUSH's token is held by an operation of
its own kind (log 63), and SPEND reads 0, since a push stores in the step that makes it (log 6). -/
def Obligations.QueueResults : Prop :=
  (∀ (w : WordE) (s : State) (v : View) (ex : Mask),
    let j := w.sub.toNat % 4
    let old := apqOf v.d v.core j
    let q := if old.slot = some v.slot then old else { blankApQueue with slot := some v.slot }
    let offs := (List.range v.width).map fun l => src v [] w.z l
    old.slot = none ∨ old.slot = some v.slot →
    (Runs (.qgath w) s v ex → Goes (.qgath w) s v (modApq v.d v.core j fun _ =>
      { q with gbnd := true, gsp := w.sub.getLsbD 2, gbase := src64 v w.x, gstride := src64 v w.w,
               gcount := field (src64 v w.y) 0 32, gnext := 0, goffs := offs, gmask := v.active, entries := [] })) ∧
    (Runs (.qscat w) s v ex → Goes (.qscat w) s v (modApq v.d v.core j fun _ =>
      { q with sbnd := true, ssp := w.sub.getLsbD 2, sovf := false, sqbase := src64 v w.x, sqstride := src64 v w.w,
               scount := field (src64 v w.y) 0 32, snext := 0, soffs := offs, smask := v.active }))) ∧
  (∀ (w : WordE) (s : State) (v : View) (ex : Mask), Runs (.qflush w) s v ex →
    let j := w.sub.toNat % 4
    let d := if (apqOf v.d v.core j).slot = some v.slot then
      modCore v.d v.core fun k => { k with queues := tblErase k.queues j } else v.d
    Goes (.qflush w) s v (v.put d fun x => if w.te = true ∧ storesOut x ≠ 0 then
      tokStart w.tok (pushOp .flush none [] (some w.tok.toNat) 0 [] x) else x)) ∧
  (∀ (w : WordE) (s : State) (v : View) (ex : Mask), Runs (.qstat w) s v ex →
    let q := apqOf v.d v.core (w.sub.toNat % 4)
    let rem := if q.gbnd then q.gcount - q.gnext else 0
    let bit (b : Bool) : Nat := if b then 1 else 0
    let x : W64 := if q.slot = some v.slot then
      BitVec.ofNat 64 (rem * 2 ^ 32 + bit q.sovf * 2 ^ 19 + bit (q.gbnd && decide (rem = 0)) * 2 ^ 18 +
        bit q.sbnd * 2 ^ 17 + bit q.gbnd * 2 ^ 16 + min q.entries.length 128) else 0
    Goes (.qstat w) s v (v.put v.d (pushOp .query (windowOf (some w.hd.md)) [(.sreg (regNo w.x), x)] none 0 [])))

/-- R83, R84, R254 to R260: the alcove words: made, attached (with its offset and generation pending, or waiting), sealed,
released, evicted, and queried. -/
def Obligations.AlcoveResults : Prop :=
  (∀ (w : WordE) (s : State) (v : View) (ex : Mask) (i : Nat), Runs (.alcmake w) s v ex → attWaits v.w = false →
    let t := alcDesc (src64 v w.y)
    let gs := (List.range (t.2.2.1 + 1)).map fun k => v.blk.sgran + t.2.2.2 + k
    alcFind v.d v.w.ctx (src64 v w.x) = none →
    leastFrom (fun i => (tblFind v.d.alcoves i).isNone) 4096 0 = some i →
    t.2.2.2 + t.2.2.1 < v.blk.ngran → (∀ g ∈ gs, ownsGranule v.blk g = true) →
    let d := { v.d with alcoves := tblSet v.d.alcoves i (newAlcove v (src64 v w.x) (src64 v w.y) (src64 v w.z)) }
    Goes (.alcmake w) s v
      (attachBlock (modBlock d v.w.block fun b => { b with freed := b.freed ++ gs }) v.w.block i false)) ∧
  (∀ (w : WordE) (s : State) (v : View) (ex : Mask) (d : Device) (x : W64), Runs (.alcatt w) s v ex →
    attWaits v.w = false →
    (attachTry v.d v.w.block v.blk (src64 v w.x) = .done d x →
      Goes (.alcatt w) s v (v.put (l1Acquire d v.core) (attOp v w ex (some x)))) ∧
    (attachTry v.d v.w.block v.blk (src64 v w.x) = .wait d → Goes (.alcatt w) s v (v.put d (attOp v w ex none)))) ∧
  (∀ (w : WordE) (s : State) (v : View) (ex : Mask) (i : Nat), Runs (.alcseal w) s v ex →
    attWaits v.w = false → alcFind v.d v.w.ctx (src64 v w.x) = some i → attachedTo v.blk i = true →
    (alcOf v.d i).busy = false →
    Goes (.alcseal w) s v (modAlc v.d i fun a =>
      { a with sealed := true, gen := a.gen + 1, remain := if a.life = 2 then a.lease else a.remain })) ∧
  (∀ (w : WordE) (s : State) (v : View) (ex : Mask), Runs (.alcrel w) s v ex → attWaits v.w = false →
    match alcFind v.d v.w.ctx (src64 v w.x) with
    | none => Goes (.alcrel w) s v v.d
    | some i => (alcOf v.d i).busy = false →
      let d1 := if w.sub.getLsbD 0 then modAlc v.d i fun a => { a with marked := true } else v.d
      let d2 := if attachedTo v.blk i then modBlock (alcDetach d1 i) v.w.block fun b =>
        { b with attach := b.attach.filter fun a => decide (a.entry ≠ i) } else d1
      let a := alcOf d2 i
      Goes (.alcrel w) s v (if a.state ≠ 0 ∧ a.marked ∧ a.attach = 0 then alcEnd d2 i else d2)) ∧
  (∀ (w : WordE) (s : State) (v : View) (ex : Mask), Runs (.alcevict w) s v ex → attWaits v.w = false →
    match alcFind v.d v.w.ctx (src64 v w.x) with
    | none => Goes (.alcevict w) s v v.d
    | some i => (alcOf v.d i).busy = false →
      ((alcOf v.d i).state = 2 → Goes (.alcevict w) s v v.d) ∧
      ((alcOf v.d i).state ≠ 2 → (alcOf v.d i).attach = 0 →
        Goes (.alcevict w) s v (v.put (startEvict v.d i) fun x => if w.te then
          tokStart w.tok (pushOp .evict none [] (some w.tok.toNat) 0 [src64 v w.x] x) else x))) ∧
  (∀ (w : WordE) (s : State) (v : View) (ex : Mask), Runs (.alcqry w) s v ex → attWaits v.w = false →
    let x := match alcFind v.d v.w.ctx (src64 v w.x) with | some i => qryValue (alcOf v.d i) | none => 0
    Goes (.alcqry w) s v (v.put v.d (pushOp .query (windowOf (some w.hd.md)) [(.sreg (regNo w.y), x)] none 0 [])))

namespace Sys2Proof.Machine

/-- A copy that is taken: its queue has room and its spans are sound, reachable and locked by no other queue; it joins the
tail of its queue with its range locks, and its token is pending (R132, R243 to R250). -/
def CopyWord (mk : WordE → Instr) (opc : BitVec 8) (bad : View → WordE → Bool) : Prop :=
  ∀ (w : WordE) (s : State) (v : View) (ex : Mask), Runs (mk w) s v ex → bad v w = false →
    let spans := copySpans v opc w
    let q := cpQueue w
    (∀ x ∈ spans, spanBad x.at' x.last = false) → (cqOf (hallOf v.d v.hall) q).length < 16 →
    lockRoom (hallOf v.d v.hall) spans.length = true → firstFault (spanRange v) spans = none →
    firstFault (spanBreach v fun l => decide (l.queue = some q)) spans = none →
    let o := newCopy v opc w []
    let d := modHall { v.d with nextId := v.d.nextId + 1 } v.hall fun h =>
      lockAll (spans.map (spanLock v o.id (some q))) { h with cq := tblSet h.cq q (cqOf h q ++ [o]) }
    Goes (mk w) s v (v.put d fun x => if w.te then tokStart w.tok x else x)

end Sys2Proof.Machine

open Sys2Proof Sys2Proof.Machine

/-- R132, R243 to R246, R248 to R252: CPY, CPYR, CPYF, CPYX and SIGNAL join their copy queue in issue order. That CPYX reads its
record, and with it CLEAR, when the word issues is read from R251 and R88 (log 59). -/
def Obligations.CopyResults : Prop :=
  CopyWord .cpy 0x30 (fun v w =>
    let l := shLen (cpSh0 v w)
    decide (l = 0) || (decide (0 < cpVar w) && decide (l % cpVar w ≠ 0))) ∧
  CopyWord .cpyr 0x31 (fun v w =>
    let l := shLen (cpSh0 v w)
    let z := reduceSizes (cpVar w)
    decide (l = 0) ||
      ([l, shSp (cpSh1 v w), shDp (cpSh1 v w), (eaOf v w.x).base, (eaOf v w.y).base].any fun x => decide (x % z.1 ≠ 0)) ||
      [shDp (cpSh1 v w), (eaOf v w.x).base].any fun x => decide (x % z.2 ≠ 0)) ∧
  CopyWord .cpyf 0x32 (fun v w => decide (shLen (cpSh0 v w) = 0)) ∧
  (∀ (w : WordE) (s : State) (v : View) (ex : Mask) (r : BufRec) (rps : List Piece),
    Runs (.cpyx w) s v ex →
    let l := shLen (cpSh0 v w)
    let va := (eaOf v w.x).base
    let q := cpQueue w
    let spans : List Span := [{ at' := .virt va, last := l - 1, dest := true }, { at' := .virt va, last := l - 1, dest := false }]
    l ≠ 0 → va % 256 = 0 → l % 256 = 0 → shRows (cpSh0 v w) = 1 →
    readRecord v (field (src64 v w.y) 0 12) ex = .ok r rps →
    (∀ x ∈ spans, spanBad x.at' x.last = false) → (cqOf (hallOf v.d v.hall) q).length < 16 →
    lockRoom (hallOf v.d v.hall) 2 = true → firstFault (spanRange v) spans = none →
    firstFault (spanBreach v fun l => decide (l.queue = some q)) spans = none →
    Goes (.cpyx w) s v (loadTouch v.core v.w.ctx 0 false rps
      (v.put (queueCopy v v.d (newCopy v 0x33 w (clearBytes (halfBytes r.fmt) r.clear)) spans)
        fun x => if w.te then tokStart w.tok x else x))) ∧
  (∀ (w : WordE) (s : State) (v : View) (ex : Mask), Runs (.signal w) s v ex →
    let q := cpQueue w
    let spans : List Span := [{ at' := eaOf v w.x, last := 7, dest := true }]
    (eaOf v w.x).base % 8 = 0 → (∀ x ∈ spans, spanBad x.at' x.last = false) →
    (cqOf (hallOf v.d v.hall) q).length < 16 → lockRoom (hallOf v.d v.hall) 1 = true →
    firstFault (spanRange v) spans = none →
    firstFault (spanBreach v fun l => decide (l.queue = some q)) spans = none →
    Goes (.signal w) s v (v.put (queueCopy v v.d (newCopy v 0x34 w []) spans)
      fun x => if w.te then tokStart w.tok x else x))

/-- R47, R261: LAUNCH appends each executing lane's LPB address to its queue, in lane order, once every child is sound. -/
def Obligations.LaunchResults : Prop :=
  ∀ (w : WordE) (s : State) (v : View) (ex : Mask), Runs (.launch w) s v ex → storesFor false v.w = 0 →
    let cs := (movers v (w.u || v.uni) ex true).map fun l =>
      ({ lane := l, queue := (src v [] w.z l).toNat % 256
         va := ((src64 v w.x).toNat + (src v [] w.y l).toNat) % 2 ^ 48 } : Child)
    badChildren v.d [] cs = [] →
    Goes (.launch w) s v (cs.foldl (fun d c =>
      appendEntry d c.queue { wait := false, va := BitVec.ofNat 48 c.va, ctx := v.w.ctx, cyc := 0, rank := v.core }) v.d)

/-! ## Matrix, regroup and weights -/

namespace Sys2Proof.Machine

/-- A matrix word that is taken: its hall's queue has room and its spans are reachable and locked by no other; its entry
joins the queue with its range locks, its token is pending, and MDECOMP's status register with it (R132, R265, R268). MMAD has
read its image's header by then, a load of the wave (R123, R283). -/
def EntryWord (mk : WordX → Instr) (opc : BitVec 8) (desc : Bool) : Prop :=
  ∀ (w : WordX) (s : State) (v : View) (ex : Mask) (img : List W64) (d0 : Device), Runs (mk w) s v ex →
    let e := newEntry v opc w desc img
    let spans := entrySpans e v.blk.acct
    (if opc = 0x04 then readHeader v ex w = .ok (img, d0) else img = [] ∧ d0 = v.d) →
    matFull (hallOf v.d v.hall) [] = false → matFull (hallOf v.d v.hall) spans = false →
    firstFault (spanRange v) spans = none →
    firstFault (spanBreach v fun l => decide (l.queue = none ∧ l.block = v.w.block)) spans = none →
    let d := modHall { d0 with nextId := d0.nextId + 1 } v.hall fun h =>
      lockAll (spans.map (spanLock v e.id none)) { h with mat := h.mat ++ [e] }
    Goes (mk w) s v (v.put d fun x =>
      let y := if w.cm = 0 ∨ w.cm = 2 then tokStart w.tok x else x
      if opc = 0x12 then pushOp .decomp (windowOf (some w.hd.md)) [(.sreg (regNo w.b + 1), 0)] none 0 [] y else y)

end Sys2Proof.Machine

open Sys2Proof Sys2Proof.Machine

/-- R265, R268, R270 to R279, R283: FMTD builds the descriptor pair, and every other matrix word posts its entry to the hall's queue. -/
def Obligations.MatrixWordResults : Prop :=
  (∀ (w : WordA) (s : State) (v : View) (ex : Mask), Runs (.fmtd w) s v ex →
    let a := src64 v w.a
    let b := src64 v w.b
    let c := src64 v w.c
    let bit (x : W64) (i : Nat) : Nat := x.toNat / 2 ^ i % 2
    let d0 := (w.sub.toNat % 16) * 2 ^ 60 + (w.sub.toNat / 16) * 2 ^ 56 + bit c 17 * 2 ^ 55 + bit c 19 * 2 ^ 54 +
      bit a 63 * 2 ^ 53 + bit c 16 * 2 ^ 52 + a.toNat % 2 ^ 48
    let d1 := (c.toNat % 2 ^ 10) * 2 ^ 54 + bit c 18 * 2 ^ 53 + bit c 20 * 2 ^ 52 + bit b 63 * 2 ^ 51 + b.toNat % 2 ^ 48
    Goes (.fmtd w) s v (v.put v.d fun x =>
      sput (regNo w.d + 1) (BitVec.ofNat 64 d1) (sput (regNo w.d) (BitVec.ofNat 64 d0) x))) ∧
  EntryWord .mma 0x02 true ∧ EntryWord .mmas 0x03 true ∧ EntryWord .mmad 0x04 true ∧ EntryWord .mzero 0x08 false ∧
  EntryWord .mld 0x09 false ∧ EntryWord .mst 0x0A false ∧ EntryWord .mscl 0x0B false ∧ EntryWord .mdload 0x10 false ∧
  EntryWord .mprune 0x11 true ∧ EntryWord .mdecomp 0x12 true

/-- R286 to R288, R291 to R293: NCALL places each executing lane's row in a bin of the regroup unit, and its outputs and token are
pending; WPIN and WPREF start a fill where the table entry is valid, WUNPIN releases a pin, and WSTAT reads the state. Model's
choices: an entry with V = 0 names no set and the words on sets do nothing (log 143), WUNPIN's token is idle again at once (log 49),
and a set's lines are locked from a bin's first row on (log 115). -/
def Obligations.RegroupWordResults : Prop :=
  (∀ (w : WordN) (s : State) (v : View) (ex : Mask) (es : List (Nat × W64)) (d0 d : Device),
    Runs (.ncall w) s v ex →
    wEntries v none ((lanesOf v.width ex).map fun l => (l, (laneHandle v w l).toNat)) = .ok (es, d0) →
    (∀ e ∈ es, e.2.getLsbD 63 = true) →
    let rows := es.map fun e => rowIn d0 v.hall v.w.ctx (e.2.setWidth 48) (laneRow v w e.1)
    (∀ x ∈ rows, lockHit v.d v.hall (fun _ => false) 0 v.w.ctx x.span.1 x.span.2 false = none) →
    laterRows (hallOf v.d v.hall) v.core = false →
    withUnit d0 v.hall (placeRows rows) = some d →
    Goes (.ncall w) s v (v.put d fun x => tokStart w.tok (pushOp .ncall (windowOf (some w.hd.md))
      (rows.flatMap fun r => r.row.dst.map fun k => (k, 0)) (some w.tok.toNat) 0 [w.toBits 0x18] x))) ∧
  (∀ (w : WordE) (s : State) (v v1 : View) (ex : Mask) (e : W64), wEntry v ex w = .ok (e, v1) →
    let set : VA := e.setWidth 48
    let fill (d : Device) (pin counted : Bool) : Device :=
      v.put { d with nextId := d.nextId + 1 } fun x => (if w.te then tokStart w.tok else id)
        (pushOp .fill none [] (if w.te then some w.tok.toNat else none) 0 (fillArgs d.nextId pin counted set) x)
    (e.getLsbD 63 = false →
      (Runs (.wpin w) s v ex → Goes (.wpin w) s v v1.d) ∧ (Runs (.wpref w) s v ex → Goes (.wpref w) s v v1.d) ∧
      (Runs (.wunpin w) s v ex → Goes (.wunpin w) s v v1.d)) ∧
    (e.getLsbD 63 = true →
      (Runs (.wpin w) s v ex → match wFillHead v.hall v.w.ctx set v1.d with
        | .ok d => Goes (.wpin w) s v (fill (modHall d v.hall (wPin v.w.ctx set)) true true)
        | .error _ => Goes (.wpin w) s v (fill v1.d true false)) ∧
      (Runs (.wpref w) s v ex → Goes (.wpref w) s v (fill v1.d false false)) ∧
      (Runs (.wunpin w) s v ex → Goes (.wunpin w) s v
        (modHall v1.d v.hall (wUnpin v.w.ctx set (w.sub.getLsbD 0) (wLinesOf v1.d v.hall v.w.ctx set))))) ∧
    (Runs (.wstat w) s v ex → Goes (.wstat w) s v (v.put v1.d (pushOp .query (windowOf (some w.hd.md))
      [(.sreg (regNo w.y), wStatus v1.d v.hall v.w.ctx e)] none 0 [w.toBits 0x23])))) ∧
  ∀ (ctx : Nat) (set : VA) (lines : List Nat) (h : Hall),
    (wPinOf (wUnpin ctx set true lines h) ctx set).pins = 0 ∧
    ∀ l ∈ (wUnpin ctx set true lines h).wlines, l.ctx = ctx → l.line ∉ lines ∧ set ∉ l.sets

/-! ## Graphics -/

namespace Sys2Proof.Machine

/-- The die after lanes hand their rays to the ray unit: their records fly, and four registers a lane are pending with the
token (R317, R319). No lane, no effect. -/
def raysSent (v : View) (d : Device) (ls : List Nat) (base : Nat) (tok : BitVec 4) (rec : Nat → RayRec) : Device :=
  if ls = [] then d
  else v.put d fun x => tokStart tok (pushOp .ray none ((ls.flatMap (rayDst v base)).map fun k => (k, 0))
    (some tok.toNat) 0 [] (ls.foldl (fun x l =>
      rayPut l { rec l with flying := true, op := v.w.nextOp, dst := rayDst v base l } x) x))

end Sys2Proof.Machine

open Sys2Proof Sys2Proof.Machine

/-- R314, R319 to R321: RTRACE hands each executing lane's ray to the ray unit, RTGET reads a field of a lane's hit or candidate,
and RTACCEPT settles each lane's candidate and sends it on. -/
def Obligations.RayWordResults : Prop :=
  (∀ (w : WordE) (s : State) (v : View) (ex : Mask), Runs (.rtrace w) s v ex →
    (∀ l ∈ lanesOf v.width ex, (rayOf v.w l).flying = false) →
    Goes (.rtrace w) s v (raysSent v v.d (lanesOf v.width ex) (regNo w.z) w.tok fun l =>
      { blankRay with
        ray := if v.helpers.getLsbD l then [] else (List.range 8).map fun i => vget v.d v.core v.w l (regNo w.x + i)
        header := (src64 v w.y).setWidth 48, any := w.sub.getLsbD 0, cull := w.sub.getLsbD 1, opq := w.sub.getLsbD 2 })) ∧
  (∀ (w : WordA) (s : State) (v : View) (ex : Mask) (t : Device), Runs (.rtget w) s v ex →
    (∀ l ∈ lanesOf v.width ex, (rayOf v.w l).flying = false) →
    Lands v false ex w.d [] (fun l =>
      let h := if w.sub.getLsbD 5 then (rayOf v.w l).cand else (rayOf v.w l).hit
      (match w.sub.toNat % 32 with
        | 0 => h.status | 1 => h.t | 2 => h.u | 3 => h.v | 4 => h.prim | 5 => h.geom | n => h.verts.getD (n - 6) 0, 0)) t →
    Goes (.rtget w) s v t) ∧
  (∀ (w : WordA) (s : State) (v : View) (ex : Mask) (ents : List (List W32)), Runs (.rtaccept w) s v ex →
    popWalk v [w.a] [] = (ents, none) →
    let ls := (lanesOf v.width ex).filter fun l => decide ((rayOf v.w l).cand.status = 2)
    Goes (.rtaccept w) s v (raysSent v (popApply v v.d [w.a]) ls (regNo w.d) (w.sub.extractLsb' 0 4) fun l =>
      let r := { rayOf v.w l with cand := blankHit }
      if src v (ents.getD 0 []) w.a l ≠ 0 then commitHit (rayOf v.w l).cand r else r))

/-- R88, R322 to R324: TEX filters the taps that its coordinates and levels choose, TEXLD loads one texel as LDB does, and TEXQ
gives the record's extents and format; each leaves its destination pending. -/
def Obligations.TextureResults : Prop :=
  (∀ (w : WordB) (s : State) (v : View) (ex : Mask) (r0 : BufRec) (rs : List BufRec) (rps : List Piece) (xs : TapVals)
      (ports : List RemotePart) (d : Device),
    Runs (.tex w) s v ex → loadsOut v.w < 63 →
    unitReady v.d 2 v.hall v.w.ctx = true →
    let levels := w.sub.toNat / 4 + 1
    texRecords v ex levels w.rc.toNat = .ok (r0 :: rs, rps) →
    let regs := recordRegs r0 w.cm
    firstBad [groupCheck w.d regs 47, groupCheck w.a (r0.dims + 1) 39] = none →
    let ls := lanesOf v.width ex
    let taps := ls.flatMap fun l =>
      (texLevels levels (w.sub.getLsbD 1) (texLambda v w r0 l)).flatMap fun lv =>
        let r := (r0 :: rs).getD lv.1 r0
        (levelTaps (w.sub.getLsbD 0) w.am lv.1 r (texCoord v w r.dims l) lv.2).map fun t =>
          ({ lane := l, tap := t, rc := r, elem := elemAt r t.x t.y t.z } : TapAt)
    readLevels v w taps (List.range levels) v.d = .ok (xs, ports, d) →
    Goes (.tex w) s v (loadTouch v.core v.w.ctx 0 false rps (v.put d (pushOpTo ports .load (windowOf (some w.hd.md))
      (groupWrites v (regNo w.d) regs ls fun l => (List.range regs).map (sampleWord xs l)) none 0 v.place)))) ∧
  (∀ (w : WordB) (s : State) (v : View) (ex : Mask) (r : BufRec) (rps : List Piece) (ls : List (Nat × List Piece)),
    Runs (.texld w) s v ex →
    let once := w.tl.u || v.uni
    let es := (movers v once ex false).map fun l => (l, laneElem v w r l)
    let ins := es.filter fun e => e.2.inside
    readRecord v (w.rc.toNat + w.sub.toNat / 4) ex = .ok r rps → firstBad (recordChecks w r) = none →
    memHeld v w.tl true false = false →
    checkLanes v { rd := true, w := false, x := false } (recordReader r) (if once then some ex else none)
      (ins.map (fun e => (e.1, e.2.va, elemBytes r.fmt)) ++ scaleAccess r es) = .ok ls →
    let x := loadLanes v (recordReader r) w.tl.ch false ls (if acquires w.tl then l1Acquire v.d v.core else v.d)
    let words (l : Nat) : List W32 :=
      let k := if once then v.lane0 else l
      match (es.find? fun e => decide (e.1 = k)).map (·.2) with
      | none => []
      | some e => (enabled w.cm).flatMap fun j =>
          componentLoad r (elemRaw r e (tblGet [] (x.1.take ins.length) k)) j e.inside
            (tblGet [] (x.1.drop ins.length) k)
    Goes (.texld w) s v (loadTouch v.core v.w.ctx 0 false rps
      (v.put x.2 (pushOpTo (lanesPorts v.d ls) .load (windowOf (some w.hd.md))
        (groupWrites v (regNo w.d) (recordRegs r w.cm) (lanesOf v.width (if once then v.active else ex)) words)
        none 0 v.place)))) ∧
  (∀ (w : WordB) (s : State) (v : View) (ex : Mask) (r : BufRec) (rps : List Piece),
    Runs (.texq w) s v ex → loadsOut v.w < 63 →
    readRecord v (w.rc.toNat + w.sub.toNat / 4) ex = .ok r rps →
    let dim (j : Nat) : W32 := BitVec.ofNat 32 (match j with
      | 0 => r.ext0 | 1 => r.ext1 + 1 | 2 => r.ext2 + 1 | _ => r.fmt + 256 * r.enc)
    Goes (.texq w) s v (loadTouch v.core v.w.ctx 0 false rps (v.put v.d (pushOp .load (windowOf (some w.hd.md))
      (groupWrites v (regNo w.d) (enabled w.cm).length (lanesOf v.width (if w.tl.u || v.uni then v.active else ex))
        fun _ => (enabled w.cm).map dim) none 0 v.place))))

/-- R325 to R330: interpolation from scratchpad attributes, differences within a quad, exports to the back end in
order, depth, discard, and the vertices and triangles of geometry waves. -/
def Obligations.ShaderWordResults : Prop :=
  (∀ (w : WordA) (s : State) (v : View) (ex : Mask) (ents : List (List W32)) (t : Device), Runs (.interp w) s v ex →
    popWalk v [w.a, w.b, w.c] [] = (ents, none) →
    let flat := w.sub.getLsbD 4
    let place (k l : Nat) : Nat :=
      (src v (ents.getD 0 []) w.a l).toNat + 64 * k + 4 * (w.sub.toNat % 16)
    let ks := if flat then [0] else [0, 1, 2]
    let as (k : Nat) : List (Nat × Nat × Nat × Nat) := (lanesOf v.width ex).map fun l => (l, v.core, place k l, 4)
    checkSpad v false false true none (ks.flatMap as) = none →
    let n := (ks.map fun k => passes 4 false true ((as k).map fun a => (a.1, a.2.2.1))).sum
    let attr (k l : Nat) : W32 := BitVec.ofNat 32 (leNat (spadRead v.d v.core (place k l) 4))
    Lands v false ex w.d [w.a, w.b, w.c] (fun l => if flat then (attr 0 l, 0) else interpLane v w ents l) t →
    Goes (.interp w) s v (v.put t (addPasses n))) ∧
  (∀ (w : WordA) (s : State) (v : View) (ex : Mask) (ents : List (List W32)) (t : Device),
    popWalk v [w.a] [] = (ents, none) →
    let x (l : Nat) : FVal := fsrc v.w.fmode (w.neg.getLsbD 2) (w.abs.getLsbD 2) (srcFp v (ents.getD 0 []) w.a l)
    let less (hi lo : Nat) : W32 × Flags :=
      fres v.w.fmode (addF fp32 (rmOf v.w.fmode (w.hd.md.toNat % 8)) (x hi) (negVal (x lo)))
    let row (l : Nat) : Nat := if w.sub.getLsbD 4 then 0 else l % 4 / 2
    let col (l : Nat) : Nat := if w.sub.getLsbD 4 then 0 else l % 2
    (Runs (.ddx w) s v ex →
      Lands v false ex w.d [w.a] (fun l => less (l / 4 * 4 + 2 * row l + 1) (l / 4 * 4 + 2 * row l)) t →
      Goes (.ddx w) s v t) ∧
    (Runs (.ddy w) s v ex →
      Lands v false ex w.d [w.a] (fun l => less (l / 4 * 4 + 2 + col l) (l / 4 * 4 + col l)) t →
      Goes (.ddy w) s v t)) ∧
  (∀ (w : WordA) (s : State) (v : View) (ex : Mask) (p : PixWave), Runs (.expc w) s v ex → storesOut v.w < 63 →
    v.w.gfx.pix = some p →
    let ls := (lanesOf v.width ex).filter fun l => !v.helpers.getLsbD l
    let d := (ls.filterMap (exportOf v p (regNo w.a) w.sub.toNat)).foldl deliver v.d
    Goes (.expc w) s v (v.put (v.put d (modPix (countExports ls))) (pushOp .store none [] none 0 []))) ∧
  (∀ (w : WordA) (s : State) (v : View) (ex : Mask) (p : PixWave) (ents : List (List W32)), Runs (.expz w) s v ex →
    storesOut v.w < 63 → v.w.gfx.pix = some p → popWalk v [w.a] [] = (ents, none) →
    let xs := ((lanesOf v.width ex).filter fun l => !v.helpers.getLsbD l).map fun l =>
      (l, aluVal v (ents.headD []) (w.a, true) l l)
    Goes (.expz w) s v (v.put (v.put (popApply v v.d [w.a]) (modPix (recordDepths xs))) (pushOp .store none [] none 0 []))) ∧
  (∀ (w : WordA) (s : State) (v : View) (ex : Mask), Runs (.discard w) s v ex →
    Goes (.discard w) s v (v.put v.d fun x => { x with gfx := { x.gfx with helper := x.gfx.helper ||| ex } })) ∧
  (∀ (w : WordA) (s : State) (v : View) (ex : Mask) (t : Device), Runs (.emitv w) s v ex →
    let ls := lanesOf v.width ex
    Lands v false ex w.d [] (fun l =>
      (BitVec.ofNat 32 (v.w.gfx.verts.length + (ls.filter fun i => decide (i < l)).length), 0)) t →
    Goes (.emitv w) s v (v.put t fun x => { x with gfx := { x.gfx with verts := x.gfx.verts ++ ls.map (vertexOf v w) } })) ∧
  (∀ (w : WordA) (s : State) (v : View) (ex : Mask) (ents : List (List W32)), Runs (.emitp w) s v ex →
    popWalk v [w.a, w.b, w.c] [] = (ents, none) → v.w.gfx.dsb ≠ 0 → v.w.gfx.dsb.toNat % 128 = 0 →
    let ix (k l : Nat) : Nat := (src v (ents.getD k []) ([w.a, w.b, w.c].getD k (.pos 0)) l).toNat
    (∀ l ∈ lanesOf v.width ex, ∀ k < 3, ix k l < v.w.gfx.verts.length) →
    let d := modDraw (popApply v v.d [w.a, w.b, w.c]) (drawGrid v) fun x =>
      { x with tris := x.tris ++ (lanesOf v.width ex).map (triangleOf v w ix) }
    Goes (.emitp w) s v (v.put d fun x => { x with gfx := { x.gfx with triangles := x.gfx.triangles + 1 } }))

/-! ## Control transfer, traps, privileged words, clause headers -/

namespace Sys2Proof.Machine

/-- A word that places its wave itself: the die is left as `t`, the clause ends, and, where `choose` says so, the running
path is chosen again (R44). -/
def Places (i : Instr) (s : State) (v : View) (t : Device) (choose : Bool) : Prop :=
  exec i s = .next (Issued s v t (.placed choose))

/-- The running path divided by lanes: lanes with one target form one path there, at a depth; the other active lanes go to
the fall-through address, and lanes that a spill or fill handler leaves inactive stay with the first path (R43, R61, R203).
Which paths are yielded where a yield is due is the model's choice (log 110). -/
def divided (v : View) (ex : Mask) (gs : List (VA × Mask)) (depth : BitVec 16) (fresh : Bool) (w : Wave) : Wave :=
  let new := (gs.map (fun (g : VA × Mask) => ({ pc := g.1, depth := depth, mask := g.2, yielded := false, fresh := fresh } : Path)) ++
    [({ pc := v.fall, depth := v.p.depth, mask := v.active &&& ~~~ex, yielded := false, fresh := false } : Path)]).filter
      fun (p : Path) => decide (p.mask ≠ 0)
  let idle := v.p.mask &&& ~~~v.active
  let all : List Path := match new with
    | [] => [{ pc := v.fall, depth := v.p.depth, mask := idle, yielded := false, fresh := false }]
    | p :: t => { p with mask := p.mask ||| idle } :: t
  replaceRun (all.map fun p => { p with yielded := v.w.pos.yieldDue && decide (v.w.trap.trlvl = 0) }) w

/-- The address that a K-format word names for a lane: s A plus, where B is used, v B of the lane, plus OFF (R202). -/
def kTarget (v : View) (w : WordK) (perLane : Bool) (l : Nat) : VA :=
  BitVec.setWidth 48 (src64 v w.a) + (if perLane then BitVec.setWidth 48 (src v [] w.b l) else 0) +
    BitVec.signExtend 48 w.off

/-- The lanes of `ex` by target. -/
def byTarget (v : View) (ex : Mask) (target : Nat → VA) : List (VA × Mask) :=
  groupLanes ((lanesOf v.width ex).map fun l => (l, target l))

/-- A call's lanes may enter: the depth is not at its limit (R388), and no lane's window overruns its stack (R58). -/
def MayEnter (v : View) (gs : List (VA × Mask)) (f : Nat) : Prop :=
  v.p.depth ≠ 0xFFFF#16 ∧
    ∀ g ∈ gs, ∀ l ∈ lanesOf v.width g.2, wbOf v.w l + f + 120 ≤ v.w.nstk + oldOf v.w l

/-- The die after lanes enter a call of frame `f`: each lane's link and window (R58). -/
def entered (v : View) (gs : List (VA × Mask)) (f : Nat) : Device :=
  gs.foldl (fun d g => (lanesOf v.width g.2).foldl (enterLane v f) d) v.d

/-- The die after a word that leaves its handler level or clause: a HALT due there takes effect (R210). -/
def haltIfDue (v : View) (d : Device) : Device :=
  if v.w.pos.haltDue.getLsbD v.w.trap.trlvl.toNat then emit d v.src .halted else d

/-- The die after a handler's return from a device: the word is counted, its header's YIELD lowers its wave's rank, and the wave
stands as `f` says (R144, R149, R210, R381); at a clause boundary outside any handler the running path is chosen (R44), but for
an indirect call that still has targets to enter (R389, log 35). -/
def ereturnDev (v : View) (d : Device) (f : Wave → Wave) : Device :=
  haltIfDue v (v.put (hallWord d v.core) fun w =>
    let w1 := countWord v.w.nextOp w
    let w2 := haltNow v.w.trap.trlvl.toNat (f { w1 with pos := { w1.pos with yrank := w1.pos.yrank || v.hdr.getLsbD 30 } })
    if w2.trap.trlvl = 0 ∧ w2.pos.clpos = 0 ∧ callBegun w2 = false then rechoose v.p.mask w2 else w2)

/-- The link slots of lanes, the two below a window base, are not still to be written by a load (R131). -/
def LinksRead (v : View) (ex : Mask) (top : Nat → Nat) : Prop :=
  ∀ l ∈ lanesOf v.width ex, ∀ k ∈ [1, 2], (pendingLocs v.w).contains (.rf (stackWord v.w l (top l - k))) = false

/-- The lanes of groups. -/
def groupsMask (gs : List (VA × Mask)) : Mask := gs.foldl (fun m g => m ||| g.2) 0

end Sys2Proof.Machine

open Sys2Proof Sys2Proof.Machine

/-- R202, R203: BRA and JMP move the whole path; BRV and JMPI divide it by target. -/
def Obligations.BranchResults : Prop :=
  (∀ (w : WordK) (s : State) (v : View) (ex : Mask), Runs (.bra w) s v ex →
    Places (.bra w) s v (v.put v.d fun x => setPc (v.fall + BitVec.signExtend 48 w.off) (unfresh x)) true) ∧
  (∀ (w : WordK) (s : State) (v : View) (ex : Mask), Runs (.jmp w) s v ex →
    Places (.jmp w) s v (v.put v.d fun x => setPc (kTarget v w false 0) (unfresh x)) true) ∧
  (∀ (w : WordK) (s : State) (v : View) (ex : Mask), Runs (.brv w) s v ex →
    Places (.brv w) s v (v.put v.d (divided v ex (byTarget v ex fun _ => v.fall + BitVec.signExtend 48 w.off) v.p.depth false))
      true) ∧
  (∀ (w : WordK) (s : State) (v : View) (ex : Mask), Runs (.jmpi w) s v ex →
    Places (.jmpi w) s v (v.put v.d (divided v ex (byTarget v ex (kTarget v w true)) v.p.depth false)) true)

/-- R44, R58 to R60, R204, R205, R418: CALL and CALLI enter their targets one depth deeper, each lane's window moved past the
frame with its link in the frame's last two slots; after CALLI the fresh entry with the lowest lane runs next, unless a yield
is due (log 110). RET takes
each lane's window back by the frame of its link, and divides the path by the links' addresses, one depth higher; at depth
0 it traps with 0x51. -/
def Obligations.CallAndReturnResults : Prop :=
  (∀ (w : WordK) (s : State) (v : View) (ex : Mask), Runs (.call w) s v ex → ncallOut v.w = false →
    LinksRead v ex (fun l => wbOf v.w l + 8 * w.hd.md.toNat) →
    let gs := byTarget v ex fun _ => v.fall + BitVec.signExtend 48 w.off
    MayEnter v gs (8 * w.hd.md.toNat) →
    Places (.call w) s v
      (v.put (entered v gs (8 * w.hd.md.toNat)) (divided v (groupsMask gs) gs (v.p.depth + 1) false)) true) ∧
  (∀ (w : WordK) (s : State) (v : View) (ex : Mask), Runs (.calli w) s v ex → ncallOut v.w = false →
    LinksRead v ex (fun l => wbOf v.w l + 8 * w.hd.md.toNat) →
    let gs := byTarget v ex (kTarget v w true)
    MayEnter v gs (8 * w.hd.md.toNat) →
    let d := v.put (entered v gs (8 * w.hd.md.toNat)) (divided v (groupsMask gs) gs (v.p.depth + 1) true)
    if v.w.pos.yieldDue ∧ v.w.trap.trlvl = 0 then Places (.calli w) s v d true
    else Places (.calli w) s v (v.put d (chooseFresh v.p.mask (v.p.depth + 1))) false) ∧
  (∀ (v : View) (f : Nat) (d : Device) (l : Nat) (x : Wave), waveOf d v.core v.slot = some x → wbOf v.w l + f < 2 ^ 32 →
    f < 128 →
    let top := wbOf v.w l + f
    let d' := enterLane v f d l
    stackWord v.w l (top - 2) ≠ stackWord v.w l (top - 1) →
    rfGet d' v.core (stackWord v.w l (top - 2)) = BitVec.setWidth 32 v.fall ∧
    rfGet d' v.core (stackWord v.w l (top - 1)) = BitVec.ofNat 32 (f / 8 * 65536 + v.fall.toNat / 2 ^ 32) ∧
    ∃ y, waveOf d' v.core v.slot = some y ∧ wbOf y l = top ∧ ∀ k, k ≠ l → wbOf y k = wbOf x k) ∧
  (∀ (w : WordK) (s : State) (v : View) (ex : Mask), Runs (.ret w) s v ex → ncallOut v.w = false → v.p.depth ≠ 0 →
    LinksRead v ex (wbOf v.w) →
    (∀ l ∈ lanesOf v.width ex, oldOf v.w l + 2 ≤ wbOf v.w l ∧ 1 ≤ linkFrame v l ∧ linkFrame v l ≤ 112 ∧
      oldOf v.w l + linkFrame v l ≤ wbOf v.w l) →
    Places (.ret w) s v (v.put v.d fun x =>
      let wb := (lanesOf v.width ex).foldl (fun t l => tblSet t l (BitVec.ofNat 32 (wbOf v.w l - linkFrame v l))) x.wb
      divided v ex (byTarget v ex (linkTarget v)) (v.p.depth - 1) false { x with wb := wb }) true) ∧
  (∀ (w : WordK) (s : State) (v : View) (ex : Mask), Runs (.ret w) s v ex → ncallOut v.w = false → v.p.depth = 0 →
    LinksRead v ex (wbOf v.w) →
    exec (.ret w) s = .next { s with dev := trapHere v (w.toBits 0x07) { cause := 0x51, mask := ex, info := 1, addr := 0 } })

/-- R205, R206: EXIT takes lanes out of the path table with their reservations, YIELD makes its path due to yield, NOP does
nothing, and WAITK issues once the tokens that it names are idle. -/
def Obligations.PathWordResults : Prop :=
  (∀ (w : WordK) (s : State) (v : View) (ex : Mask), Runs (.exit w) s v ex →
    Places (.exit w) s v (v.put v.d fun x => clearResv ex (replaceRun
      [{ pc := v.fall, depth := v.p.depth, mask := v.p.mask &&& ~~~ex, yielded := false, fresh := false }] x)) true) ∧
  (∀ (w : WordK) (s : State) (v : View) (ex : Mask), Runs (.yield w) s v ex →
    Goes (.yield w) s v (v.put v.d fun x => { dueYield x with pos := { (dueYield x).pos with yrank := true } })) ∧
  (∀ (w : WordK) (s : State) (v : View) (ex : Mask), Runs (.nop w) s v ex → Goes (.nop w) s v v.d) ∧
  (∀ (w : WordK) (s : State) (v : View) (ex : Mask), Runs (.waitk w) s v ex →
    (v.w.tokPend &&& BitVec.setWidth 16 w.off = 0 → Goes (.waitk w) s v v.d) ∧
    (v.w.tokPend &&& BitVec.setWidth 16 w.off ≠ 0 → exec (.waitk w) s = .next s))

/-- R144, R149, R207, R376, R379 to R383: TRAP n is counted and enters the handler for cause 128 + n, its frame written at
sr.trfbase and its position the fall-through address; ERET goes back to the position that the frame names; BKPT halts only where
DBG says so; HALT stops the wave after its clause. That a spill or fill handler whose lanes have divided ends with the path that
comes to ERET is the model's choice (log 136), and so is that an indirect call half entered is taken up before a choice (log 35). -/
def Obligations.TrapWordResults : Prop :=
  (∀ (w : WordK) (s : State) (v : View) (ex : Mask) (lvl : BitVec 2) (d1 : Device), Runs (.trap w) s v ex →
    let t : Trap := { cause := BitVec.ofNat 8 (128 + w.off.toNat % 128), mask := guardMask v.w w.hd.g v.active,
                      info := BitVec.ofNat 64 (w.off.toNat % 128), addr := 0 }
    (v.w.trap.trlvl = 0 ∧ v.w.trap.trvec ≠ 0 ∧ lvl = 1) ∨
      (v.w.trap.trlvl = 0 ∧ v.w.trap.trvec = 0 ∧ v.w.trap.strvec ≠ 0 ∧ lvl = 2) ∨
      (v.w.trap.trlvl = 1 ∧ v.w.trap.strvec ≠ 0 ∧ lvl = 2) →
    let last (x : Wave) : Wave :=
      let y := countWord v.w.nextOp x
      { y with pos := { y.pos with yrank := y.pos.yrank || v.hdr.getLsbD 30 } }
    frameWrite { v with d := v.put (hallWord v.d v.core) last, w := last v.w } (decide (lvl = 2) || v.priv) 0
      (frameBytes t 0 v.fall (w.toBits 0x0C) v.p.depth) = some d1 →
    exec (.trap w) s = .next { s with
      dev := haltIfDue v (v.put (emit (v.put d1 (enterHandler t lvl v.p.mask v.p.depth)) v.src (.trap t.cause))
        (haltNow v.w.trap.trlvl.toNat)) }) ∧
  (∀ (w : WordK) (s : State) (v : View) (ex : Mask) (x : W64) (d : Device), Runs (.eret w) s v ex →
    (∀ sf, v.w.trap.sf = some sf → frameRead v 0x30 = .ok (x, d) →
      exec (.eret w) s = .next { s with dev := ereturnDev v d (eretSpill { sf with lanes := v.active } x) }) ∧
    (v.w.trap.sf = none → v.w.trap.trlvl ≠ 0 → v.p.depth = v.w.trap.trdepth → frameRead v 0 = .ok (x, d) →
      exec (.eret w) s = .next { s with dev := ereturnDev v d (eretFrame x) })) ∧
  (∀ (w : WordK) (s : State) (v : View) (ex : Mask), Runs (.bkpt w) s v ex →
    ((coreOf v.d v.core).dbg.getLsbD v.slot = false → Goes (.bkpt w) s v v.d) ∧
    ((coreOf v.d v.core).dbg.getLsbD v.slot = true → Goes (.bkpt w) s v
      (emit (v.put v.d dueHalt) v.src (.breakpoint (w.off.toNat % 256))))) ∧
  (∀ (w : WordK) (s : State) (v : View) (ex : Mask), Runs (.halt w) s v ex →
    Goes (.halt w) s v (v.put v.d dueHalt))

/-- R208 to R213, R310, R336: the privileged words that complete, and PERFC. CSLOAD reads and checks its image when the word issues
(DESIGN CHOICE, log 19). CTXSAVE leaves its operation and token pending; the record is written when the operation ends, which
`CompletionSteps` states. -/
def Obligations.SystemWordResults : Prop :=
  (∀ (w : WordA) (s : State) (v : View) (ex : Mask), Runs (.perfc w) s v ex →
    let c := recordClass v.d v.hall ((src64 v w.a).toNat % 8)
    let d := modCk (modBlock v.d v.w.block fun b => { b with preq := c }) v.hall fun k => { k with due := true }
    Goes (.perfc w) s v (v.put d (pushOp .perfc (windowOf (some w.hd.md)) [(.sreg (regNo w.d), 0)] none 0 []))) ∧
  (∀ (w : WordE) (s : State) (v : View) (ex : Mask) (r : ImageRead), Runs (.csload w) s v ex →
    readImage v.d v.w.ctx (vaNat (src64 v w.x).toNat) (field (src64 v w.y) 0 3) = .ok r →
    let d := if r.reason = 0 then v.d else refuseImage v (field (src64 v w.y) 0 3) r.reason
    Goes (.csload w) s v (v.put d fun x => tokStart w.tok (pushOp .csload none [] (some w.tok.toNat) 0
      (src64 v w.y :: BitVec.ofNat 64 r.reason :: r.bytes.map fun b => BitVec.setWidth 64 b) x))) ∧
  (∀ (w : WordE) (s : State) (v : View) (ex : Mask), Runs (.tlbinv w) s v ex → storesFor false v.w = 0 →
    Goes (.tlbinv w) s v (v.put
      (invalidate (l1Acquire v.d v.core) w.sub.toNat (field (src64 v w.y) 0 6) (field (src64 v w.x) 0 48))
      fun x => tokStart w.tok (pushOp .tlbinv none [] (some w.tok.toNat) 0 [] x))) ∧
  (∀ (w : WordE) (s : State) (v : View) (ex : Mask) (bid : Nat) (b : Block), Runs (.ctxsave w) s v ex →
    firstBlock v.d (field (src64 v w.y) 0 9) (field (src64 v w.y) 16 6) = some (bid, b) →
    Goes (.ctxsave w) s v (v.put v.d fun x => tokStart w.tok
      (pushOp .ctxSave none [] (some w.tok.toNat) 0 [src64 v w.x, BitVec.ofNat 64 bid] x))) ∧
  (∀ (w : WordE) (s : State) (v : View) (ex : Mask) (r : SavedBlock) (bid : Nat) (d0 d : Device),
    Runs (.ctxrest w) s v ex →
    fetchRecord v.d v.w.ctx (field (src64 v w.y) 0 9 / 4) (vaNat (src64 v w.x).toNat) = .ok (some r, d0) →
    restoreBlock d0 r false [] = .done d bid →
    Goes (.ctxrest w) s v (v.put (haltRestored d r.block.core bid) fun x =>
      tokStart w.tok (pushOp .ctxRest none [] (some w.tok.toNat) 0 [] x)))

/-- R141, R143, R385: a clause header that is legal, whose words can be fetched and whose waits are met is taken: its lines
are in the instruction cache, and it is in force for the clause's words. That every word of the clause is looked at with its header is
read from R145 and R397 (log 88), and that a wave that returns inside a clause asks for no waits again from R56 (log 48). -/
def Obligations.ClauseHeaderResults : Prop :=
  ∀ (h : Header) (s : State) (v : View) (d : Device), view s.dev = some v → v.w.arw = none → v.w.halted = false →
    (v.w.pos.yieldDue = true → v.w.trap.trlvl = 0 → v.w.pos.clpos ≠ 0) → headerBad h = false →
    scanWords v h ((List.range (h.count.toNat + 1)).drop v.w.pos.clpos.toNat) = .clear →
    (v.w.pos.clpos ≠ 0 ∧ d = v.d ∨
      v.w.pos.clpos = 0 ∧ v.w.tokPend &&& h.waitk = 0 ∧ v.w.tokOrph &&& h.waitk = 0 ∧
      (h.waitld = 15 ∨ loadsOut v.w ≤ h.waitld.toNat) ∧ (h.waitst = 15 ∨ storesOut v.w ≤ h.waitst.toNat) ∧
      (h.waitar = false ∧ d = v.d ∨ h.waitar = true ∧ isPending v.w (.s 63) = false ∧
        (sget v.w 63).extractLsb' 0 3 = 0 ∧ ∃ loc, arFind v v.active (sget v.w 63) true false = .at loc ∧
          (arGen v.d loc).extractLsb' 0 16 ≠ (sget v.w 63).extractLsb' 48 16 ∧ d = arSeen v.core loc v.d)) →
    exec (.clauseHeader h) s = .next { s with
      dev := v.put ((codeLines { v with d := d } h).foldl (icacheLine v.core v.w.ctx) d) fun x =>
        { x with pos := { x.pos with hdr := some h.toBits } } }

/-! ## The other agents' steps (R246 to R252, R266 to R268, R288 to R292, R317, and the rules beside each) -/

namespace Sys2Proof.Machine

/-- A step of another agent leaves the die as `t`, and nothing else changes. -/
def DieGoes (i : Instr) (s : State) (t : Device) : Prop := exec i s = .next { s with dev := t }

/-- The completion of an operation of a kind: its results stand in their registers, its flags are collected, its token is
idle and it is outstanding no more (R131, R149). -/
def CompletesOp (i : Nat → Nat → Nat → Instr) (kind : OpKind) : Prop :=
  ∀ (core slot op : Nat) (s : State) (w : Wave) (o : LongOp), engineRuns s.dev (hallOfCore core) = true →
    waveOf s.dev core slot = some w → findOp w kind op = some o →
    DieGoes (i core slot op) s (modWave (o.writes.foldl (locPut core slot w.block) s.dev) core slot fun x =>
      let y := { x with ops := x.ops.filter (fun p => decide (p.id ≠ o.id)), fflags := x.fflags ||| o.flags }
      match o.tok with | some k => tokIdle k y | none => y)

end Sys2Proof.Machine

open Sys2Proof Sys2Proof.Machine

/-- R18, R131, R143, R149, R209, R213, R256, R263, R310, R336: while its hall's clock runs, a long-latency operation completes, with
the results recorded for it. A store's or a write-back's acknowledgement comes by itself, a QFLUSH's token after the stores before it;
PERFC waits for its class; CTXSAVE writes its record; an image accepted is recorded, measured and its version noted. -/
def Obligations.CompletionSteps : Prop :=
  CompletesOp .longAluComplete .alu ∧ CompletesOp .loadComplete .load ∧ CompletesOp .queryComplete .query ∧
  (∀ (core slot op : Nat) (s : State) (w : Wave) (o : LongOp), engineRuns s.dev (hallOfCore core) = true →
    waveOf s.dev core slot = some w → findOp w .tlbinv op = some o →
    DieGoes (.tlbinvComplete core slot op) s (completeOp (forgetWalks s.dev) core slot w o)) ∧
  (∀ (core slot op : Nat) (s : State) (w : Wave) (o : LongOp), engineRuns s.dev (hallOfCore core) = true →
    waveOf s.dev core slot = some w →
    (findOp w .flush op = none → findOp w .cwb op = none → findOp w .store op = some o →
      DieGoes (.storeAck core slot op) s (completeOp s.dev core slot w o)) ∧
    (findOp w .flush op = none → findOp w .cwb op = some o →
      DieGoes (.storeAck core slot op) s (completeOp s.dev core slot w o)) ∧
    (findOp w .flush op = some o → (∀ e ∈ w.ops, e.kind = .store → op ≤ e.id) →
      DieGoes (.storeAck core slot op) s (completeOp s.dev core slot w o))) ∧
  (∀ (core slot op : Nat) (s : State) (w : Wave) (o : LongOp) (b : Block) (t : W64) (ts : List W64),
    engineRuns s.dev (hallOfCore core) = true →
    waveOf s.dev core slot = some w → findOp w .perfc op = some o → tblFind s.dev.blocks w.block = some b → o.args = t :: ts →
    let h := hallOf s.dev (hallOfCore core)
    (t.toNat = h.pw.cls.toNat ∨ h.pw.cls = h.ck.target) →
    DieGoes (.perfcComplete core slot op) s (completeOp s.dev core slot w
      { o with writes := o.writes.map fun x => (x.1, BitVec.ofNat 64
        ((flightAt s.dev (hallOfCore core)).vcls.toNat * 256 + h.pw.cls.toNat * 16 + b.preq.toNat)) })) ∧
  (∀ (core slot op : Nat) (s : State) (w : Wave) (o : LongOp), engineRuns s.dev (hallOfCore core) = true →
    waveOf s.dev core slot = some w → findOp w .ctxSave op = none → findOp w .ctxRest op = some o →
    DieGoes (.contextRecordDone core slot op) s (completeOp s.dev core slot w o)) ∧
  (∀ (core slot op bid : Nat) (s : State) (w : Wave) (o : LongOp) (b : Block) (g : Grid) (d2 : Device),
    engineRuns s.dev (hallOfCore core) = true → waveOf s.dev core slot = some w → findOp w .ctxSave op = some o →
    (o.args.getD 1 0).toNat = bid → tblFind s.dev.blocks bid = some b → blockHalted s.dev bid b = true →
    let mine (x : Nat) : Bool := decide (x = bid)
    let va := (o.args.headD 0).toNat % 2 ^ 48
    let d1 := settleOps s.dev mine
    saveBusy d1 mine = false → tblFind d1.grids b.grid = some g →
    engineWrite d1 w.ctx w.ctx true .plain va (blockRecord d1 mine bid b g) (copyAgent (hallOfCore b.core) true) = .ok d2 →
    DieGoes (.contextRecordDone core slot op) s (completeKind (l1Acquire (modCtx (withdraw d2 mine) w.ctx fun k =>
      { k with more := blockMore d1 mine va bid b :: k.more.filter fun m => decide (m.addr ≠ va) }) core) core slot .ctxSave op)) ∧
  (∀ (core slot op : Nat) (s : State) (w : Wave) (b : Block) (o : LongOp), engineRuns s.dev (hallOfCore core) = true →
    waveOf s.dev core slot = some w → findOp w .alcatt op = some o → tblFind s.dev.blocks w.block = some b →
    (o.args = [] → DieGoes (.alcattComplete core slot op) s (completeOp s.dev core slot w o)) ∧
    (∀ (name : W64) (rest : List W64) (d : Device) (x : W64), o.args = name :: rest → rest.length = 6 →
      (alcFind s.dev b.ctx name).isSome = true → madeOf s.dev b.ctx name = (rest.getD 5 0).toNat →
      attachTry s.dev w.block b name = .done d x →
      DieGoes (.alcattComplete core slot op) s
        (completeOp (l1Acquire d core) core slot w { o with writes := [(.sreg (rest.getD 4 0).toNat, x)] }))) ∧
  (∀ (core slot op : Nat) (s : State) (w : Wave) (o : LongOp), engineRuns s.dev (hallOfCore core) = true →
    waveOf s.dev core slot = some w → findOp w .csload op = some o → o.args.getD 1 0 ≠ 0 →
    DieGoes (.csloadComplete core slot op) s (completeOp s.dev core slot w o)) ∧
  (∀ (core slot op : Nat) (s : State) (w : Wave) (o : LongOp), engineRuns s.dev (hallOfCore core) = true →
    waveOf s.dev core slot = some w → findOp w .csload op = some o → o.args.getD 1 0 = 0 →
    let y := o.args.headD 0
    let bs : List Byte := (o.args.drop 2).map fun w => BitVec.setWidth 8 w
    exec (.csloadComplete core slot op) s = .next { s with
      dev := completeKind (recordImage s.dev (field y 16 6) (field y 0 3) bs) core slot .csload op
      plant := { s.plant with measure := extendM s.plant.measure bs, versions := s.plant.versions ++ [headVersion bs] } })

/-- R85, R86, R97, R239, R246, R247, R252, R402: the next entry of a gather stream; the ends of an alcove's eviction and refill, from
the unit that has not landed; the
head of a copy queue begins, lands its units one by one, and completes once the last has landed; a SIGNAL at the head
performs its write and its event. -/
def Obligations.QueueAlcoveAndCopySteps : Prop :=
  (∀ (core j slot : Nat) (s : State) (v : View) (ls : List (Nat × List Piece)),
    let q := apqOf s.dev core j
    engineRuns s.dev (hallOfCore core) = true → q.slot = some slot → q.gbnd = true → q.gsp = false →
    (∀ e, q.entries.getLast? = some e → ∃ k, e = .data k) → q.gnext < q.gcount → q.entries.length < queueCap v.width →
    viewAt (modApq s.dev core j dropBad) core slot = some v →
    checkLanes v { rd := true, w := false, x := false } .plain none
      ((streamAddrs q.gbase q.gstride q.goffs q.gmask v.width q.gnext).map fun a => (a.1, a.2, 4)) = .ok ls →
    let d := modApq s.dev core j dropBad
    DieGoes (.queueGatherFetch core j) s
      (entryPut (loadLanes v .plain 0 false ls d).2 core j (entryOf v (loadLanes v .plain 0 false ls d).1))) ∧
  (∀ (i k : Nat) (s : State) (d : Device),
    let a := alcOf s.dev i
    a.state = 1 → a.busy = true → a.parked = none → engineRuns s.dev a.hall.toNat = true →
    moveUnits a.owner.toNat (copyAgent a.hall.toNat true) (.spad (alcCore a) (4096 * a.offset.toNat + 128 * a.unit))
      (.virt (a.backing.toNat + 128 * a.unit)) (32 * alcSize a - a.unit) a.unit s.dev = (d, k, none) →
    DieGoes (.alcoveEvictDone i) s
      (evictDone a.owner.toNat a.name (modAlc d i fun a => { a with state := 2, busy := false, unit := 0 }))) ∧
  (∀ (i c g k : Nat) (s : State) (d : Device),
    let a := alcOf s.dev i
    a.state = 2 → a.target = some (c, g) → a.parked = none → engineRuns s.dev (hallOfCore c) = true →
    moveUnits a.owner.toNat (copyAgent (hallOfCore c) true) (.virt (a.backing.toNat + 128 * a.unit))
      (.spad c (4096 * g + 128 * a.unit)) (32 * alcSize a - a.unit) a.unit s.dev = (d, k, none) →
    DieGoes (.alcoveRefillDone i) s (modAlc d i fun a =>
      { a with state := 1, busy := false, target := none, unit := 0, hall := BitVec.ofNat 7 (c / 4), core := BitVec.ofNat 2 (c % 4)
               offset := BitVec.ofNat 6 g })) ∧
  (∀ (h q : Nat) (s : State) (o : CopyOp) (t : List CopyOp), cqOf (hallOf s.dev h) q = o :: t → o.begun = false →
    engineRuns s.dev h = true → copyHeld s.dev o = false → awaitsRecords s.dev o.core o.ctx = false →
    DieGoes (.copyOpStart h q) s (modHead s.dev h q fun o => { o with begun := true, moved := s.dev.fcycle })) ∧
  (∀ (h q : Nat) (s : State) (o o1 : CopyOp) (t t1 : List CopyOp) (off : Nat), cqOf (hallOf s.dev h) q = o :: t →
    o.begun = true → o.finished = false → o.parked = none → o.opc ≠ 0x34 → engineRuns s.dev h = true →
    copyHeld s.dev o = false →
    cqOf (hallOf (raiseOwed s.dev h q o) h) q = o1 :: t1 → o1.parked = none → opNext o1 = some off →
    DieGoes (.copyUnitLand h q) s (unitLand (raiseOwed s.dev h q o) h q o1 off)) ∧
  (∀ (h q : Nat) (s : State) (o : CopyOp) (t : List CopyOp), cqOf (hallOf s.dev h) q = o :: t → o.finished = true →
    o.parked = none → o.arv = none → engineRuns s.dev h = true →
    DieGoes (.copyOpComplete h q) s (idleOf (dropHead s.dev h q) o.core o.slot o.block (eTok o.word) o.flags)) ∧
  (∀ (h q : Nat) (s : State) (o : CopyOp) (t : List CopyOp) (d : Device), cqOf (hallOf s.dev h) q = o :: t →
    o.opc = 0x34 → o.begun = true → o.finished = false → o.parked = none → cpVar o.word ≠ 1 →
    engineRuns s.dev h = true → copyHeld s.dev o = false →
    engPut s.dev o.ctx o.ctx (opAgent o) (opDst o) (leBytes 8 o.y.toNat) = .ok d →
    DieGoes (.signalPerform h q) s (emit (modHall (modHead d h q fun o => { o with finished := true, unit := 8 }) h
      (unlockOp o.id)) (.copyQueue h q) (.completion o.y)))

/-- R266 to R268, R288 to R292: the matrix engine, free, grants the next entry; that the entry then has its whole effect at once is the
model's reading of R266 to R268 (DEDUCED, log 64), as is what a fetch from another module keeps waiting (log 128). An entry
without an arrival word whose occupancy is over completes in grant order. A bin whose oldest row is 1,024 cycles old is
flushed, and every open bin once the hall's callers are held by the hall alone; staged rows post; a pass completes row by
row; a weight set that is read fills its token's wait. -/
def Obligations.MatrixAndRegroupSteps : Prop :=
  (∀ (hall : Nat) (s : State) (e : MatEntry) (b : Block) (m : MatDone), engineRuns s.dev hall = true →
    matFree (hallOf s.dev hall) = true → matNext s.dev (hallOf s.dev hall) = some e → stagingOf (hallOf s.dev hall) e = none →
    tblFind s.dev.blocks e.block = some b → matRun s.dev e b = .ok m →
    let d := modHall { m.d with nextId := m.d.nextId + 1 } hall fun h => { h with matIdle := 0 }
    DieGoes (.matrixGrant hall) s (modEntry d hall e.id fun x =>
      { x with granted := true, order := m.d.nextId, done := true, flags := m.flags, estat := m.estat, status := m.status
               fetching := (entrySpans e b.acct).any fun x => !x.dest && engRemote s.dev e.ctx x.at' x.last
               occEnd := (hallOf s.dev hall).cycle + occupancy e b.acct m.status })) ∧
  (∀ (hall op : Nat) (s : State) (e : MatEntry),
    let h := hallOf s.dev hall
    (h.mat.find? fun e => decide (e.id = op) && e.staging.isNone) = some e → e.granted = true → e.fetching = false → e.occEnd ≤ h.cycle →
    e.parked = none → h.matHung = false → e.failed = false → xArv e.word = false → engineRuns s.dev hall = true →
    (∀ x ∈ h.mat, x.staging = none → x.granted = true → e.order ≤ x.order) →
    let d := settleDecomp (modHall s.dev hall (unlockOp e.id)) e (some e.status)
    DieGoes (.matrixEntryComplete hall op) s
      (dropEntry (idleOf d e.core e.slot e.block (xTok e.word) e.flags) hall e.id)) ∧
  (∀ (hall bin : Nat) (s : State) (b : Bin) (t : List (Nat × Bin)) (d : Device), freeBins s.dev hall = (bin, b) :: t →
    engineRuns s.dev hall = true → binAge b + 1024 ≤ (hallOf s.dev hall).cycle → withUnit s.dev hall (flushBin bin) = some d →
    DieGoes (.binFlushAge hall bin) s d) ∧
  (∀ (hall : Nat) (s : State), callers s.dev hall ≠ [] → (∀ c ∈ callers s.dev hall, heldByHall s c.1 c.2 = true) →
    DieGoes (.binFlushStall hall) s (flushAll s.dev hall)) ∧
  (∀ (hall : Nat) (s : State), engineRuns s.dev hall = true →
    let p := postStaged (stagedOrder (hallOf s.dev hall)) (hallOf s.dev hall, s.dev.nextId)
    DieGoes (.regroupEntryPost hall) s (modHall { s.dev with nextId := p.2 } hall fun _ => p.1)) ∧
  (∀ (hall op : Nat) (s : State) (e : MatEntry) (g : Staging) (d : Device),
    let h := hallOf s.dev hall
    (h.mat.find? fun e => decide (e.id = op) && e.staging.isSome) = some e → e.granted = true → e.fetching = false → e.occEnd ≤ h.cycle →
    h.matHung = false → engineRuns s.dev hall = true →
    (∀ x ∈ h.mat, x.staging.isSome = true → x.granted = true → e.order ≤ x.order) → stagingOf h e = some g →
    withUnit (unitStepped 4 hall (modHall (g.rows.foldl rowDone (modHall s.dev hall (unlockOp g.lock))) hall (dropRegroup e g)))
      hall some = some d →
    DieGoes (.regroupPassComplete hall op) s d) ∧
  (∀ (hall op c slot : Nat) (s : State) (o : LongOp) (w : Wave) (d1 d2 : Device),
    findFill s.dev hall op = some (c, slot, o) → waveOf s.dev c slot = some w →
    engineRuns s.dev hall = true →
    let set : VA := BitVec.setWidth 48 (o.args.getD 3 0)
    wFillHead hall w.ctx set s.dev = .ok d1 →
    (o.args.getD 1 0 = 1 → o.args.getD 2 0 = 1 ∧ (wPinOf (hallOf d1 hall) w.ctx set).pfail = false) → wFillSet hall w.ctx set d1 = .ok d2 →
    DieGoes (.weightFillComplete hall op) s (completeKind d2 c slot .fill o.id))

/-- R303, R317, R319, R408, R411: a ray query that stops answers its lane; a triangle is rasterised once its draw state is
read; a fragment is tested and blended and leaves the draw; a settled draw flushes the blocks it changed; a unit takes the
image of the context it works for. -/
def Obligations.RayAndRasterSteps : Prop :=
  (∀ (core slot lane : Nat) (s : State) (w : Wave) (r : RayRec) (d : Device),
    engineRuns s.dev (hallOfCore core) = true → waveOf s.dev core slot = some w →
    (if (rayOf w lane).begun then unitStopped s.dev 0 (hallOfCore core) = false
      else unitReady s.dev 0 (hallOfCore core) w.ctx = true) →
    (rayOf w lane).flying = true → (rayOf w lane).parked = none →
    (rayGo s.dev w.ctx (hallOfCore core) (rayOf w lane) = .ended r d →
      DieGoes (.rayQueryStop core slot lane) s (unitStepped 0 (hallOfCore core)
        (rayAnswer d core slot lane { r with stack := [] } (hitVals r.hit r.hit.status)))) ∧
    (rayGo s.dev w.ctx (hallOfCore core) (rayOf w lane) = .candidate r d →
      DieGoes (.rayQueryStop core slot lane) s (unitStepped 0 (hallOfCore core)
        (rayAnswer d core slot lane r (hitVals r.cand 2))))) ∧
  (∀ (gallery geo : Nat) (s : State) (g : Grid) (t : Triangle) (bs : List Byte) (d : Device),
    nextTriangle s.dev gallery = some (geo, g, t) → unitReady s.dev 1 gallery g.ctx = true →
    dfeRead (modDraw s.dev geo fun x => { x with tris := x.tris.filter fun u => decide (u.order ≠ t.order) }) g.ctx
      t.dsb.toNat 128 = .ok (bs, d) →
    DieGoes (.rasterTriangle gallery) s
      (unitStepped 1 gallery (rasterise d geo g t ((List.range 16).map fun i => leW64 (bs.drop (8 * i)))))) ∧
  (∀ (grid index : Nat) (s : State) (g : Grid) (f : Fragment) (d : Device),
    tblFind s.dev.grids grid = some g → g.draw.frags[index]? = some f →
    unitReady s.dev 3 (fragmentUnit s.dev g f) g.ctx = true → drawSettled g = true → fragmentWaits g.draw.frags f = false →
    fragmentStep s.dev grid g f = .ok d →
    DieGoes (.fragmentProcess grid index) s (unitStepped 3 (fragmentUnit s.dev g f)
      (modDraw d grid fun w => { w with frags := listDrop w.frags index }))) ∧
  (∀ (grid : Nat) (s : State) (g : Grid), tblFind s.dev.grids grid = some g → drawSettled g = true → g.draw.frags = [] →
    DieGoes (.drawFlush grid) s
      (modDraw (g.draw.changed.foldl (flushBlock g.ctx) s.dev) grid fun w => { w with changed := [] })) ∧
  (∀ (kind unit c : Nat) (s : State), unitWork s.dev kind unit = some c →
    unitBusy s.dev kind unit = false → unitStopped s.dev kind unit = false →
    DieGoes (.unitImageSwitch kind unit) s (modUnit s.dev kind unit fun u => { u with image := imageOf s.dev kind c, idle := 0 }))

/-- R18, R45, R93, R335, R394, R399: while their hall's clock runs, the fairness timer, the end of a deferral and the progress
watchdog; the end of a page walk, whose requesters all run, or all stand in a hop, for which the walk stays. -/
def Obligations.TimerAndWalkSteps : Prop :=
  (∀ (core slot : Nat) (s : State) (w : Wave), engineRuns s.dev (hallOfCore core) = true → waveOf s.dev core slot = some w → 4096 ≤ w.cnt.fair → w.trap.trlvl = 0 →
    w.cnt.deferred = none → w.pos.yieldDue = false →
    (∀ p, w.pos.paths[w.pos.run]? = some p → ∀ e ∈ w.resv, p.mask.getLsbD e.1 = false) →
    DieGoes (.fairnessTimer core slot) s
      (modWave s.dev core slot fun x => { x with pos := { x.pos with yieldDue := true } })) ∧
  (∀ (core slot t : Nat) (s : State) (w : Wave), engineRuns s.dev (hallOfCore core) = true → waveOf s.dev core slot = some w → w.cnt.deferred = some t →
    t + 256 ≤ w.cnt.fair →
    DieGoes (.reservationDeferExpire core slot) s (modWave s.dev core slot fun x =>
      { x with pos := { x.pos with yieldDue := true }, cnt := { x.cnt with deferred := none } })) ∧
  (∀ (core slot : Nat) (s : State) (v : View), engineRuns s.dev (hallOfCore core) = true → viewAt s.dev core slot = some v →
    v.w.trap.wdlim ≠ 0 → v.w.halted = false →
    (ctxOf s.dev v.w.ctx).halting = false → awaitsRecords s.dev core v.w.ctx = false → 2 ^ v.w.trap.wdlim.toNat ≤ v.w.cnt.wd →
    DieGoes (.progressWatchdog core slot) s (takeTrap { v with d := watchdogRecords v }
      { cause := 0x21, mask := v.active, info := BitVec.ofNat 64 v.w.cnt.wd, addr := 0 } (nextCode v) v.p.pc v.w.pos.clpos)) ∧
  (∀ (k : Nat) (s : State) (w : Walk), tblFind s.dev.walks k = some w → w.begun = true →
    let d := dropWalk s.dev k
    (w.discard = true → DieGoes (.pageWalkComplete k) s d) ∧
    ((∀ e ∈ w.waiters, clockRuns s.dev (hallOfCore e.1) = true) → w.waiters ≠ [] →
      (∀ (te : TlbEntry) (d1 : Device), w.discard = false →
        (∃ a b c, walkTables d w.ctx w.va.toNat = .ok a b c) → walkNow d w.ctx w.va.toNat w.write = .ok (te, d1) →
        DieGoes (.pageWalkComplete k) s ((w.waiters.map (·.1)).foldl (walkFill te) d1)) ∧
      (∀ info, w.discard = false → walkTables d w.ctx w.va.toNat = .absent info →
        DieGoes (.pageWalkComplete k) s (w.waiters.foldl (walkTell
          { page := BitVec.ofNat 48 (w.va.toNat / 65536), cause := 0x30, info := BitVec.ofNat 64 info })
          (tableReads d w.ctx w.va.toNat)))) ∧
    ((∀ e ∈ w.waiters, (hallOf s.dev (hallOfCore e.1)).ck.hop.isSome = true ∧ (hallOf s.dev (hallOfCore e.1)).ck.service = true ∧
        (hallOf s.dev (hallOfCore e.1)).ck.stopped = false) → w.waiters ≠ [] → w.discard = false →
      DieGoes (.pageWalkComplete k) s { s.dev with walks := tblSet s.dev.walks k w }))

/-- R35, R83, R347 to R349, R431 to R434: launch queues take, begin, wait for and discard their entries in order; a wait whose access
faults writes one record for each kind of fault. That LAUNCH_ENQUEUE is an append of application core 0, and so ranks as its
among the appends of one cycle, is the model's choice (DESIGN CHOICE, log 121). -/
def Obligations.LaunchQueueSteps : Prop :=
  (∀ (q : Nat) (word : W64) (s : State), let k := queueOf s.dev q
    let t := field word 60 4
    let va := field word 0 48
    let good := (t = 1 ∧ va % 256 = 0 ∨ t = 2 ∧ va % 32 = 0) ∧ field word 48 12 = 0
    (¬ good → DieGoes (.launchEnqueue q word) s (modQueue s.dev q fun k => { k with err := true })) ∧
    (good → 4096 ≤ k.entries.length → DieGoes (.launchEnqueue q word) s (modQueue s.dev q fun k => { k with ovf := true })) ∧
    (good → k.entries.length < 4096 → DieGoes (.launchEnqueue q word) s
      (appendEntry s.dev q { wait := decide (t = 2), va := BitVec.ofNat 48 va, ctx := k.ctx.toNat, cyc := 0, rank := Config.cores }))) ∧
  (∀ (q : Nat) (s : State) (e : QEntry) (t : List QEntry) (l : Lpb) (d : Device), let k := queueOf s.dev q
    k.head = none → k.entries = e :: t → k.en = true → e.wait = false →
    let d1 := modQueue s.dev q fun k => { k with entries := k.entries.drop 1, seq := k.seq + 1 }
    readLpb d1 e.ctx e.va.toNat = .ok (l, d) → refuseReason d e.ctx false l = none →
    DieGoes (.gridDispatchBegin q) s (modQueue
      { d with grids := tblSet d.grids d.nextId (newGrid q (queueOf d1 q) e l), nextId := d.nextId + 1 } q
      fun k => { k with head := some (.grid d.nextId) })) ∧
  (∀ (q : Nat) (s : State) (e : QEntry) (told : List Nat) (done : Bool) (d : Device),
    (queueOf s.dev q).head = some (.wait e false told) → waitRead s.dev e = .ok (done, d) →
    DieGoes (.streamWaitCheck q) s
      (modQueue d q fun k => { k with head := if done then none else some (.wait e false told) })) ∧
  (∀ (q : Nat) (s : State) (e : QEntry) (told : List Nat) (done : Bool) (d : Device),
    (queueOf s.dev q).head = some (.wait e true told) → waitRead s.dev e = .ok (done, d) →
    DieGoes (.dfeAccessRetry q) s
      (modQueue d q fun k => { k with head := if done then none else some (.wait e false told) })) ∧
  (∀ (q kind : Nat) (s : State) (e : QEntry) (told : List Nat) (f : MFault),
    (queueOf s.dev q).head = some (.wait e true told) → waitRead s.dev e = .error (kind, f) →
    (kind ∈ told → DieGoes (.dfeAccessRetry q) s (modQueue s.dev q fun k => { k with head := some (.wait e true told) })) ∧
    (kind ∉ told → DieGoes (.dfeAccessRetry q) s
      (modQueue (dfeFault s.dev q kind f) q fun k => { k with head := some (.wait e true (told ++ [kind])) }))) ∧
  (∀ (q : Nat) (s : State),
    let stream := s.dev.alcoves.filter fun e => decide (e.2.life = 1) && decide (e.2.queue.toNat = q) && decide (e.2.state ≠ 0)
    DieGoes (.queueReset q) s (stream.foldl (fun d e => alcEnd d e.1) (modQueue s.dev q fun k =>
      { k with entries := [], seq := 0, head := match k.head with | some (.wait _ true _) => none | h => h })))

/-- R36, R39, R40, R48, R49, R85, R296, R434: a queue's first placement goes to its core; a choice that finds no core is not made again
until a control interval begins or a block retires where it could go; a block whose waves and operations
are over retires; a grid whose blocks are over completes; a grid that has waited long is reported. -/
def Obligations.DispatchSteps : Prop :=
  (∀ (q core : Nat) (s : State) (p : Placee) (t : List Placee) (g : Grid), placees s.dev q = p :: t →
    placeTried s.dev p = false →
    tblFind s.dev.grids (placeGrid p) = some g → placeCore s.dev p g = some (core, true) → outranked s.dev q core = false →
    DieGoes (.blockPlace q) s (placeTry s.dev p g core)) ∧
  (∀ (q : Nat) (s : State) (p : Placee) (g : Grid), placees s.dev q = [p] → placeTried s.dev p = false →
    tblFind s.dev.grids (placeGrid p) = some g → placeCore s.dev p g = none →
    DieGoes (.blockPlace q) s (noteTried s.dev p)) ∧
  (∀ (q : Nat) (s : State), (∀ p ∈ placees s.dev q, placeTried s.dev p = true) → DieGoes (.blockPlace q) s s.dev) ∧
  (∀ (bid : Nat) (s : State) (b : Block), tblFind s.dev.blocks bid = some b → blockBusy s.dev bid b = false →
    wavesEnded s.dev bid b = true → 
    DieGoes (.blockRetire bid) s (retryCore b.core (countRetired (removeBlock s.dev bid b) b))) ∧
  (∀ (gid : Nat) (s : State) (g : Grid), tblFind s.dev.grids gid = some g → g.parent = none → gridOver g = true →
    (∀ e ∈ s.dev.alcoves, e.2.life ≠ 0) →
    let fam := gridFamily s.dev gid
    let d := writeSignal (flushCores s.dev fam) g.queue g.ctx g.lpb
      (if g.bad then g.seq ||| BitVec.ofNat 64 (2 ^ 63) else g.seq)
    let d1 := modQueue d g.queue fun k =>
      { k with lastCore := g.refCore, head := if k.head = some (.grid gid) then none else k.head }
    DieGoes (.gridComplete gid) s { d1 with grids := d1.grids.filter fun e => !fam.contains e.1 }) ∧
  (∀ (gid : Nat) (s : State) (g : Grid), tblFind s.dev.grids gid = some g → 65536 ≤ g.waited →
    DieGoes (.starvedGridReport gid) s
      (modGrid (telemetryPut s.dev (.launch g.queue) 8 (openTel 8 0) (768 + g.queue)
        (linearIndex g.lpb (blockIndex g.lpb (((g.undone.head?).map (·.1)).getD g.nextPos)))) gid
        fun x => { x with waited := x.waited - 65536 }))

/-- R50 to R53, R346, R438: pre-emption of a context by steps, and its return. Model's choices: what the spec's record leaves no place
for is kept beside it (DESIGN CHOICE, log 18), a save waits while an access to its area faults (log 92), its event stands on the
stream of the launch queue that EVQ names (log 93), and a debit returns to the interval that is running (log 116). -/
def Obligations.PreemptionSteps : Prop :=
  (∀ (ctx : Nat) (value : W64) (s : State), ctx < 64 → value.getLsbD 63 = true → value.getLsbD 62 = false →
    (ctxOf s.dev ctx).req = false → (ctxOf s.dev ctx).saved = false →
    let fresh := (ctxBlocks s.dev ctx).filter fun e => blockFresh s.dev e.1 e.2
    DieGoes (.preemptRequest ctx value) s (fresh.foldl undoBlock
      (modCtx (modCtx s.dev ctx fun k => { k with evq := BitVec.setWidth 8 value }) ctx fun k => { k with req := true }))) ∧
  (∀ (ctx : Nat) (s : State), (ctxOf s.dev ctx).req = true → (ctxOf s.dev ctx).halting = false →
    DieGoes (.preemptHalt ctx) s (mapWaves (modCtx s.dev ctx fun k => { k with halting := true }) fun w =>
      if w.ctx = ctx then { w with resv := [] } else w)) ∧
  (∀ (ctx : Nat) (s : State) (d1 : Device),
    let bs := ctxBlocks s.dev ctx
    let mine (b : Nat) : Bool := bs.any fun e => decide (e.1 = b)
    let d := settleOps s.dev mine
    let base := (ctxOf s.dev ctx).csa.toNat
    let rs := areaRecords d mine 0x100 bs
    let head := wordBytes ([BitVec.ofNat 64 rs.1.length, BitVec.ofNat 64 rs.2, BitVec.ofNat 64 ctx] ++ List.replicate 5 0)
    (ctxOf s.dev ctx).halting = true → (ctxOf s.dev ctx).records = [] →
    (∀ e ∈ bs, (hallOf s.dev (hallOfCore e.2.core)).matHung = false) → saveBusy d mine = false →
    writeAll ctx ((rs.1.map fun r => (copyAgent (hallOfCore r.2.2.1.core) true, base + r.1, r.2.2.2)) ++
      [(areaAgent, base, head)]) d = some d1 →
    DieGoes (.preemptSave ctx) s (modCtx (bs.foldl leaveSaved (savedEvent (withdraw d1 mine) ctx bs)) ctx fun k =>
      { k with req := false, halting := false, saved := true, resume := false, evac := []
               more := rs.1.map fun r => blockMore d mine (vaNat (base + r.1)) r.2.1 r.2.2.1 })) ∧
  (∀ (ctx : Nat) (s : State) (bs : List Byte) (n d2 : Device) (r : Nat × Nat) (t : List (Nat × Nat)),
    let k := ctxOf s.dev ctx
    k.resume = true → k.records = [] →
    engineRead s.dev ctx true .plain k.csa.toNat 8 areaAgent = .ok (bs, n) →
    areaIndex ctx (min (leNat bs) 30720) (k.csa.toNat + 0x100) n = some (r :: t, d2) →
    (∀ e ∈ r :: t, (hallOf s.dev (hallOfCore e.2)).ck.service = true → (hallOf s.dev (hallOfCore e.2)).ck.stopped = false) →
    DieGoes (.contextResume ctx) s (modCtx d2 ctx fun k => { k with records := r :: t, saved := true })) ∧
  (∀ (ctx index addr core bid : Nat) (s : State) (r : SavedBlock) (d d0 : Device),
    let h := hallOf s.dev (hallOfCore core)
    (ctxOf s.dev ctx).records[index]? = some (addr, core) →
    fetchRecord s.dev ctx (hallOfCore core) addr = .ok (some r, d0) →
    h.ck.service = true → h.owner = some ctx → h.ck.held = false → h.ck.stopped = false → recordFree d0 r = true →
    restoreBlock d0 r true (heldGranules d0 ctx core) = .done d bid → DieGoes (.blockRestore ctx index) s (recordGone d ctx index))

/-- R210, R211, R346, R399, R402: a hall's owner changes once it may; what is parked on a page goes on after a write of FRESUME; a
halted wave goes on when HALTED is cleared, and no failed walk or gathered fault from before answers it. -/
def Obligations.OwnerAndResumeSteps : Prop :=
  (∀ (hall : Nat) (value : W64) (s : State), hall < 128 →
    (hallOf s.dev hall).ck.service = true →
    let o : Option Nat := if value.getLsbD 6 then some (field value 0 6) else none
    DieGoes (.hallOwnerWrite hall value) s (modHall s.dev hall fun h =>
      if o = h.owner then { h with nextOwner := none, lastOwner := if o = none then BitVec.setWidth 6 value else h.lastOwner }
      else { h with nextOwner := some o, nextCtx := BitVec.setWidth 6 value })) ∧
  (∀ (hall : Nat) (o : Option Nat) (s : State), (hallOf s.dev hall).nextOwner = some o →
    (hallOf s.dev hall).ck.service = true → ownerFree s.dev hall = true →
    (∀ i ∈ hallAlcoves s.dev hall, (alcOf s.dev i).state ≠ 1 ∨ (alcOf s.dev i).busy = true) →
    DieGoes (.hallOwnerChange hall) s
      (modHall s.dev hall fun h =>
        { h with owner := o, lastOwner := h.nextCtx, nextOwner := none, wlines := [], wsets := [] })) ∧
  (∀ (ctx : Nat) (va : VA) (s : State), ∃ d, DieGoes (.fresume ctx va) s d ∧
    (∀ e ∈ d.parking, e ≠ (ctx, va.toNat / 65536)) ∧
    ∀ core slot w, waveOf s.dev core slot = some w → w.ctx = ctx →
      (∃ a, w.parked = some a ∧ a.toNat / 65536 = va.toNat / 65536) →
      ∃ x, waveOf d core slot = some x ∧ x.halted = false ∧ x.parked = none ∧ x.walkFaults = []) ∧
  (∀ (core slot : Nat) (s : State) (w : Wave), waveOf s.dev core slot = some w → w.halted = true →
    DieGoes (.waveResume core slot) s (modCore (modWave s.dev core slot fun x =>
      { x with halted := false, parked := none, walkFaults := [], cnt := { x.cnt with wd := 0 } }) core (regather [slot])))

/-- R333, R334, R338 to R343, R435, R436, R440: classes, budgets and droops of a hall. That a reading holds the ballast in
force, which is taken out of it, and how the new one is rounded are the model's choices (logs 125 and 85). -/
def Obligations.PowerSteps : Prop :=
  (∀ (hall : Nat) (value : W32) (s : State), ∃ d, DieGoes (.ibudWrite hall value) s d ∧
    (hallOf d hall).pw.ibud = value ∧
    (hallOf d hall).pw.irem = BitVec.ofNat 32 (value.toNat - ((hallBlocks s.dev hall).map fun e => e.2.current.toNat).sum)) ∧
  (∀ (samples : List HallSample) (outside : W32) (s : State), ∃ t,
    exec (.controlIntervalBoundary samples outside) s = .next t ∧ t.dev.nhmeas = outside ∧
    t.dev.nhmax = (if s.dev.nhmax.toNat < outside.toNat then outside else s.dev.nhmax) ∧
    ∀ z, z < 32 → (zoneOf t.plant z).tbud = BitVec.ofNat 32 (tbudOf (zoneOf s.plant z))) ∧
  (∀ (emeas : W32) (c : HallCount) (tbud : Nat) (p : HallPower),
    let q := hallBoundary emeas c tbud p
    let owed := p.overspend.toNat + (emeas.toNat - p.bprev.toNat)
    let b := min p.ebud.toNat tbud
    owed < 2 ^ 32 → q.emeas = emeas ∧ q.erem.toNat = b - owed ∧ q.overspend.toNat = owed - b ∧ q.bprev.toNat = b) ∧
  (∀ (f : Nat) (c : BitVec 3) (s : State), (tblGet blankFlight s.dev.flights f).slew = some c →
    (hallOf s.dev (2 * f)).ck.droop = false → (hallOf s.dev (2 * f + 1)).ck.droop = false →
    let down := decide (c.toNat < (tblGet blankFlight s.dev.flights f).vcls.toNat)
    DieGoes (.voltageSlewEnd f) s (settleFlight (modClocks (modFlight s.dev f fun x => { x with vcls := c, slew := none }) f
      fun k => { k with rising := false, fell := k.fell && !down }) f)) ∧
  (∀ (h : Nat) (s : State), hopDue s.dev h = true → (hallOf s.dev h).ck.droop = false →
    DieGoes (.clockHop h) s (modCk s.dev h fun c => { c with hop := some c.target })) ∧
  (∀ (h : Nat) (c : BitVec 3) (s : State), (hallOf s.dev h).ck.hop = some c → (hallOf s.dev h).ck.droop = false →
    let fell := decide (c.toNat < (hallOf s.dev h).pw.cls.toNat)
    DieGoes (.clockHopEnd h) s (settleFlight
      (modPw (modCk s.dev h fun k => { k with hop := none, fell := fell }) h fun p => { p with cls := c }) (flightNo h))) ∧
  (∀ (f : Nat) (r : LandingReading) (s : State), ∃ d, DieGoes (.landingSample f r) s d ∧
    (tblGet blankFlight d.flights f).stop = decide (60 < r.offMv) ∧
    ((servedHalls s.dev f).length = 2 → (tblGet blankFlight d.flights f).ballast =
      ballastFor (rawReading (tblGet blankFlight s.dev.flights f) r))) ∧
  (∀ (h : Nat) (s : State), DieGoes (.droopDetect h) s (modCk s.dev h fun c => { c with droop := true })) ∧
  (∀ (h : Nat) (cycles : W32) (s : State), (hallOf s.dev h).ck.droop = true →
    DieGoes (.droopClear h cycles) s (telemetryPut (modCk s.dev h fun c => { c with droop := false })
      (.monitor (64 + h)) 1 (openTel 1 0) (64 + h) cycles.toNat)) ∧
  (∀ (h : Nat) (mvs : List Nat) (s : State), (hallOf s.dev h).ck.service = true → ∃ d, DieGoes (.ageingReplan h mvs) s d ∧
    ((∀ c, c < 8 → 60 < mvs.getD c 61) → (hallOf d h).ck.unusable = true) ∧
    (∀ c, c < 8 → mvs.getD c 61 ≤ 60 → (∀ k, c < k → k < 8 → 60 < mvs.getD k 61) →
      (hallOf d h).ck.newCap = some (BitVec.ofNat 3 c) ∧ (hallOf d h).ck.unusable = false)) ∧
  (∀ (h : Nat) (mvs : List Nat) (s : State), (hallOf s.dev h).ck.service = false → exec (.ageingReplan h mvs) s = .next s)

/-- R342, R437 to R439: a zone's grant, valve, sensor events, evacuation and overheat stop. That an overheat stop closes its
zone until coolant is granted again (log 97), and how long the ports stay slow (log 130), are the model's readings. -/
def Obligations.CoolantSteps : Prop :=
  (∀ (z : Nat) (value : W64) (s : State), z < 36 →
    ∃ t, exec (.coolantGrantWrite z value) s = .next t ∧
      (zoneOf t.plant z).min = value.extractLsb' 60 4 ∧ (zoneOf t.plant z).tgt = value.extractLsb' 32 16 ∧
      (zoneOf t.plant z).grant.toNat =
        min (max (value.extractLsb' 56 4).toNat (value.extractLsb' 60 4).toNat) (375 - otherGrants s.plant z) ∧
      ∀ y, y ≠ z → zoneOf t.plant y = zoneOf s.plant y) ∧
  (∀ (z : Nat) (r : ZoneReading) (s : State), z < 36 → (zoneOf s.plant z).evacuating = false →
    (zoneOf s.plant z).closed = false →
    ∃ t, exec (.valveStep z r) s = .next t ∧ (zoneOf t.plant z).grant = (zoneOf s.plant z).grant ∧
      t.dev = (readingCodes r (zoneOf s.plant z)).foldl (fun d c => telemetryPut d (.sensor z) 3 c z (openTel 3 c)) s.dev ∧
      (zoneOf t.plant z).valve.toNat =
        (let v := (zoneOf s.plant z).valve.toNat
         let g := (zoneOf s.plant z).grant.toNat
         if v < g then v + 1 else if g < v then v - 1 else v)) ∧
  (∀ (z : Nat) (r : ZoneReading) (s : State), z < 36 →
    ∃ t, exec (.coolantEvent z r) s = .next t ∧
      (r.valid = true → (zoneOf t.plant z).temp = r.temp ∧ (zoneOf t.plant z).flow = r.flow ∧
        (zoneOf t.plant z).press = r.press ∧ (zoneOf t.plant z).dry = r.dry ∧ (zoneOf t.plant z).failed = false) ∧
      (r.valid = false → (zoneOf t.plant z).tbud = 0 ∧ (zoneOf t.plant z).failed = true ∧
        t.dev = telemetryPut s.dev (.sensor z) 3 4 z (openTel 3 4))) ∧
  (∀ (z : Nat) (s : State), z < 36 → (zoneOf s.plant z).dry = true → (zoneOf s.plant z).evacuating = false →
    (zoneOf s.plant z).closed = false →
    ∃ t, exec (.coolantEvacuation z) s = .next t ∧ (zoneOf t.plant z).evacuating = true ∧ (zoneOf t.plant z).tbud = 0 ∧
      (z < 32 → (zoneOf t.plant z).valve = 15 ∧
        ∀ i, i < 4 → (hallOf t.dev (4 * z + i)).ck.held = true ∧ (hallOf t.dev (4 * z + i)).pw.erem = 0) ∧
      (z = 34 → ∀ p, p < 16 → (portOf t.plant p).slow = true)) ∧
  (∀ (z : Nat) (r : ZoneReading) (s : State), z < 32 → (zoneOf s.plant z).evacuating = true → r.valid = true →
    ∃ t, exec (.evacuationEnd z r) s = .next t ∧ (zoneOf t.plant z).evacuating = false ∧
      (r.dry = false → r.temp.toNat ≤ (zoneOf s.plant z).tgt.toNat →
        (zoneOf t.plant z).closed = (zoneOf s.plant z).closed ∧ ∀ i, i < 4 → (hallOf t.dev (4 * z + i)).ck.held = false) ∧
      (r.dry = true ∨ (zoneOf s.plant z).tgt.toNat < r.temp.toNat →
        (zoneOf t.plant z).closed = true ∧ (zoneOf t.plant z).valve = 0 ∧
        ∀ i, i < 4 → (hallOf t.dev (4 * z + i)).ck.stopped = true)) ∧
  (∀ (z : Nat) (s : State), z < 32 → 1760 ≤ (zoneOf s.plant z).temp.toNat →
    ∃ t, exec (.overheatStop z) s = .next t ∧ (zoneOf t.plant z).closed = true ∧ (zoneOf t.plant z).evacuating = false ∧
      ∀ i, i < 4 → (hallOf t.dev (4 * z + i)).ck.stopped = true) ∧
  (∀ (z : Nat) (s : State), 32 ≤ z → z < 36 → 1760 ≤ (zoneOf s.plant z).temp.toNat →
    DieGoes (.overheatStop z) s (telemetryPut s.dev (.sensor z) 3 6 z (openTel 3 6)))

/-- R408 to R413, R419, R420, R427, R430: engines reset, units reloaded, decoders expired, storage damaged, requests of and
to other modules. How the row's input names a decoder that is no wave's is the model's choice (log 99). -/
def Obligations.FailureSteps : Prop :=
  (∀ (h : Nat) (s : State), h < 128 → (hallOf s.dev h).matHung = false →
    matOverdue (hallOf s.dev h) = true → hallBlocks s.dev h = [] →
    ∃ d, DieGoes (.matrixEngineHang h) s d ∧ (hallOf d h).matHung = true ∧ (hallOf d h).matHeld = true ∧
      ∀ tile i j, tile < 12 → i < 64 → j < 128 → accGet d h tile i j = 0) ∧
  (∀ (h : Nat) (s : State), (hallOf s.dev h).matHung = true →
    DieGoes (.matrixEngineRestart h) s (modHall s.dev h fun h => { h with matHung := false, matHeld := false })) ∧
  (∀ (h q : Nat) (s : State) (o : CopyOp) (t : List CopyOp) (b : Block), cqOf (hallOf s.dev h) q = o :: t →
    copyOverdue s.dev o = true → tblFind s.dev.blocks o.block = some b →
    let d := modHall s.dev h fun k =>
      (o :: t).foldl (fun k o => unlockOp o.id k) { k with cq := tblSet k.cq q ((o :: t).map hangCopy) }
    DieGoes (.copyQueueReset h q) s
      (faultRecord ((o :: t).foldl (fun d o => orphanOf d o.core o.slot o.block (eTok o.word)) d) (.copyQueue h q) o.ctx 0x5B
        false 0 (BitVec.ofNat 64 (q + 4 * h)) { blockWhere b with hdr := 0, word := 0, slot := 0 })) ∧
  (∀ (kind unit : Nat) (s : State), kind = 1 ∨ kind = 2 ∨ kind = 3 → unitStopped s.dev kind unit = false →
    unitOverdue s.dev kind unit = true → DieGoes (.unitReload kind unit) s (telemetryPut (modUnit s.dev kind unit fun u => { u with reloading := true })
      (.monitor (openTel 7 (4 + kind))) 7 (openTel 7 0 % 256) (openTel 7 (4 + kind)) (openTel 7 1))) ∧
  (∀ (kind unit : Nat) (s : State), kind < 5 → unitOverdue s.dev kind unit = false → exec (.unitReload kind unit) s = .next s) ∧
  (∀ (kind unit : Nat) (s : State), unitStopped s.dev kind unit = true →
    DieGoes (.unitReloadEnd kind unit) s (modUnit s.dev kind unit fun u => { u with reloading := false, idle := 0 })) ∧
  (∀ (core slot : Nat) (va : VA) (s : State) (w : Wave) (a : Nat), slot < 64 → waveOf s.dev core slot = some w →
    sidecarAt s.dev (some (hallOfCore core)) w.ctx (va.toNat / 256 * 256) = .ok a →
    DieGoes (.decoderWatchdog core slot va) s (modWave s.dev core slot fun x => { x with walkFaults := x.walkFaults ++
      [{ page := BitVec.ofNat 48 (va.toNat / 256 * 256), cause := 0x41,
         info := BitVec.ofNat 64 (6 * 256 + ((memRead s.dev a 1).headD 0).toNat) }] })) ∧
  (∀ (hall q : Nat) (va : VA) (s : State) (o : CopyOp) (t : List CopyOp), q < 4 → cqOf (hallOf s.dev hall) q = o :: t →
    o.begun = true → o.finished = false → o.opc = 0x33 → vaNat ((opDst o).base + o.unit) = va.toNat / 256 * 256 →
    DieGoes (.decoderWatchdog hall (64 + q) va) s (stopCopy s.dev hall q o
      { xlateFault 0x41 (expireInfo s.dev (some hall) o.ctx (va.toNat / 256 * 256)) (va.toNat / 256 * 256) with rank := 8 })) ∧
  (∀ (core slot op module port : Nat) (s : State) (w : Wave) (o : LongOp), waveOf s.dev core slot = some w →
    w.ops.find? (fun o => decide (o.id = op) && (decide (o.kind = .store) || decide (o.kind = .cwb))) = some o →
    partsTo o module port ≠ [] →
    DieGoes (.remoteTimeout (.store core slot op module port)) s
      (lostRecord (completeKind s.dev core slot o.kind op) port module w.ctx (standsAt s.dev core slot))) ∧
  (∀ (addr : Nat) (bs : List Byte) (s : State), bs ≠ [] → addr % 128 + bs.length ≤ 128 → regionOf addr = .mem →
    exec (.remoteRequest (.write addr bs)) s = .next { s with
      dev := memWrite s.dev 64 (domainAddr s.dev addr) bs, plant := { s.plant with portOut := s.plant.portOut ++ [[]] } }) ∧
  (∀ (x : Damage) (s : State), x.store ≠ 0 → x.correctable = true → DieGoes (.scrub x) s (logDamage s.dev 1 x))

/-- R352, R354 to R357, R442 to R445: ports, boot, attestation, the module's number, captures, updates and checkpoints. The
places of the fields of the checkpoint record and of an attestation, the one-byte answers and the number of a failing image
are the model's choice (log 20); that the first image is measured is presumed (log 9); that an update replaces the image of
its role is an inference (log 147). -/
def Obligations.ModuleSteps : Prop :=
  (∀ (p flits : Nat) (s : State), p < 16 → let now := s.dev.fcycle
    exec (.flitCrcReplay p flits) s =
      .next (modPort p (fun p => { p with replays := recentReplays now p ++ [(now, flits)] }) s)) ∧
  (∀ (p lanes : Nat) (s : State), p < 16 → (portOf s.plant p).removed = false → (portOf s.plant p).training = none →
    16 < recentFlits s.dev.fcycle (portOf s.plant p) ∨ lanes < (portOf s.plant p).lanes →
    ∃ t, exec (.portRetrain p lanes) s = .next t ∧ (portOf t.plant p).training = some s.dev.fcycle ∧
      (portOf t.plant p).replays = []) ∧
  (∀ (p lanes : Nat) (s : State), (portOf s.plant p).training.isSome = true → lanes = 4 ∨ lanes = 2 ∨ lanes = 1 →
    ∃ t, exec (.portTrained p lanes) s = .next t ∧ (portOf t.plant p).training = none ∧ (portOf t.plant p).lanes = lanes) ∧
  (∀ (p : Nat) (t0 : W64) (s : State), (portOf s.plant p).training = some t0 → fabricMs ≤ (s.dev.fcycle - t0).toNat →
    ∃ t, exec (.portRemove p) s = .next t ∧ (portOf t.plant p).removed = true ∧
      ∀ m, (tblGet 0#16 t.dev.routes m) &&& BitVec.ofNat 16 (2 ^ p) = 0) ∧
  (∀ (i : SignedImage) (t : List SignedImage) (s : State), s.plant.bootStage = 0 →
    if i.role = 0 ∧ Config.romOk i.bytes i.sig = true then exec (.moduleBoot (i :: t)) s = .next { s with
      plant := bootImages [1, 2, 3, 4, 5, 6, 7] t { s.plant with
        measure := extendM s.plant.measure i.bytes, versions := s.plant.versions ++ [i.version]
        loaded := s.plant.loaded ++ [i], bootStage := 1 } }
    else exec (.moduleBoot (i :: t)) s = .next { s with
      plant := { s.plant with bootStage := 1, mgmtOut := s.plant.mgmtOut ++ [leBytes 1 1] } }) ∧
  (∀ (is : List SignedImage) (s : State), s.plant.bootStage = 0 → is.map (·.role) = List.range 8 →
    let good (i : SignedImage) : Bool := if i.role = 0 then Config.romOk i.bytes i.sig else Config.falconOk i.bytes i.sig
    if is.all good then exec (.moduleBoot is) s = .next { s with plant := { s.plant with
      bootStage := 9, apcUp := true, measure := is.foldl (fun m i => extendM m i.bytes) s.plant.measure
      versions := s.plant.versions ++ is.map imageVersion, loaded := s.plant.loaded ++ is } }
    else ∃ k t, exec (.moduleBoot is) s = .next t ∧ (is.take k).all good = true ∧ ((is.drop k).head?.elim true good) = false ∧
      t.dev = s.dev ∧ t.plant.apcUp = s.plant.apcUp ∧ t.plant.loaded = s.plant.loaded ++ is.take k ∧
      t.plant.mgmtOut = s.plant.mgmtOut ++ [leBytes 1 (k + 1)]) ∧
  (∀ (nonce : List Byte) (s : State), nonce.length = 32 →
    let a := nonce ++ s.plant.measure ++ leBytes 1 s.dev.modno.toNat ++ s.plant.versions.flatMap fun v => leBytes 4 v.toNat
    exec (.attestationRequest nonce) s = .next { s with
      plant := { s.plant with mgmtOut := s.plant.mgmtOut ++ [a ++ Config.attestSign a] } }) ∧
  (∀ (n : Nat) (s : State), n < 64 →
    exec (.moduleNumberAssign n) s = .next { s with
      dev := if BitVec.ofNat 6 n = s.dev.modno then s.dev else renumber (BitVec.ofNat 6 n) s.dev }) ∧
  (∀ (addr len : Nat) (s : State), addr + len ≤ 0x6000000000 →
    exec (.captureRead addr len) s = .next { s with plant := { s.plant with mgmtOut := s.plant.mgmtOut ++
      [(List.range len).map fun i => rawByte s.dev (domainAddr s.dev (addr + i))] } }) ∧
  (∀ (seq : W64) (s : State), Memory.wf s.dev.st.mem = true → s.plant.measure.length = 64 → unsavedCtxs s.dev = [] →
    tierServed s.dev = true → ∃ t, exec (.checkpoint seq .well) s = .next t ∧ restoreReason t = none) ∧
  (∀ (seq : W64) (tier : TierWrites) (s : State), Memory.wf s.dev.st.mem = true → unsavedCtxs s.dev = [] → s.dev.blocks = [] →
    tier = .fails ∨ tierServed s.dev = false → ∃ t, exec (.checkpoint seq tier) s = .next t ∧ restoreReason t = some 1) ∧
  (∀ (seq : W64) (tier : TierWrites) (s : State), unsavedCtxs s.dev ≠ [] →
    DieGoes (.checkpoint seq tier) s ((unsavedCtxs s.dev).foldl requestPreempt s.dev)) ∧
  (∀ (i : SignedImage) (t : List Move) (s : State), s.moves = .mgmtUpdate i :: t → i.role < 8 →
    if imageOk i = true then ∃ u, step s = .next u ∧ u.dev = s.dev ∧ u.plant.measure = extendM s.plant.measure i.bytes ∧
      u.plant.versions = s.plant.versions ++ [imageVersion i] ∧ u.plant.loaded.filter (fun x => decide (x.role = i.role)) = [i]
    else step s = .next { s with moves := t }) ∧
  (∀ (s : State), restoreReason s = none → exec .checkpointRestore s = .next { s with
    dev := (List.range 64).foldl resumeRestored (moveTier (safeBase s.dev) (domainAddr s.dev 0) s.dev) }) ∧
  (∀ (s : State) (r : Nat), restoreReason s = some r → exec .checkpointRestore s = .next { s with
    plant := { s.plant with mgmtOut := s.plant.mgmtOut ++ [leBytes 1 r] }
    dev := telemetryPut s.dev (.monitor (openTel 9 19)) 9 3 (openTel 9 19) (openTel 9 3) }) ∧
  (∀ s : State, restoreReason s =
    if leNat (memBytes s.dev.st.mem (recordBase s.dev + 16) 8) ≠ 1 then some 1
    else if leNat (memBytes s.dev.st.mem (recordBase s.dev + 8) 8) ≠ s.dev.modno.toNat then some 2
    else if memBytes s.dev.st.mem (recordBase s.dev + 64) 64 ≠ s.plant.measure then some 3 else none)

/-- R6, R77, R345: a write of a control register does what the register does; an access of an application core to a window
reads or writes its bytes, or is answered with an access fault. That the register-write row acts as core 0 and that no window
access is made before boot releases the cores are the model's choices (log 121); 65 names the cores as writers (log 60). A core's
own step fetches, decodes and executes; an exception in machine mode saves pc, cause and value and goes to the vector; a store of
eight bytes to a control register writes it, and one to an address of the window without a register is an access fault: what
RISC-V gives and the spec only names (log 101). -/
def Obligations.WindowSteps : Prop :=
  (∀ (o : Nat) (r : Reg) (x : W64) (s : State), regAt o = some r →
    exec (.registerWrite (0x200020000000 + o) x) s = .next (writeReg 0 s r x)) ∧
  (∀ (a : ApcAccess) (s : State), s.plant.apcUp = true → windowLegal a = false →
    exec (.windowAccess a) s = .next { s with plant := { s.plant with apcOut := s.plant.apcOut ++ [(a.apc, none)] } }) ∧
  (∀ (a : ApcAccess) (s : State), s.plant.apcUp = false → exec (.windowAccess a) s = .next s) ∧
  (∀ (a : ApcAccess) (x : W64) (s : State), s.plant.apcUp = true → windowLegal a = true → regionOf a.addr ≠ .ctrl → a.wdata = some x →
    DieGoes (.windowAccess a) s (physWrite s.dev 65 (domainAddr s.dev a.addr) (leBytes a.size x.toNat))) ∧
  (∀ (a : ApcAccess) (s : State), s.plant.apcUp = true → windowLegal a = true →
    regionOf a.addr ≠ .ctrl → a.wdata = none →
    exec (.windowAccess a) s = .next { s with plant := { s.plant with apcOut := s.plant.apcOut ++
      [(a.apc, some (leW64 ((List.range a.size).map fun i => physByte s.dev (domainAddr s.dev a.addr + i))))] } }) ∧
  (∀ (s : State) (m : Nat) (x : W64), m < 64 →
    readReg (writeReg 0 s (.route m) x) (.route m) = BitVec.setWidth 64 (BitVec.setWidth 16 x)) ∧
  (∀ (s : State) (h : Nat) (x : W64), (readReg (writeReg 0 s (.power h 0) x) (.power h 0)) = x) ∧
  (∀ (s : State) (c : Nat) (x : W64), readReg (writeReg 0 s (.ctx c 0) x) (.ctx c 0) = x &&& 0x000FFFFFFFFFF000) ∧
  (∀ (s : State) (c : Nat) (t : List Move), s.moves = .apc c :: t → s.plant.apcUp = false →
    step s = .next { s with moves := t }) ∧
  (∀ (s s1 : State) (c w : Nat) (t : List Move) (op : RvOp) (k1 : ApcCore), s.moves = .apc c :: t → c < 16 →
    s.plant.apcUp = true → let s0 := { s with moves := t }; let k := apcOf s.dev c
    rvInterrupt s0 k = none → rvFetch s0 c k = .ok w → rvDecode w = some op →
    rvExec s0 c { k with pc := k.pc + BitVec.ofNat 64 (rvLength w) } k.pc w op = .ok (s1, k1) →
    ∃ u, step s = .next u ∧ u.plant = s1.plant ∧ u.dev.st = s1.dev.st ∧ (apcOf u.dev c).pc = k1.pc ∧
      (apcOf u.dev c).x = k1.x ∧ (apcOf u.dev c).f = k1.f ∧ (apcOf u.dev c).priv = k1.priv) ∧
  (∀ (s : State) (c w : Nat) (t : List Move) (op : RvOp) (e : RvTrap), s.moves = .apc c :: t → c < 16 →
    s.plant.apcUp = true → let s0 := { s with moves := t }; let k := apcOf s.dev c
    rvInterrupt s0 k = none → rvFetch s0 c k = .ok w → rvDecode w = some op → k.priv = 3 →
    rvExec s0 c { k with pc := k.pc + BitVec.ofNat 64 (rvLength w) } k.pc w op = .error e →
    ∃ u, step s = .next u ∧ u.plant = s.plant ∧ u.dev.st = s.dev.st ∧ (apcOf u.dev c).csrs.mepc = k.pc ∧
      (apcOf u.dev c).csrs.mcause = BitVec.ofNat 64 e.cause ∧ (apcOf u.dev c).csrs.mtval = e.tval ∧
      (apcOf u.dev c).pc = k.csrs.mtvec &&& ~~~3#64) ∧
  (∀ (s : State) (c w a rs1 rs2 : Nat) (k : ApcCore) (here off : W64) (reg : Option Reg), k.priv = 3 →
    k.csrs.mstatus.getLsbD 17 = false → regionOf a = .ctrl → (rvX k rs1 + off).toNat = domainAddr s.dev a → a % 8 = 0 →
    regAt (a - ctrlBase) = reg →
    match reg with
    | some r => ∃ k1, rvExec s c k here w (.store 8 rs1 rs2 off) = .ok (writeReg c s r (rvX k rs2), k1) ∧ k1.pc = k.pc ∧
        k1.x = k.x ∧ k1.csrs = k.csrs
    | none => rvExec s c k here w (.store 8 rs1 rs2 off) = .error { cause := 7, tval := rvX k rs1 + off })

/-! ## Encodings, the step, the course of a word, reset, frames and invariants -/

namespace Sys2Proof.Machine

/-- The D operand of the words whose whole effect is one result in D (R165, R167, R194). -/
def resultOperand : Instr → Option Operand
  | .iadd w => some w.d | .isub w => some w.d | .imul w => some w.d | .imulh w => some w.d | .imad w => some w.d
  | .idp4 w => some w.d | .imin w => some w.d | .imax w => some w.d | .shl w => some w.d | .shr w => some w.d
  | .sar w => some w.d | .fshf w => some w.d | .bfe w => some w.d | .bfi w => some w.d | .popc w => some w.d
  | .clz w => some w.d | .ctz w => some w.d | .brev w => some w.d | .blut w => some w.d | .sel w => some w.d
  | .mov w => some w.d | .movi w => some w.d | .iaddi w => some w.d | .imuli w => some w.d | .andi w => some w.d
  | .ori w => some w.d | .xori w => some w.d | .faddi w => some w.d | .fmuli w => some w.d
  | .fadd w => some w.d | .fmul w => some w.d | .ffma w => some w.d | .fmin w => some w.d | .fmax w => some w.d
  | .fclass w => some w.d | .frnd w => some w.d | .ffrc w => some w.d | .fldexp w => some w.d
  | .hadd2 w => some w.d | .hmul2 w => some w.d | .hfma2 w => some w.d | .hmin2 w => some w.d | .hmax2 w => some w.d
  | .hdot2 w => some w.d | .qdot4 w => some w.d
  | .shfl w => some w.d | .wred w => some w.d | .wscan w => some w.d | .bcast w => some w.d
  | .matchLanes w => some w.d | .bsel w => some w.d
  | .sadd w => some w.d | .ssub w => some w.d | .smul w => some w.d | .smulh w => some w.d | .smad w => some w.d
  | .smin w => some w.d | .smax w => some w.d | .sshl w => some w.d | .sshr w => some w.d | .ssar w => some w.d
  | .sblut w => some w.d | .smov w => some w.d | .slea w => some w.d | .smovi w => some w.d | .smovh w => some w.d
  | .saddi w => some w.d
  | _ => none

/-- The words that store to no memory when they complete: predicates, registers other than queues, loads, paths, waits,
queries. -/
def storesNothing : Instr → Bool
  | .icmp _ => true | .fcmp _ => true | .plut _ => true | .vote _ => true | .scmp _ => true | .lpush w => (queueOfOp w.d).isNone
  | .pair _ => true | .readlane _ => true | .writelane _ => true | .rdsr _ => true | .wrsr _ => true | .rdcnt _ => true
  | .ld _ => true | .sld _ => true | .ldc _ => true | .lds _ => true | .texq _ => true
  | .bra _ => true | .brv _ => true | .jmp _ => true | .jmpi _ => true | .exit _ => true | .yield _ => true
  | .nop _ => true | .waitk _ => true | .bkpt _ => true | .halt _ => true
  | .qgath _ => true | .qscat _ => true | .qflush _ => true | .qstat _ => true | .alcqry _ => true
  | .discard _ => true | .perfc _ => true
  | .frcp w => (queueOfOp w.d).isNone | .frsq w => (queueOfOp w.d).isNone | .fsqrt w => (queueOfOp w.d).isNone
  | .fexp2 w => (queueOfOp w.d).isNone | .flog2 w => (queueOfOp w.d).isNone | .fsin w => (queueOfOp w.d).isNone
  | .fcos w => (queueOfOp w.d).isNone | .cvt w => (queueOfOp w.d).isNone | .ballot w => (queueOfOp w.d).isNone
  | .ddx w => (queueOfOp w.d).isNone | .ddy w => (queueOfOp w.d).isNone
  | _ => false

/-- What a core's turn comes to when a word's step answers: the pair that the wave belonged to is left at an issue choice
(R29). -/
def turnEnds (s1 : State) (core slot : Nat) : Host.Outcome State Fault Refusal → Host.Outcome State Fault Refusal
  | .next u => .next { u with dev := leavePair u.dev core slot (isChoice s1.dev core slot) }
  | r => r

end Sys2Proof.Machine

open Sys2Proof Sys2Proof.Machine

/-- R146, R147, Tables 7.2 and 7.3: decoding gives back every well-formed instruction that is a word, and every clause
header. -/
def Obligations.WordsRoundTrip : Prop :=
  (∀ (i : Instr) (c : BitVec 4) (w : W64), i.wf = true → encode i = some (c, w) → decodeWord c w = .ok i) ∧
  ∀ h : Header, Header.ofBits h.toBits = h

/-- R146, Table 18.6: a word that decodes is well-formed and its encoding is that very word: no bit is dropped, and no two
words stand for one instruction. -/
def Obligations.DecodedWordsAreExact : Prop :=
  (∀ (c : BitVec 4) (w : W64) (i : Instr), decodeWord c w = .ok i → i.wf = true ∧ encode i = some (c, w)) ∧
  ∀ w : W64, (Header.ofBits w).toBits = w

/-- Words written out from the encodings of the spec decode to what they stand for, and opcodes that no table lists are
refused. -/
def Obligations.SampleWordsDecode : Prop :=
  (∃ w, decodeWord 0 0x7070_1409_C900_4200 = .ok (.shfl w) ∧ w.d = .v 20 ∧ w.a = .v 9 ∧ w.b = .pos 1) ∧
  (∃ w, decodeWord 3 0x0171_0988_0A00_0400 = .ok (.ld w) ∧ w.d = .v 9 ∧ w.a = .s 8 ∧ w.b = .v 10) ∧
  (∃ w, decodeWord 0 0x3270_0B09_EB0B_0800 = .ok (.ffma w) ∧ w.d = .v 11 ∧ w.a = .v 9 ∧ w.b = .fp 2 ∧ w.c = .v 11) ∧
  (∃ w, decodeWord 6 0x0210_0000_FFFF_FFC0 = .ok (.brv w) ∧ w.hd.g = { neg := false, p := 1 } ∧ w.off.toInt = -64) ∧
  (∃ w, decodeWord 7 0x1070_8A8B_0000_1800 = .ok (.csload w) ∧ w.x = .s 10 ∧ w.y = .s 11) ∧
  decodeWord 0 0 = .error (.reservedOpcode 0 0) ∧ decodeWord 6 0xFF00_0000_0000_0000 = .error (.reservedOpcode 6 0xFF) ∧
  decodeWord 9 0 = .error (.reservedClass 9)

/-- R41, R42, R44, R56, R141 (and log 2, the order of moves): on a core's turn, the wave first in its order runs the word
at its position, decoded by its clause's class, or its clause header; an agent's step runs as it is named. The model's
`step` takes the head of `moves`. -/
def Obligations.StepRunsDecodedWord : Prop :=
  (∀ (s : State) (c slot : Nat) (t : List Move) (rest : List Nat) (v : View), s.moves = .core c :: t →
    clockRuns s.dev (hallOfCore c) = true →
    let s1 := hallTime exec { s with moves := t } (hallOfCore c) (slotWait s.dev c)
    let s2 := selectWave s1 c slot
    issueOrder s1.dev c = slot :: rest → pairOf s1.dev c slot = none → view s2.dev = some v →
    (∀ (h w : W64) (i : Instr), v.w.pos.hdr = some h →
      ¬ (v.w.pos.clpos = 0 ∧ v.w.pos.yieldDue = true ∧ v.w.trap.trlvl = 0) →
      fetchCode v (v.wordVa v.w.pos.clpos.toNat) = .ok w → decodeWord (h.extractLsb' 60 4) w = .ok i →
      (∀ s', exec i s2 = .next s' → waveOf s'.dev c slot ≠ waveOf s2.dev c slot) →
      step s = turnEnds s1 c slot (exec i s2)) ∧
    (∀ w : W64, v.w.pos.hdr = none → fetchCode v v.p.pc = .ok w →
      (∀ s', exec (.clauseHeader (Header.ofBits w)) s2 = .next s' → waveOf s'.dev c slot ≠ waveOf s2.dev c slot) →
      step s = turnEnds s1 c slot (exec (.clauseHeader (Header.ofBits w)) s2))) ∧
  (∀ (s : State) (i : Instr) (t : List Move), s.moves = .event i :: t → agentStep i = true →
    step s = exec i { s with moves := t }) ∧
  (∀ (s : State) (h n : Nat) (t : List Move), s.moves = .hallTime h n :: t →
    step s = .next (hallTime exec { s with moves := t } h n))

/-- R41, R208, R234, R385, R386, R395: what a word comes to short of its effect. One that is held changes nothing; one with
no executing lane is counted and has no effect; one that breaks a rule traps with the first cause in the order of R395;
a privileged word without privilege takes 0x16. -/
def Obligations.WordCourse : Prop :=
  ∀ (i : Instr) (j : Job) (s : State) (v : View), wordJob i = some j → view s.dev = some v → v.w.arw = none →
    (jobHeld j v = true → exec i s = .next s) ∧
    (jobHeld j v = false → j.exec v = 0 → exec i s = .next (Issued s v v.d .onward)) ∧
    (∀ c, jobHeld j v = false → j.exec v ≠ 0 → firstBad (sharedChecks j v ++ j.legal v) = some c →
      let t : Trap := { cause := c.cause, mask := j.exec v, info := BitVec.ofNat 64 c.info, addr := 0 }
      exec i s = .next { s with dev := trapHere v j.code t }) ∧
    ((match i with
        | .halt _ => true | .tlbinv _ => true | .csload _ => true | .ctxsave _ => true | .ctxrest _ => true
        | _ => false) = true →
      v.priv = false → jobHeld j v = false → j.exec v ≠ 0 →
      let t : Trap := { cause := 0x16, mask := j.exec v, info := 0, addr := 0 }
      exec i s = .next { s with dev := trapHere v j.code t })

/-- R61, R376, R379 to R382: taking a trap writes the frame's eight words, saves the cause, level and depth, drops the
path's reservations and goes to the level's vector; without a handler the block is terminated. A spill or fill handler is
entered at level 3 and its ERET moves the lanes' oldest slot by 64. -/
def Obligations.TrapEntry : Prop :=
  (∀ (v : View) (t : Trap) (iword : W64) (hdr : VA) (word : BitVec 4) (lvl : BitVec 2) (d1 : Device) (x : Wave),
    trapLevel v.w t.cause = some lvl →
    frameWrite v (decide (lvl = 2) || v.priv) 0 (frameBytes t word hdr iword v.p.depth) = some d1 →
    waveOf d1 v.core v.slot = some x →
    ∃ y, waveOf (takeTrap v t iword hdr word) v.core v.slot = some y ∧ y.trap.trcause = t.cause ∧ y.trap.trlvl = lvl ∧
      y.trap.trdepth = v.p.depth ∧ y.pos.clpos = 0 ∧ y.pos.hdr = none ∧ y.pos.run = x.pos.run ∧
      (y.pos.paths[x.pos.run]?).map (·.pc) =
        (x.pos.paths[x.pos.run]?).map (fun _ => if lvl = 1 then x.trap.trvec else x.trap.strvec) ∧
      (∀ e ∈ y.resv, v.p.mask.getLsbD e.1 = false) ∧ y.sregs = x.sregs ∧ y.preds = x.preds ∧ y.wb = x.wb ∧ y.old = x.old) ∧
  (∀ (t : Trap) (word : BitVec 4) (hdr : VA) (iword : W64) (depth : BitVec 16),
    (frameBytes t word hdr iword depth).length = 64 ∧
    ∀ k, k < 8 → leNat (((frameBytes t word hdr iword depth).drop (8 * k)).take 8) =
      [t.cause.toNat * 2 ^ 56 + word.toNat * 2 ^ 52 + hdr.toNat, t.mask.toNat, t.info.toNat, t.addr.toNat, iword.toNat,
        depth.toNat, 0, 0].getD k 0) ∧
  (∀ (v : View) (t : Trap) (iword : W64) (hdr : VA) (word : BitVec 4), v.w.trap.trlvl = 0 → v.w.trap.strvec = 0 →
    v.w.trap.trvec = 0 ∨ t.cause.getLsbD 7 = false →
    takeTrap v t iword hdr word = v.terminate v.d t.cause t.mask t.info) ∧
  (∀ (v : View) (lanes : Mask) (fill : Bool) (d1 : Device) (x : Wave), v.w.trap.trlvl ≠ 3 →
    frameWrite v v.priv 0x30 (leBytes 8 (v.w.pos.clpos.toNat * 2 ^ 52 + v.p.pc.toNat)) = some d1 →
    waveOf d1 v.core v.slot = some x →
    ∃ y, waveOf (takeSpill v lanes fill) v.core v.slot = some y ∧ y.trap.trlvl = 3 ∧
      y.trap.trcause = (if fill then 2 else 1) ∧
      y.trap.sf = some { lanes := lanes, fill := fill, lvl := x.trap.trlvl, cause := x.trap.trcause } ∧
      (y.pos.paths[x.pos.run]?).map (·.pc) = (x.pos.paths[x.pos.run]?).map fun _ => x.trap.spillh) ∧
  (∀ (sf : SpillFill) (f : W64) (w : Wave) (l : Nat), l < w.width → w.width ≤ 64 →
    let y := eretSpill sf f w
    y.trap.sf = none ∧ y.trap.trlvl = sf.lvl ∧ y.trap.trcause = sf.cause ∧ y.pos.clpos = f.extractLsb' 52 4 ∧
    tblGet 0#32 y.old l = if sf.lanes.getLsbD l then
      (if sf.fill then tblGet 0#32 w.old l - 64 else tblGet 0#32 w.old l + 64) else tblGet 0#32 w.old l)

/-- R15, R33, R81, R332, R342, R347, R355, Tables 4.4, 12.2 to 12.4 and 13.2: what reset leaves, where the spec gives it.
(Storage reads zero by the model's choice, logs 4 and 5; this statement does not rest on it.) -/
def Obligations.ResetState : Prop :=
  State.reset.dev.cores = [] ∧ State.reset.dev.blocks = [] ∧ State.reset.dev.grids = [] ∧ State.reset.moves = [] ∧
  (∀ q, (queueOf State.reset.dev q).en = false ∧ (queueOf State.reset.dev q).entries = [] ∧
    (queueOf State.reset.dev q).head = none) ∧
  (∀ h, (hallOf State.reset.dev h).owner = none ∧ (hallOf State.reset.dev h).pw.ibud = 24000 ∧
    (hallOf State.reset.dev h).pw.ebud = 120000 ∧ (hallOf State.reset.dev h).pw.cls = 4 ∧
    (hallOf State.reset.dev h).pw.gov = true ∧ (hallOf State.reset.dev h).pw.gcap = 7 ∧
    (hallOf State.reset.dev h).ck.cap = 7 ∧ (hallOf State.reset.dev h).ck.margin = 0) ∧
  (∀ i, (alcOf State.reset.dev i).state = 0) ∧
  (∀ z, z < 36 → (zoneOf State.reset.plant z).min = 2 ∧
    (zoneOf State.reset.plant z).grant = (if z < 32 then 11 else 5) ∧ (zoneOf State.reset.plant z).tgt = 1280) ∧
  State.reset.plant.measure = List.replicate 64 0

/-- The plant's invariant holds at reset (R342, R355, R443). -/
def Obligations.PlantInvariantAtReset : Prop := State.reset.plant.Inv

/-- R342, R355, R443: whatever step the machine takes, the coolant granted stays within 6,000 gill, the measurement register
stays 64 bytes, and every port runs on 4, 2 or 1 lanes. -/
def Obligations.StepKeepsPlantInvariant : Prop :=
  ∀ s s' : State, s.plant.Inv → step s = .next s' → s'.plant.Inv

/-- R67, R165, R167, R194: the frame of the words with one result. When such a word issues, pops no queue and writes a
register, it completes, and changes no register but D, no predicate, no memory, accumulator or descriptor, no other wave,
and none of the wave's other special registers but sr.fflags. -/
def Obligations.ResultWordFrame : Prop :=
  ∀ (i : Instr) (j : Job) (d : Operand) (s : State) (v : View) (ex : Mask), resultOperand i = some d →
    wordJob i = some j → Issues j s v ex → (∀ o ∈ j.pops, queueOfOp o = none) → (∀ q, d ≠ .q q) →
    ∃ s', exec i s = .next s' ∧ Framed s s' v
      (fun k => ∃ n l w, d = .v n ∧ ex.getLsbD l = true ∧ vword v.w l n = some w ∧ k = v.core * 65536 + w)
      (fun n => d = .s n) (fun _ => False) (fun n => d = .b n)

/-- The frame of the words that store nothing (loads among them): when such a word's effect is done, every byte of memory
and scratchpad, every accumulator and descriptor, everything around the die and every other wave is as it was. -/
def Obligations.QuietWordFrame : Prop :=
  ∀ (i : Instr) (j : Job) (s : State) (v : View) (ex : Mask) (d : Device) (pos : Pos), storesNothing i = true →
    wordJob i = some j → Issues j s v ex → j.act v ex = .done d pos →
    ∃ s', exec i s = .next s' ∧ s'.plant = s.plant ∧ s'.dev.st.mem = s.dev.st.mem ∧ s'.dev.st.spad = s.dev.st.spad ∧
      s'.dev.st.acc = s.dev.st.acc ∧ s'.dev.st.md = s.dev.st.md ∧
      ∀ c slot, (c, slot) ≠ (v.core, v.slot) → waveOf s'.dev c slot = waveOf s.dev c slot

/-- The memories keep their canonical form (the model's own, log 4) through the words that store: when the effect of a
store, an atomic or a conditional store is done, memory and scratchpad are canonical if they were. -/
def Obligations.StoreWordsKeepMemoryCanonical : Prop :=
  ∀ (i : Instr) (j : Job) (s : State) (v : View) (ex : Mask) (d : Device) (pos : Pos),
    (match i with
      | .st _ => true | .sts _ => true | .atom _ => true | .atoms _ => true | .red _ => true | .stcnd _ => true
      | _ => false) = true →
    wordJob i = some j → Issues j s v ex → j.act v ex = .done d pos →
    Memory.wf s.dev.st.mem = true → Memory.wf s.dev.st.spad = true →
    ∃ s', exec i s = .next s' ∧ Memory.wf s'.dev.st.mem = true ∧ Memory.wf s'.dev.st.spad = true
end

