-- ==== Sys2Proof/Laws/Issue.lean ====
section
/-! SUPPORT. What the shared course of a word can come to, said once: a word that issues, one with no executing lane, one
that is illegal, one that is held; and what no word touches. -/

namespace Sys2Proof.Machine

/-- The meaning of a word is the course of its job. -/
theorem exec_word {i : Instr} {j : Job} (h : wordJob i = some j) (s : State) : exec i s = runJob j s := by
  cases i <;> simp only [wordJob, Option.some.injEq, reduceCtorEq] at h <;> (subst h; rfl)

/-- The course of a word whose wave is selected and waits on no arrival word. -/
theorem runJob_eq {j : Job} {s : State} {v : View} (hv : view s.dev = some v) (ha : v.w.arw = none) :
    runJob j s = .next { s with dev := if jobHeld j v then s.dev else issueView j v } := by
  simp only [runJob, onDevice, issue, hv, settleArw, ha]
  by_cases h : jobHeld j v = true <;> simp [h]

/-- A word that issues and whose effect is done leaves what its effect left, and its wave moves on. -/
theorem runJob_done {j : Job} {s : State} {v : View} {ex : Mask} (h : Issues j s v ex) {d : Device} {pos : Pos}
    (ha : j.act v ex = .done d pos) : runJob j s = .next (Issued s v d pos) := by
  have ht : ∀ k, j.tok = some k → v.w.tokPend.getLsbD k.toNat = false ∧ v.w.tokOrph.getLsbD k.toNat = false := h.token
  rw [runJob_eq h.sel h.noWait, h.free]
  simp only [Bool.false_eq_true, if_false, issueView, h.lanes, if_neg h.someLane, h.legal, h.early, ha, Issued]
  cases hk : j.tok with
  | none => simp
  | some k => simp [(ht k hk).1, (ht k hk).2]

/-- A word that issues and settles the die itself. -/
theorem runJob_settled {j : Job} {s : State} {v : View} {ex : Mask} (h : Issues j s v ex) {d : Device}
    (ha : j.act v ex = .settled d) : runJob j s = .next { s with dev := d } := by
  have ht : ∀ k, j.tok = some k → v.w.tokPend.getLsbD k.toNat = false ∧ v.w.tokOrph.getLsbD k.toNat = false := h.token
  rw [runJob_eq h.sel h.noWait, h.free]
  simp only [Bool.false_eq_true, if_false, issueView, h.lanes, if_neg h.someLane, h.legal, h.early, ha]
  cases hk : j.tok with
  | none => simp
  | some k => simp [(ht k hk).1, (ht k hk).2]

/-- A word that issues and whose effect is a trap. -/
theorem runJob_trap {j : Job} {s : State} {v : View} {ex : Mask} (h : Issues j s v ex) {t : Trap}
    (ha : j.act v ex = .trap t) : runJob j s = .next { s with dev := trapHere v j.code t } := by
  have ht : ∀ k, j.tok = some k → v.w.tokPend.getLsbD k.toNat = false ∧ v.w.tokOrph.getLsbD k.toNat = false := h.token
  rw [runJob_eq h.sel h.noWait, h.free]
  simp only [Bool.false_eq_true, if_false, issueView, h.lanes, if_neg h.someLane, h.legal, h.early, ha]
  cases hk : j.tok with
  | none => simp
  | some k => simp [(ht k hk).1, (ht k hk).2]

/-- A word without an executing lane has no effect but to be counted (R385). -/
theorem runJob_empty {j : Job} {s : State} {v : View} (hv : view s.dev = some v) (ha : v.w.arw = none)
    (hf : jobHeld j v = false) (he : j.exec v = 0) : runJob j s = .next (Issued s v v.d .onward) := by
  rw [runJob_eq hv ha, hf]; simp [issueView, he, Issued]

/-- A word that breaks a rule of its encoding or use traps (R386, R395). -/
theorem runJob_illegal {j : Job} {s : State} {v : View} {ex : Mask} (hv : view s.dev = some v) (ha : v.w.arw = none)
    (hf : jobHeld j v = false) (he : j.exec v = ex) (hs : ex ≠ 0) {c : Check}
    (hc : firstBad (sharedChecks j v ++ j.legal v) = some c) :
    runJob j s = .next { s with dev := trapHere v j.code (wordTrap v c.cause ex c.info) } := by
  rw [runJob_eq hv ha, hf]; simp only [Bool.false_eq_true, if_false, issueView, he, if_neg hs, hc]

/-- A word that is held changes nothing (R41). -/
theorem runJob_held {j : Job} {s : State} {v : View} (hv : view s.dev = some v) (ha : v.w.arw = none)
    (hf : jobHeld j v = true) : runJob j s = .next s := by
  rw [runJob_eq hv ha, hf]; simp

/-- A word's wave and everything around the die: a word changes the die alone. -/
theorem runJob_plant {j : Job} {s s' : State} (h : runJob j s = .next s') : s'.plant = s.plant ∧ s'.moves = s.moves := by
  simp only [runJob, onDevice] at h
  split at h
  · cases h; exact ⟨rfl, rfl⟩
  · cases h
  · cases h

/-- The view of the selected wave holds the die itself. -/
theorem view_dev {d : Device} {v : View} (h : view d = some v) : v.d = d := by
  unfold view at h
  split at h
  · unfold viewAt at h
    split at h
    · cases h
    · split at h
      · split at h
        · cases h; rfl
        · cases h
      · cases h
  · cases h

/-- A word that issues and whose effect is done: `exec` leaves what its effect left, and its wave moved on. -/
theorem done_of {i : Instr} {j : Job} (hj : wordJob i = some j) {s : State} {v : View} {ex : Mask} {t : Device} {pos : Pos}
    (h : Runs i s v ex) (ha : j.act v ex = .done t pos) : exec i s = .next (Issued s v t pos) := by
  obtain ⟨j', hj', hi⟩ := h
  rw [hj] at hj'
  cases hj'
  rw [exec_word hj, runJob_done hi ha]

/-- The same for a word after which its wave goes on in its clause. -/
theorem goes_of {i : Instr} {j : Job} (hj : wordJob i = some j) {s : State} {v : View} {ex : Mask} {t : Device}
    (h : Runs i s v ex) (ha : j.act v ex = .done t .onward) : Goes i s v t := done_of hj h ha

/-- A word that issues and settles the die itself. -/
theorem settled_of {i : Instr} {j : Job} (hj : wordJob i = some j) {s : State} {v : View} {ex : Mask} {t : Device}
    (h : Runs i s v ex) (ha : j.act v ex = .settled t) : exec i s = .next { s with dev := t } := by
  obtain ⟨j', hj', hi⟩ := h
  rw [hj] at hj'
  cases hj'
  rw [exec_word hj, runJob_settled hi ha]

/-- The effect of an ALU word whose sources pop no bad entry, where its results land. -/
theorem destEffect_lands {v : View} {once : Bool} {ex : Mask} {d : Operand} {ops : List Operand}
    {res : List (List W32) → Nat → W32 × Flags} {ents : List (List W32)} {t : Device}
    (h : popWalk v ops [] = (ents, none)) (hl : Lands v once ex d ops (res ents) t) :
    destEffect v once ex d none ops res = .done t .onward := by
  unfold destEffect Lands wordFlags at *
  simp only [h]
  cases d <;> simp only at hl ⊢ <;> rw [hl]

/-- Where a word writes no queue, its results can land. -/
theorem lands_some (v : View) (once : Bool) (ex : Mask) {d : Operand} (pops : List Operand) (res : Nat → W32 × Flags)
    (hd : ∀ q, d ≠ .q q) : ∃ t, Lands v once ex d pops res t := by
  unfold Lands
  cases d <;> first | exact absurd rfl (hd _) | exact ⟨_, rfl⟩

/-- The same for a long-latency word. -/
theorem landsLater_some (v : View) (once : Bool) (ex : Mask) {d : Operand} (la : BitVec 4) (pops : List Operand)
    (res : Nat → W32 × Flags) (hd : ∀ q, d ≠ .q q) : ∃ t, LandsLater v once ex d la pops res t := by
  unfold LandsLater
  cases d <;> first | exact absurd rfl (hd _) | exact ⟨_, rfl⟩

/-- A step of another agent changes the die alone. -/
@[simp] theorem runDevice_eq (f : Device → Device) (s : State) : runDevice f s = .next { s with dev := f s.dev } := rfl

end Sys2Proof.Machine
end

