-- ==== Sys2Proof/Laws/Tbl.lean ====
section
/-! SUPPORT. Sparse tables: what is read after a write, and the canonical form of memories. -/

namespace Sys2Proof.Machine

/-- A key reads the value written to it. -/
@[simp] theorem tblFind_tblSet_same {β : Type} (t : Tbl β) (k : Nat) (v : β) : tblFind (tblSet t k v) k = some v := by
  induction t with
  | nil => simp [tblSet, tblFind]
  | cons e t ih =>
    obtain ⟨k', v'⟩ := e
    simp only [tblSet]
    split
    · simp [tblFind]
    · split
      · simp [tblFind]
      · simp [tblFind, *]

/-- A write leaves every other key alone. -/
theorem tblFind_tblSet_ne {β : Type} (t : Tbl β) {k k2 : Nat} (v : β) (h : k2 ≠ k) :
    tblFind (tblSet t k v) k2 = tblFind t k2 := by
  induction t with
  | nil => simp [tblSet, tblFind, h]
  | cons e t ih =>
    obtain ⟨k', v'⟩ := e
    simp only [tblSet]
    split
    · simp [tblFind, h]
    · split
      · subst_vars; simp [tblFind, h]
      · simp [tblFind, ih]

/-- The default-reading form of a table's look-up. -/
theorem tblGet_eq {β : Type} (d : β) (t : Tbl β) (k : Nat) : tblGet d t k = (tblFind t k).getD d := by
  induction t with
  | nil => rfl
  | cons e t ih => obtain ⟨k', v'⟩ := e; simp only [tblGet, tblFind]; split <;> simp [ih]

/-- A key reads the value written to it. -/
@[simp] theorem tblGet_tblSet_same {β : Type} (d : β) (t : Tbl β) (k : Nat) (v : β) : tblGet d (tblSet t k v) k = v := by
  simp [tblGet_eq]

/-- A write leaves every other key alone. -/
theorem tblGet_tblSet_ne {β : Type} (d : β) (t : Tbl β) {k k2 : Nat} (v : β) (h : k2 ≠ k) :
    tblGet d (tblSet t k v) k2 = tblGet d t k2 := by
  simp [tblGet_eq, tblFind_tblSet_ne t v h]

/-- A listed value changed reads as changed. -/
@[simp] theorem tblFind_tblMod_same {β : Type} (t : Tbl β) (k : Nat) (f : β → β) :
    tblFind (tblMod t k f) k = (tblFind t k).map f := by
  induction t with
  | nil => rfl
  | cons e t ih =>
    obtain ⟨k', v'⟩ := e
    simp only [tblMod, tblFind]
    split
    · subst_vars; simp [tblFind]
    · simp [tblFind, *]

/-- A change of one key leaves every other key alone. -/
theorem tblFind_tblMod_ne {β : Type} (t : Tbl β) {k k2 : Nat} (f : β → β) (h : k2 ≠ k) :
    tblFind (tblMod t k f) k2 = tblFind t k2 := by
  induction t with
  | nil => rfl
  | cons e t ih =>
    obtain ⟨k', v'⟩ := e
    simp only [tblMod, tblFind]
    split
    · subst_vars; simp [tblFind, h]
    · simp [tblFind, ih]

/-- A memory in canonical form from a bound is in canonical form from every lower bound. -/
theorem Memory.wfFrom_mono {lo lo' : Nat} {m : Memory} (h : lo' ≤ lo) (w : Memory.wfFrom lo m = true) :
    Memory.wfFrom lo' m = true := by
  cases m with
  | nil => rfl
  | cons e t =>
    obtain ⟨a, v⟩ := e
    simp only [Memory.wfFrom, Bool.and_eq_true, decide_eq_true_eq] at w ⊢
    exact ⟨⟨by omega, w.1.2⟩, w.2⟩

/-- Writing a byte that is not zero keeps the canonical form. -/
theorem tblSet_wfFrom {lo a : Nat} {v : Byte} (hv : v ≠ 0#8) :
    ∀ {m : Memory}, lo ≤ a → Memory.wfFrom lo m = true → Memory.wfFrom lo (tblSet m a v) = true
  | [], h, _ => by simp [tblSet, Memory.wfFrom, h, hv]
  | (a', v') :: t, h, w => by
    simp only [Memory.wfFrom, Bool.and_eq_true, decide_eq_true_eq] at w
    simp only [tblSet]
    split
    · simp only [Memory.wfFrom, Bool.and_eq_true, decide_eq_true_eq]
      exact ⟨⟨h, hv⟩, ⟨by omega, w.1.2⟩, w.2⟩
    · split
      · subst_vars
        simp only [Memory.wfFrom, Bool.and_eq_true, decide_eq_true_eq]
        exact ⟨⟨h, hv⟩, w.2⟩
      · simp only [Memory.wfFrom, Bool.and_eq_true, decide_eq_true_eq]
        exact ⟨w.1, tblSet_wfFrom hv (by omega) w.2⟩

/-- Removing an entry keeps the canonical form. -/
theorem tblErase_wfFrom {lo a : Nat} : ∀ {m : Memory}, Memory.wfFrom lo m = true → Memory.wfFrom lo (tblErase m a) = true
  | [], _ => rfl
  | (a', v') :: t, w => by
    simp only [Memory.wfFrom, Bool.and_eq_true, decide_eq_true_eq] at w
    simp only [tblErase]
    split
    · exact Memory.wfFrom_mono (by omega) w.2
    · simp only [Memory.wfFrom, Bool.and_eq_true, decide_eq_true_eq]
      exact ⟨w.1, tblErase_wfFrom w.2⟩

/-- A byte written keeps the canonical form. -/
theorem memSet_wf {m : Memory} (a : Nat) (v : Byte) (w : Memory.wf m = true) : Memory.wf (memSet m a v) = true := by
  unfold memSet
  split
  · exact tblErase_wfFrom w
  · exact tblSet_wfFrom (by assumption) (Nat.zero_le a) w

/-- Bytes written keep the canonical form. -/
theorem memPut_wf (bs : List Byte) : ∀ {m : Memory} (a : Nat), Memory.wf m = true → Memory.wf (memPut m a bs) = true := by
  induction bs with
  | nil => exact fun _ w => w
  | cons b bs ih => exact fun a w => ih (a + 1) (memSet_wf a b w)

/-- In a canonical memory an address below the bound is not listed. -/
theorem tblFind_of_wfFrom {lo a : Nat} : ∀ {m : Memory}, Memory.wfFrom lo m = true → a < lo → tblFind m a = none
  | [], _, _ => rfl
  | (a', v') :: t, w, h => by
    simp only [Memory.wfFrom, Bool.and_eq_true, decide_eq_true_eq] at w
    simp only [tblFind]
    rw [if_neg (by omega)]
    exact tblFind_of_wfFrom w.2 (by omega)

/-- An erased address of a canonical memory reads as unlisted. -/
theorem tblFind_tblErase_same {lo a : Nat} : ∀ {m : Memory}, Memory.wfFrom lo m = true → tblFind (tblErase m a) a = none
  | [], _ => rfl
  | (a', v') :: t, w => by
    simp only [Memory.wfFrom, Bool.and_eq_true, decide_eq_true_eq] at w
    simp only [tblErase]
    split
    · subst_vars; exact tblFind_of_wfFrom w.2 (Nat.lt_succ_self _)
    · rw [tblFind, if_neg (by assumption)]; exact tblFind_tblErase_same w.2

/-- Erasing an address leaves every other address alone. -/
theorem tblFind_tblErase_ne {β : Type} {k k2 : Nat} (h : k2 ≠ k) : ∀ t : Tbl β, tblFind (tblErase t k) k2 = tblFind t k2
  | [] => rfl
  | (a', v') :: t => by
    simp only [tblErase, tblFind]
    split
    · subst_vars; simp [h]
    · simp [tblFind, tblFind_tblErase_ne h t]

/-- A byte reads as it was written. -/
theorem memGet_memSet_same {m : Memory} (a : Nat) (v : Byte) (w : Memory.wf m = true) : memGet (memSet m a v) a = v := by
  unfold memGet memSet
  split
  · rw [tblGet_eq, tblFind_tblErase_same w]; simp_all
  · simp

/-- A byte written leaves every other byte alone. -/
theorem memGet_memSet_ne (m : Memory) {a b : Nat} (v : Byte) (h : b ≠ a) : memGet (memSet m a v) b = memGet m b := by
  unfold memGet memSet
  split
  · rw [tblGet_eq, tblFind_tblErase_ne h, tblGet_eq]
  · exact tblGet_tblSet_ne _ m v h

/-- A write of bytes leaves every byte outside them alone. -/
theorem memGet_memPut_out (bs : List Byte) : ∀ (m : Memory) (a : Nat) {b : Nat}, b < a ∨ a + bs.length ≤ b →
    memGet (memPut m a bs) b = memGet m b := by
  induction bs with
  | nil => exact fun _ _ _ _ => rfl
  | cons x bs ih =>
    intro m a b h
    simp only [List.length_cons] at h
    rw [memPut, ih (memSet m a x) (a + 1) (by omega), memGet_memSet_ne m x (by omega)]

/-- Bytes read as they were written. -/
theorem memGet_memPut_in (bs : List Byte) : ∀ {m : Memory} (a : Nat), Memory.wf m = true → ∀ {i : Nat}, i < bs.length →
    memGet (memPut m a bs) (a + i) = bs.getD i 0 := by
  induction bs with
  | nil => intro m a _ i h; simp at h
  | cons x bs ih =>
    intro m a w i h
    cases i with
    | zero => rw [memPut, memGet_memPut_out bs _ _ (by omega)]; simpa using memGet_memSet_same a x w
    | succ i =>
      have := ih (m := memSet m a x) (a + 1) (memSet_wf a x w) (i := i) (by simpa using h)
      rw [memPut]; simpa [Nat.add_assoc, Nat.add_comm 1 i] using this

end Sys2Proof.Machine
end

