-- ==== Sys2Proof/Laws/State.lean ====
section
/-! SUPPORT. What each named update of the device leaves alone, field by field, and what reads back after it. -/

namespace Sys2Proof.Machine

variable (d : Device)

/-! ### modCore -/

@[simp] theorem modCore_st (c : Nat) (f : Core → Core) : (modCore d c f).st = d.st := rfl
@[simp] theorem modCore_halls (c : Nat) (f : Core → Core) : (modCore d c f).halls = d.halls := rfl
@[simp] theorem modCore_flights (c : Nat) (f : Core → Core) : (modCore d c f).flights = d.flights := rfl
@[simp] theorem modCore_queues (c : Nat) (f : Core → Core) : (modCore d c f).queues = d.queues := rfl
@[simp] theorem modCore_grids (c : Nat) (f : Core → Core) : (modCore d c f).grids = d.grids := rfl
@[simp] theorem modCore_blocks (c : Nat) (f : Core → Core) : (modCore d c f).blocks = d.blocks := rfl
@[simp] theorem modCore_ctxs (c : Nat) (f : Core → Core) : (modCore d c f).ctxs = d.ctxs := rfl
@[simp] theorem modCore_alcoves (c : Nat) (f : Core → Core) : (modCore d c f).alcoves = d.alcoves := rfl
@[simp] theorem modCore_parking (c : Nat) (f : Core → Core) : (modCore d c f).parking = d.parking := rfl
@[simp] theorem modCore_walks (c : Nat) (f : Core → Core) : (modCore d c f).walks = d.walks := rfl
@[simp] theorem modCore_images (c : Nat) (f : Core → Core) : (modCore d c f).images = d.images := rfl
@[simp] theorem modCore_units (c : Nat) (f : Core → Core) : (modCore d c f).units = d.units := rfl
@[simp] theorem modCore_apcs (c : Nat) (f : Core → Core) : (modCore d c f).apcs = d.apcs := rfl
@[simp] theorem modCore_routes (c : Nat) (f : Core → Core) : (modCore d c f).routes = d.routes := rfl
@[simp] theorem modCore_telemetry (c : Nat) (f : Core → Core) : (modCore d c f).telemetry = d.telemetry := rfl
@[simp] theorem modCore_telCount (c : Nat) (f : Core → Core) : (modCore d c f).telCount = d.telCount := rfl
@[simp] theorem modCore_errlog (c : Nat) (f : Core → Core) : (modCore d c f).errlog = d.errlog := rfl
@[simp] theorem modCore_errCount (c : Nat) (f : Core → Core) : (modCore d c f).errCount = d.errCount := rfl
@[simp] theorem modCore_nhmax (c : Nat) (f : Core → Core) : (modCore d c f).nhmax = d.nhmax := rfl
@[simp] theorem modCore_nhmeas (c : Nat) (f : Core → Core) : (modCore d c f).nhmeas = d.nhmeas := rfl
@[simp] theorem modCore_events (c : Nat) (f : Core → Core) : (modCore d c f).events = d.events := rfl
@[simp] theorem modCore_irqs (c : Nat) (f : Core → Core) : (modCore d c f).irqs = d.irqs := rfl
@[simp] theorem modCore_fcycle (c : Nat) (f : Core → Core) : (modCore d c f).fcycle = d.fcycle := rfl
@[simp] theorem modCore_modno (c : Nat) (f : Core → Core) : (modCore d c f).modno = d.modno := rfl
@[simp] theorem modCore_served (c : Nat) (f : Core → Core) : (modCore d c f).served = d.served := rfl
@[simp] theorem modCore_nextId (c : Nat) (f : Core → Core) : (modCore d c f).nextId = d.nextId := rfl
@[simp] theorem modCore_cur (c : Nat) (f : Core → Core) : (modCore d c f).cur = d.cur := rfl

/-! ### setApc -/

@[simp] theorem setApc_st (c : Nat) (k : ApcCore) : (setApc d c k).st = d.st := rfl
@[simp] theorem setApc_cores (c : Nat) (k : ApcCore) : (setApc d c k).cores = d.cores := rfl
@[simp] theorem setApc_halls (c : Nat) (k : ApcCore) : (setApc d c k).halls = d.halls := rfl
@[simp] theorem setApc_flights (c : Nat) (k : ApcCore) : (setApc d c k).flights = d.flights := rfl
@[simp] theorem setApc_queues (c : Nat) (k : ApcCore) : (setApc d c k).queues = d.queues := rfl
@[simp] theorem setApc_grids (c : Nat) (k : ApcCore) : (setApc d c k).grids = d.grids := rfl
@[simp] theorem setApc_blocks (c : Nat) (k : ApcCore) : (setApc d c k).blocks = d.blocks := rfl
@[simp] theorem setApc_ctxs (c : Nat) (k : ApcCore) : (setApc d c k).ctxs = d.ctxs := rfl
@[simp] theorem setApc_alcoves (c : Nat) (k : ApcCore) : (setApc d c k).alcoves = d.alcoves := rfl
@[simp] theorem setApc_parking (c : Nat) (k : ApcCore) : (setApc d c k).parking = d.parking := rfl
@[simp] theorem setApc_walks (c : Nat) (k : ApcCore) : (setApc d c k).walks = d.walks := rfl
@[simp] theorem setApc_images (c : Nat) (k : ApcCore) : (setApc d c k).images = d.images := rfl
@[simp] theorem setApc_units (c : Nat) (k : ApcCore) : (setApc d c k).units = d.units := rfl
@[simp] theorem setApc_routes (c : Nat) (k : ApcCore) : (setApc d c k).routes = d.routes := rfl
@[simp] theorem setApc_telemetry (c : Nat) (k : ApcCore) : (setApc d c k).telemetry = d.telemetry := rfl
@[simp] theorem setApc_telCount (c : Nat) (k : ApcCore) : (setApc d c k).telCount = d.telCount := rfl
@[simp] theorem setApc_errlog (c : Nat) (k : ApcCore) : (setApc d c k).errlog = d.errlog := rfl
@[simp] theorem setApc_errCount (c : Nat) (k : ApcCore) : (setApc d c k).errCount = d.errCount := rfl
@[simp] theorem setApc_nhmax (c : Nat) (k : ApcCore) : (setApc d c k).nhmax = d.nhmax := rfl
@[simp] theorem setApc_nhmeas (c : Nat) (k : ApcCore) : (setApc d c k).nhmeas = d.nhmeas := rfl
@[simp] theorem setApc_events (c : Nat) (k : ApcCore) : (setApc d c k).events = d.events := rfl
@[simp] theorem setApc_irqs (c : Nat) (k : ApcCore) : (setApc d c k).irqs = d.irqs := rfl
@[simp] theorem setApc_fcycle (c : Nat) (k : ApcCore) : (setApc d c k).fcycle = d.fcycle := rfl
@[simp] theorem setApc_modno (c : Nat) (k : ApcCore) : (setApc d c k).modno = d.modno := rfl
@[simp] theorem setApc_served (c : Nat) (k : ApcCore) : (setApc d c k).served = d.served := rfl
@[simp] theorem setApc_nextId (c : Nat) (k : ApcCore) : (setApc d c k).nextId = d.nextId := rfl
@[simp] theorem setApc_cur (c : Nat) (k : ApcCore) : (setApc d c k).cur = d.cur := rfl

/-! ### modHall -/

@[simp] theorem modHall_st (h : Nat) (f : Hall → Hall) : (modHall d h f).st = d.st := rfl
@[simp] theorem modHall_cores (h : Nat) (f : Hall → Hall) : (modHall d h f).cores = d.cores := rfl
@[simp] theorem modHall_flights (h : Nat) (f : Hall → Hall) : (modHall d h f).flights = d.flights := rfl
@[simp] theorem modHall_queues (h : Nat) (f : Hall → Hall) : (modHall d h f).queues = d.queues := rfl
@[simp] theorem modHall_grids (h : Nat) (f : Hall → Hall) : (modHall d h f).grids = d.grids := rfl
@[simp] theorem modHall_blocks (h : Nat) (f : Hall → Hall) : (modHall d h f).blocks = d.blocks := rfl
@[simp] theorem modHall_ctxs (h : Nat) (f : Hall → Hall) : (modHall d h f).ctxs = d.ctxs := rfl
@[simp] theorem modHall_alcoves (h : Nat) (f : Hall → Hall) : (modHall d h f).alcoves = d.alcoves := rfl
@[simp] theorem modHall_parking (h : Nat) (f : Hall → Hall) : (modHall d h f).parking = d.parking := rfl
@[simp] theorem modHall_walks (h : Nat) (f : Hall → Hall) : (modHall d h f).walks = d.walks := rfl
@[simp] theorem modHall_images (h : Nat) (f : Hall → Hall) : (modHall d h f).images = d.images := rfl
@[simp] theorem modHall_units (h : Nat) (f : Hall → Hall) : (modHall d h f).units = d.units := rfl
@[simp] theorem modHall_apcs (h : Nat) (f : Hall → Hall) : (modHall d h f).apcs = d.apcs := rfl
@[simp] theorem modHall_routes (h : Nat) (f : Hall → Hall) : (modHall d h f).routes = d.routes := rfl
@[simp] theorem modHall_telemetry (h : Nat) (f : Hall → Hall) : (modHall d h f).telemetry = d.telemetry := rfl
@[simp] theorem modHall_telCount (h : Nat) (f : Hall → Hall) : (modHall d h f).telCount = d.telCount := rfl
@[simp] theorem modHall_errlog (h : Nat) (f : Hall → Hall) : (modHall d h f).errlog = d.errlog := rfl
@[simp] theorem modHall_errCount (h : Nat) (f : Hall → Hall) : (modHall d h f).errCount = d.errCount := rfl
@[simp] theorem modHall_nhmax (h : Nat) (f : Hall → Hall) : (modHall d h f).nhmax = d.nhmax := rfl
@[simp] theorem modHall_nhmeas (h : Nat) (f : Hall → Hall) : (modHall d h f).nhmeas = d.nhmeas := rfl
@[simp] theorem modHall_events (h : Nat) (f : Hall → Hall) : (modHall d h f).events = d.events := rfl
@[simp] theorem modHall_irqs (h : Nat) (f : Hall → Hall) : (modHall d h f).irqs = d.irqs := rfl
@[simp] theorem modHall_fcycle (h : Nat) (f : Hall → Hall) : (modHall d h f).fcycle = d.fcycle := rfl
@[simp] theorem modHall_modno (h : Nat) (f : Hall → Hall) : (modHall d h f).modno = d.modno := rfl
@[simp] theorem modHall_served (h : Nat) (f : Hall → Hall) : (modHall d h f).served = d.served := rfl
@[simp] theorem modHall_nextId (h : Nat) (f : Hall → Hall) : (modHall d h f).nextId = d.nextId := rfl
@[simp] theorem modHall_cur (h : Nat) (f : Hall → Hall) : (modHall d h f).cur = d.cur := rfl

/-! ### modWave -/

@[simp] theorem modWave_st (c s : Nat) (f : Wave → Wave) : (modWave d c s f).st = d.st := rfl
@[simp] theorem modWave_halls (c s : Nat) (f : Wave → Wave) : (modWave d c s f).halls = d.halls := rfl
@[simp] theorem modWave_flights (c s : Nat) (f : Wave → Wave) : (modWave d c s f).flights = d.flights := rfl
@[simp] theorem modWave_queues (c s : Nat) (f : Wave → Wave) : (modWave d c s f).queues = d.queues := rfl
@[simp] theorem modWave_grids (c s : Nat) (f : Wave → Wave) : (modWave d c s f).grids = d.grids := rfl
@[simp] theorem modWave_blocks (c s : Nat) (f : Wave → Wave) : (modWave d c s f).blocks = d.blocks := rfl
@[simp] theorem modWave_ctxs (c s : Nat) (f : Wave → Wave) : (modWave d c s f).ctxs = d.ctxs := rfl
@[simp] theorem modWave_alcoves (c s : Nat) (f : Wave → Wave) : (modWave d c s f).alcoves = d.alcoves := rfl
@[simp] theorem modWave_parking (c s : Nat) (f : Wave → Wave) : (modWave d c s f).parking = d.parking := rfl
@[simp] theorem modWave_walks (c s : Nat) (f : Wave → Wave) : (modWave d c s f).walks = d.walks := rfl
@[simp] theorem modWave_images (c s : Nat) (f : Wave → Wave) : (modWave d c s f).images = d.images := rfl
@[simp] theorem modWave_units (c s : Nat) (f : Wave → Wave) : (modWave d c s f).units = d.units := rfl
@[simp] theorem modWave_apcs (c s : Nat) (f : Wave → Wave) : (modWave d c s f).apcs = d.apcs := rfl
@[simp] theorem modWave_routes (c s : Nat) (f : Wave → Wave) : (modWave d c s f).routes = d.routes := rfl
@[simp] theorem modWave_telemetry (c s : Nat) (f : Wave → Wave) : (modWave d c s f).telemetry = d.telemetry := rfl
@[simp] theorem modWave_telCount (c s : Nat) (f : Wave → Wave) : (modWave d c s f).telCount = d.telCount := rfl
@[simp] theorem modWave_errlog (c s : Nat) (f : Wave → Wave) : (modWave d c s f).errlog = d.errlog := rfl
@[simp] theorem modWave_errCount (c s : Nat) (f : Wave → Wave) : (modWave d c s f).errCount = d.errCount := rfl
@[simp] theorem modWave_nhmax (c s : Nat) (f : Wave → Wave) : (modWave d c s f).nhmax = d.nhmax := rfl
@[simp] theorem modWave_nhmeas (c s : Nat) (f : Wave → Wave) : (modWave d c s f).nhmeas = d.nhmeas := rfl
@[simp] theorem modWave_events (c s : Nat) (f : Wave → Wave) : (modWave d c s f).events = d.events := rfl
@[simp] theorem modWave_irqs (c s : Nat) (f : Wave → Wave) : (modWave d c s f).irqs = d.irqs := rfl
@[simp] theorem modWave_fcycle (c s : Nat) (f : Wave → Wave) : (modWave d c s f).fcycle = d.fcycle := rfl
@[simp] theorem modWave_modno (c s : Nat) (f : Wave → Wave) : (modWave d c s f).modno = d.modno := rfl
@[simp] theorem modWave_served (c s : Nat) (f : Wave → Wave) : (modWave d c s f).served = d.served := rfl
@[simp] theorem modWave_nextId (c s : Nat) (f : Wave → Wave) : (modWave d c s f).nextId = d.nextId := rfl
@[simp] theorem modWave_cur (c s : Nat) (f : Wave → Wave) : (modWave d c s f).cur = d.cur := rfl

/-! ### modCtx -/

@[simp] theorem modCtx_st (x : Nat) (f : Ctx → Ctx) : (modCtx d x f).st = d.st := rfl
@[simp] theorem modCtx_cores (x : Nat) (f : Ctx → Ctx) : (modCtx d x f).cores = d.cores := rfl
@[simp] theorem modCtx_halls (x : Nat) (f : Ctx → Ctx) : (modCtx d x f).halls = d.halls := rfl
@[simp] theorem modCtx_flights (x : Nat) (f : Ctx → Ctx) : (modCtx d x f).flights = d.flights := rfl
@[simp] theorem modCtx_queues (x : Nat) (f : Ctx → Ctx) : (modCtx d x f).queues = d.queues := rfl
@[simp] theorem modCtx_grids (x : Nat) (f : Ctx → Ctx) : (modCtx d x f).grids = d.grids := rfl
@[simp] theorem modCtx_blocks (x : Nat) (f : Ctx → Ctx) : (modCtx d x f).blocks = d.blocks := rfl
@[simp] theorem modCtx_alcoves (x : Nat) (f : Ctx → Ctx) : (modCtx d x f).alcoves = d.alcoves := rfl
@[simp] theorem modCtx_parking (x : Nat) (f : Ctx → Ctx) : (modCtx d x f).parking = d.parking := rfl
@[simp] theorem modCtx_walks (x : Nat) (f : Ctx → Ctx) : (modCtx d x f).walks = d.walks := rfl
@[simp] theorem modCtx_images (x : Nat) (f : Ctx → Ctx) : (modCtx d x f).images = d.images := rfl
@[simp] theorem modCtx_units (x : Nat) (f : Ctx → Ctx) : (modCtx d x f).units = d.units := rfl
@[simp] theorem modCtx_apcs (x : Nat) (f : Ctx → Ctx) : (modCtx d x f).apcs = d.apcs := rfl
@[simp] theorem modCtx_routes (x : Nat) (f : Ctx → Ctx) : (modCtx d x f).routes = d.routes := rfl
@[simp] theorem modCtx_telemetry (x : Nat) (f : Ctx → Ctx) : (modCtx d x f).telemetry = d.telemetry := rfl
@[simp] theorem modCtx_telCount (x : Nat) (f : Ctx → Ctx) : (modCtx d x f).telCount = d.telCount := rfl
@[simp] theorem modCtx_errlog (x : Nat) (f : Ctx → Ctx) : (modCtx d x f).errlog = d.errlog := rfl
@[simp] theorem modCtx_errCount (x : Nat) (f : Ctx → Ctx) : (modCtx d x f).errCount = d.errCount := rfl
@[simp] theorem modCtx_nhmax (x : Nat) (f : Ctx → Ctx) : (modCtx d x f).nhmax = d.nhmax := rfl
@[simp] theorem modCtx_nhmeas (x : Nat) (f : Ctx → Ctx) : (modCtx d x f).nhmeas = d.nhmeas := rfl
@[simp] theorem modCtx_events (x : Nat) (f : Ctx → Ctx) : (modCtx d x f).events = d.events := rfl
@[simp] theorem modCtx_irqs (x : Nat) (f : Ctx → Ctx) : (modCtx d x f).irqs = d.irqs := rfl
@[simp] theorem modCtx_fcycle (x : Nat) (f : Ctx → Ctx) : (modCtx d x f).fcycle = d.fcycle := rfl
@[simp] theorem modCtx_modno (x : Nat) (f : Ctx → Ctx) : (modCtx d x f).modno = d.modno := rfl
@[simp] theorem modCtx_served (x : Nat) (f : Ctx → Ctx) : (modCtx d x f).served = d.served := rfl
@[simp] theorem modCtx_nextId (x : Nat) (f : Ctx → Ctx) : (modCtx d x f).nextId = d.nextId := rfl
@[simp] theorem modCtx_cur (x : Nat) (f : Ctx → Ctx) : (modCtx d x f).cur = d.cur := rfl

/-! ### modQueue -/

@[simp] theorem modQueue_st (q : Nat) (f : LaunchQueue → LaunchQueue) : (modQueue d q f).st = d.st := rfl
@[simp] theorem modQueue_cores (q : Nat) (f : LaunchQueue → LaunchQueue) : (modQueue d q f).cores = d.cores := rfl
@[simp] theorem modQueue_halls (q : Nat) (f : LaunchQueue → LaunchQueue) : (modQueue d q f).halls = d.halls := rfl
@[simp] theorem modQueue_flights (q : Nat) (f : LaunchQueue → LaunchQueue) : (modQueue d q f).flights = d.flights := rfl
@[simp] theorem modQueue_grids (q : Nat) (f : LaunchQueue → LaunchQueue) : (modQueue d q f).grids = d.grids := rfl
@[simp] theorem modQueue_blocks (q : Nat) (f : LaunchQueue → LaunchQueue) : (modQueue d q f).blocks = d.blocks := rfl
@[simp] theorem modQueue_ctxs (q : Nat) (f : LaunchQueue → LaunchQueue) : (modQueue d q f).ctxs = d.ctxs := rfl
@[simp] theorem modQueue_alcoves (q : Nat) (f : LaunchQueue → LaunchQueue) : (modQueue d q f).alcoves = d.alcoves := rfl
@[simp] theorem modQueue_parking (q : Nat) (f : LaunchQueue → LaunchQueue) : (modQueue d q f).parking = d.parking := rfl
@[simp] theorem modQueue_walks (q : Nat) (f : LaunchQueue → LaunchQueue) : (modQueue d q f).walks = d.walks := rfl
@[simp] theorem modQueue_images (q : Nat) (f : LaunchQueue → LaunchQueue) : (modQueue d q f).images = d.images := rfl
@[simp] theorem modQueue_units (q : Nat) (f : LaunchQueue → LaunchQueue) : (modQueue d q f).units = d.units := rfl
@[simp] theorem modQueue_apcs (q : Nat) (f : LaunchQueue → LaunchQueue) : (modQueue d q f).apcs = d.apcs := rfl
@[simp] theorem modQueue_routes (q : Nat) (f : LaunchQueue → LaunchQueue) : (modQueue d q f).routes = d.routes := rfl
@[simp] theorem modQueue_telemetry (q : Nat) (f : LaunchQueue → LaunchQueue) : (modQueue d q f).telemetry = d.telemetry := rfl
@[simp] theorem modQueue_telCount (q : Nat) (f : LaunchQueue → LaunchQueue) : (modQueue d q f).telCount = d.telCount := rfl
@[simp] theorem modQueue_errlog (q : Nat) (f : LaunchQueue → LaunchQueue) : (modQueue d q f).errlog = d.errlog := rfl
@[simp] theorem modQueue_errCount (q : Nat) (f : LaunchQueue → LaunchQueue) : (modQueue d q f).errCount = d.errCount := rfl
@[simp] theorem modQueue_nhmax (q : Nat) (f : LaunchQueue → LaunchQueue) : (modQueue d q f).nhmax = d.nhmax := rfl
@[simp] theorem modQueue_nhmeas (q : Nat) (f : LaunchQueue → LaunchQueue) : (modQueue d q f).nhmeas = d.nhmeas := rfl
@[simp] theorem modQueue_events (q : Nat) (f : LaunchQueue → LaunchQueue) : (modQueue d q f).events = d.events := rfl
@[simp] theorem modQueue_irqs (q : Nat) (f : LaunchQueue → LaunchQueue) : (modQueue d q f).irqs = d.irqs := rfl
@[simp] theorem modQueue_fcycle (q : Nat) (f : LaunchQueue → LaunchQueue) : (modQueue d q f).fcycle = d.fcycle := rfl
@[simp] theorem modQueue_modno (q : Nat) (f : LaunchQueue → LaunchQueue) : (modQueue d q f).modno = d.modno := rfl
@[simp] theorem modQueue_served (q : Nat) (f : LaunchQueue → LaunchQueue) : (modQueue d q f).served = d.served := rfl
@[simp] theorem modQueue_nextId (q : Nat) (f : LaunchQueue → LaunchQueue) : (modQueue d q f).nextId = d.nextId := rfl
@[simp] theorem modQueue_cur (q : Nat) (f : LaunchQueue → LaunchQueue) : (modQueue d q f).cur = d.cur := rfl

/-! ### modBlock -/

@[simp] theorem modBlock_st (b : Nat) (f : Block → Block) : (modBlock d b f).st = d.st := rfl
@[simp] theorem modBlock_cores (b : Nat) (f : Block → Block) : (modBlock d b f).cores = d.cores := rfl
@[simp] theorem modBlock_halls (b : Nat) (f : Block → Block) : (modBlock d b f).halls = d.halls := rfl
@[simp] theorem modBlock_flights (b : Nat) (f : Block → Block) : (modBlock d b f).flights = d.flights := rfl
@[simp] theorem modBlock_queues (b : Nat) (f : Block → Block) : (modBlock d b f).queues = d.queues := rfl
@[simp] theorem modBlock_grids (b : Nat) (f : Block → Block) : (modBlock d b f).grids = d.grids := rfl
@[simp] theorem modBlock_ctxs (b : Nat) (f : Block → Block) : (modBlock d b f).ctxs = d.ctxs := rfl
@[simp] theorem modBlock_alcoves (b : Nat) (f : Block → Block) : (modBlock d b f).alcoves = d.alcoves := rfl
@[simp] theorem modBlock_parking (b : Nat) (f : Block → Block) : (modBlock d b f).parking = d.parking := rfl
@[simp] theorem modBlock_walks (b : Nat) (f : Block → Block) : (modBlock d b f).walks = d.walks := rfl
@[simp] theorem modBlock_images (b : Nat) (f : Block → Block) : (modBlock d b f).images = d.images := rfl
@[simp] theorem modBlock_units (b : Nat) (f : Block → Block) : (modBlock d b f).units = d.units := rfl
@[simp] theorem modBlock_apcs (b : Nat) (f : Block → Block) : (modBlock d b f).apcs = d.apcs := rfl
@[simp] theorem modBlock_routes (b : Nat) (f : Block → Block) : (modBlock d b f).routes = d.routes := rfl
@[simp] theorem modBlock_telemetry (b : Nat) (f : Block → Block) : (modBlock d b f).telemetry = d.telemetry := rfl
@[simp] theorem modBlock_telCount (b : Nat) (f : Block → Block) : (modBlock d b f).telCount = d.telCount := rfl
@[simp] theorem modBlock_errlog (b : Nat) (f : Block → Block) : (modBlock d b f).errlog = d.errlog := rfl
@[simp] theorem modBlock_errCount (b : Nat) (f : Block → Block) : (modBlock d b f).errCount = d.errCount := rfl
@[simp] theorem modBlock_nhmax (b : Nat) (f : Block → Block) : (modBlock d b f).nhmax = d.nhmax := rfl
@[simp] theorem modBlock_nhmeas (b : Nat) (f : Block → Block) : (modBlock d b f).nhmeas = d.nhmeas := rfl
@[simp] theorem modBlock_events (b : Nat) (f : Block → Block) : (modBlock d b f).events = d.events := rfl
@[simp] theorem modBlock_irqs (b : Nat) (f : Block → Block) : (modBlock d b f).irqs = d.irqs := rfl
@[simp] theorem modBlock_fcycle (b : Nat) (f : Block → Block) : (modBlock d b f).fcycle = d.fcycle := rfl
@[simp] theorem modBlock_modno (b : Nat) (f : Block → Block) : (modBlock d b f).modno = d.modno := rfl
@[simp] theorem modBlock_served (b : Nat) (f : Block → Block) : (modBlock d b f).served = d.served := rfl
@[simp] theorem modBlock_nextId (b : Nat) (f : Block → Block) : (modBlock d b f).nextId = d.nextId := rfl
@[simp] theorem modBlock_cur (b : Nat) (f : Block → Block) : (modBlock d b f).cur = d.cur := rfl

/-! ### modGrid -/

@[simp] theorem modGrid_st (g : Nat) (f : Grid → Grid) : (modGrid d g f).st = d.st := rfl
@[simp] theorem modGrid_cores (g : Nat) (f : Grid → Grid) : (modGrid d g f).cores = d.cores := rfl
@[simp] theorem modGrid_halls (g : Nat) (f : Grid → Grid) : (modGrid d g f).halls = d.halls := rfl
@[simp] theorem modGrid_flights (g : Nat) (f : Grid → Grid) : (modGrid d g f).flights = d.flights := rfl
@[simp] theorem modGrid_queues (g : Nat) (f : Grid → Grid) : (modGrid d g f).queues = d.queues := rfl
@[simp] theorem modGrid_blocks (g : Nat) (f : Grid → Grid) : (modGrid d g f).blocks = d.blocks := rfl
@[simp] theorem modGrid_ctxs (g : Nat) (f : Grid → Grid) : (modGrid d g f).ctxs = d.ctxs := rfl
@[simp] theorem modGrid_alcoves (g : Nat) (f : Grid → Grid) : (modGrid d g f).alcoves = d.alcoves := rfl
@[simp] theorem modGrid_parking (g : Nat) (f : Grid → Grid) : (modGrid d g f).parking = d.parking := rfl
@[simp] theorem modGrid_walks (g : Nat) (f : Grid → Grid) : (modGrid d g f).walks = d.walks := rfl
@[simp] theorem modGrid_images (g : Nat) (f : Grid → Grid) : (modGrid d g f).images = d.images := rfl
@[simp] theorem modGrid_units (g : Nat) (f : Grid → Grid) : (modGrid d g f).units = d.units := rfl
@[simp] theorem modGrid_apcs (g : Nat) (f : Grid → Grid) : (modGrid d g f).apcs = d.apcs := rfl
@[simp] theorem modGrid_routes (g : Nat) (f : Grid → Grid) : (modGrid d g f).routes = d.routes := rfl
@[simp] theorem modGrid_telemetry (g : Nat) (f : Grid → Grid) : (modGrid d g f).telemetry = d.telemetry := rfl
@[simp] theorem modGrid_telCount (g : Nat) (f : Grid → Grid) : (modGrid d g f).telCount = d.telCount := rfl
@[simp] theorem modGrid_errlog (g : Nat) (f : Grid → Grid) : (modGrid d g f).errlog = d.errlog := rfl
@[simp] theorem modGrid_errCount (g : Nat) (f : Grid → Grid) : (modGrid d g f).errCount = d.errCount := rfl
@[simp] theorem modGrid_nhmax (g : Nat) (f : Grid → Grid) : (modGrid d g f).nhmax = d.nhmax := rfl
@[simp] theorem modGrid_nhmeas (g : Nat) (f : Grid → Grid) : (modGrid d g f).nhmeas = d.nhmeas := rfl
@[simp] theorem modGrid_events (g : Nat) (f : Grid → Grid) : (modGrid d g f).events = d.events := rfl
@[simp] theorem modGrid_irqs (g : Nat) (f : Grid → Grid) : (modGrid d g f).irqs = d.irqs := rfl
@[simp] theorem modGrid_fcycle (g : Nat) (f : Grid → Grid) : (modGrid d g f).fcycle = d.fcycle := rfl
@[simp] theorem modGrid_modno (g : Nat) (f : Grid → Grid) : (modGrid d g f).modno = d.modno := rfl
@[simp] theorem modGrid_served (g : Nat) (f : Grid → Grid) : (modGrid d g f).served = d.served := rfl
@[simp] theorem modGrid_nextId (g : Nat) (f : Grid → Grid) : (modGrid d g f).nextId = d.nextId := rfl
@[simp] theorem modGrid_cur (g : Nat) (f : Grid → Grid) : (modGrid d g f).cur = d.cur := rfl

/-! ### modApq -/

@[simp] theorem modApq_st (c j : Nat) (f : ApQueue → ApQueue) : (modApq d c j f).st = d.st := rfl
@[simp] theorem modApq_halls (c j : Nat) (f : ApQueue → ApQueue) : (modApq d c j f).halls = d.halls := rfl
@[simp] theorem modApq_flights (c j : Nat) (f : ApQueue → ApQueue) : (modApq d c j f).flights = d.flights := rfl
@[simp] theorem modApq_queues (c j : Nat) (f : ApQueue → ApQueue) : (modApq d c j f).queues = d.queues := rfl
@[simp] theorem modApq_grids (c j : Nat) (f : ApQueue → ApQueue) : (modApq d c j f).grids = d.grids := rfl
@[simp] theorem modApq_blocks (c j : Nat) (f : ApQueue → ApQueue) : (modApq d c j f).blocks = d.blocks := rfl
@[simp] theorem modApq_ctxs (c j : Nat) (f : ApQueue → ApQueue) : (modApq d c j f).ctxs = d.ctxs := rfl
@[simp] theorem modApq_alcoves (c j : Nat) (f : ApQueue → ApQueue) : (modApq d c j f).alcoves = d.alcoves := rfl
@[simp] theorem modApq_parking (c j : Nat) (f : ApQueue → ApQueue) : (modApq d c j f).parking = d.parking := rfl
@[simp] theorem modApq_walks (c j : Nat) (f : ApQueue → ApQueue) : (modApq d c j f).walks = d.walks := rfl
@[simp] theorem modApq_images (c j : Nat) (f : ApQueue → ApQueue) : (modApq d c j f).images = d.images := rfl
@[simp] theorem modApq_units (c j : Nat) (f : ApQueue → ApQueue) : (modApq d c j f).units = d.units := rfl
@[simp] theorem modApq_apcs (c j : Nat) (f : ApQueue → ApQueue) : (modApq d c j f).apcs = d.apcs := rfl
@[simp] theorem modApq_routes (c j : Nat) (f : ApQueue → ApQueue) : (modApq d c j f).routes = d.routes := rfl
@[simp] theorem modApq_telemetry (c j : Nat) (f : ApQueue → ApQueue) : (modApq d c j f).telemetry = d.telemetry := rfl
@[simp] theorem modApq_telCount (c j : Nat) (f : ApQueue → ApQueue) : (modApq d c j f).telCount = d.telCount := rfl
@[simp] theorem modApq_errlog (c j : Nat) (f : ApQueue → ApQueue) : (modApq d c j f).errlog = d.errlog := rfl
@[simp] theorem modApq_errCount (c j : Nat) (f : ApQueue → ApQueue) : (modApq d c j f).errCount = d.errCount := rfl
@[simp] theorem modApq_nhmax (c j : Nat) (f : ApQueue → ApQueue) : (modApq d c j f).nhmax = d.nhmax := rfl
@[simp] theorem modApq_nhmeas (c j : Nat) (f : ApQueue → ApQueue) : (modApq d c j f).nhmeas = d.nhmeas := rfl
@[simp] theorem modApq_events (c j : Nat) (f : ApQueue → ApQueue) : (modApq d c j f).events = d.events := rfl
@[simp] theorem modApq_irqs (c j : Nat) (f : ApQueue → ApQueue) : (modApq d c j f).irqs = d.irqs := rfl
@[simp] theorem modApq_fcycle (c j : Nat) (f : ApQueue → ApQueue) : (modApq d c j f).fcycle = d.fcycle := rfl
@[simp] theorem modApq_modno (c j : Nat) (f : ApQueue → ApQueue) : (modApq d c j f).modno = d.modno := rfl
@[simp] theorem modApq_served (c j : Nat) (f : ApQueue → ApQueue) : (modApq d c j f).served = d.served := rfl
@[simp] theorem modApq_nextId (c j : Nat) (f : ApQueue → ApQueue) : (modApq d c j f).nextId = d.nextId := rfl
@[simp] theorem modApq_cur (c j : Nat) (f : ApQueue → ApQueue) : (modApq d c j f).cur = d.cur := rfl

/-! ### modAlc -/

@[simp] theorem modAlc_st (i : Nat) (f : Alcove → Alcove) : (modAlc d i f).st = d.st := rfl
@[simp] theorem modAlc_cores (i : Nat) (f : Alcove → Alcove) : (modAlc d i f).cores = d.cores := rfl
@[simp] theorem modAlc_halls (i : Nat) (f : Alcove → Alcove) : (modAlc d i f).halls = d.halls := rfl
@[simp] theorem modAlc_flights (i : Nat) (f : Alcove → Alcove) : (modAlc d i f).flights = d.flights := rfl
@[simp] theorem modAlc_queues (i : Nat) (f : Alcove → Alcove) : (modAlc d i f).queues = d.queues := rfl
@[simp] theorem modAlc_grids (i : Nat) (f : Alcove → Alcove) : (modAlc d i f).grids = d.grids := rfl
@[simp] theorem modAlc_blocks (i : Nat) (f : Alcove → Alcove) : (modAlc d i f).blocks = d.blocks := rfl
@[simp] theorem modAlc_ctxs (i : Nat) (f : Alcove → Alcove) : (modAlc d i f).ctxs = d.ctxs := rfl
@[simp] theorem modAlc_parking (i : Nat) (f : Alcove → Alcove) : (modAlc d i f).parking = d.parking := rfl
@[simp] theorem modAlc_walks (i : Nat) (f : Alcove → Alcove) : (modAlc d i f).walks = d.walks := rfl
@[simp] theorem modAlc_images (i : Nat) (f : Alcove → Alcove) : (modAlc d i f).images = d.images := rfl
@[simp] theorem modAlc_units (i : Nat) (f : Alcove → Alcove) : (modAlc d i f).units = d.units := rfl
@[simp] theorem modAlc_apcs (i : Nat) (f : Alcove → Alcove) : (modAlc d i f).apcs = d.apcs := rfl
@[simp] theorem modAlc_routes (i : Nat) (f : Alcove → Alcove) : (modAlc d i f).routes = d.routes := rfl
@[simp] theorem modAlc_telemetry (i : Nat) (f : Alcove → Alcove) : (modAlc d i f).telemetry = d.telemetry := rfl
@[simp] theorem modAlc_telCount (i : Nat) (f : Alcove → Alcove) : (modAlc d i f).telCount = d.telCount := rfl
@[simp] theorem modAlc_errlog (i : Nat) (f : Alcove → Alcove) : (modAlc d i f).errlog = d.errlog := rfl
@[simp] theorem modAlc_errCount (i : Nat) (f : Alcove → Alcove) : (modAlc d i f).errCount = d.errCount := rfl
@[simp] theorem modAlc_nhmax (i : Nat) (f : Alcove → Alcove) : (modAlc d i f).nhmax = d.nhmax := rfl
@[simp] theorem modAlc_nhmeas (i : Nat) (f : Alcove → Alcove) : (modAlc d i f).nhmeas = d.nhmeas := rfl
@[simp] theorem modAlc_events (i : Nat) (f : Alcove → Alcove) : (modAlc d i f).events = d.events := rfl
@[simp] theorem modAlc_irqs (i : Nat) (f : Alcove → Alcove) : (modAlc d i f).irqs = d.irqs := rfl
@[simp] theorem modAlc_fcycle (i : Nat) (f : Alcove → Alcove) : (modAlc d i f).fcycle = d.fcycle := rfl
@[simp] theorem modAlc_modno (i : Nat) (f : Alcove → Alcove) : (modAlc d i f).modno = d.modno := rfl
@[simp] theorem modAlc_served (i : Nat) (f : Alcove → Alcove) : (modAlc d i f).served = d.served := rfl
@[simp] theorem modAlc_nextId (i : Nat) (f : Alcove → Alcove) : (modAlc d i f).nextId = d.nextId := rfl
@[simp] theorem modAlc_cur (i : Nat) (f : Alcove → Alcove) : (modAlc d i f).cur = d.cur := rfl

/-! ### emit -/

@[simp] theorem emit_st (src : Source) (e : EventKind) : (emit d src e).st = d.st := rfl
@[simp] theorem emit_cores (src : Source) (e : EventKind) : (emit d src e).cores = d.cores := rfl
@[simp] theorem emit_halls (src : Source) (e : EventKind) : (emit d src e).halls = d.halls := rfl
@[simp] theorem emit_flights (src : Source) (e : EventKind) : (emit d src e).flights = d.flights := rfl
@[simp] theorem emit_queues (src : Source) (e : EventKind) : (emit d src e).queues = d.queues := rfl
@[simp] theorem emit_grids (src : Source) (e : EventKind) : (emit d src e).grids = d.grids := rfl
@[simp] theorem emit_blocks (src : Source) (e : EventKind) : (emit d src e).blocks = d.blocks := rfl
@[simp] theorem emit_ctxs (src : Source) (e : EventKind) : (emit d src e).ctxs = d.ctxs := rfl
@[simp] theorem emit_alcoves (src : Source) (e : EventKind) : (emit d src e).alcoves = d.alcoves := rfl
@[simp] theorem emit_parking (src : Source) (e : EventKind) : (emit d src e).parking = d.parking := rfl
@[simp] theorem emit_walks (src : Source) (e : EventKind) : (emit d src e).walks = d.walks := rfl
@[simp] theorem emit_images (src : Source) (e : EventKind) : (emit d src e).images = d.images := rfl
@[simp] theorem emit_units (src : Source) (e : EventKind) : (emit d src e).units = d.units := rfl
@[simp] theorem emit_apcs (src : Source) (e : EventKind) : (emit d src e).apcs = d.apcs := rfl
@[simp] theorem emit_routes (src : Source) (e : EventKind) : (emit d src e).routes = d.routes := rfl
@[simp] theorem emit_telemetry (src : Source) (e : EventKind) : (emit d src e).telemetry = d.telemetry := rfl
@[simp] theorem emit_telCount (src : Source) (e : EventKind) : (emit d src e).telCount = d.telCount := rfl
@[simp] theorem emit_errlog (src : Source) (e : EventKind) : (emit d src e).errlog = d.errlog := rfl
@[simp] theorem emit_errCount (src : Source) (e : EventKind) : (emit d src e).errCount = d.errCount := rfl
@[simp] theorem emit_nhmax (src : Source) (e : EventKind) : (emit d src e).nhmax = d.nhmax := rfl
@[simp] theorem emit_nhmeas (src : Source) (e : EventKind) : (emit d src e).nhmeas = d.nhmeas := rfl
@[simp] theorem emit_irqs (src : Source) (e : EventKind) : (emit d src e).irqs = d.irqs := rfl
@[simp] theorem emit_fcycle (src : Source) (e : EventKind) : (emit d src e).fcycle = d.fcycle := rfl
@[simp] theorem emit_modno (src : Source) (e : EventKind) : (emit d src e).modno = d.modno := rfl
@[simp] theorem emit_served (src : Source) (e : EventKind) : (emit d src e).served = d.served := rfl
@[simp] theorem emit_nextId (src : Source) (e : EventKind) : (emit d src e).nextId = d.nextId := rfl
@[simp] theorem emit_cur (src : Source) (e : EventKind) : (emit d src e).cur = d.cur := rfl

/-! ### raiseIrq -/

@[simp] theorem raiseIrq_st (n : Nat) : (raiseIrq d n).st = d.st := rfl
@[simp] theorem raiseIrq_cores (n : Nat) : (raiseIrq d n).cores = d.cores := rfl
@[simp] theorem raiseIrq_halls (n : Nat) : (raiseIrq d n).halls = d.halls := rfl
@[simp] theorem raiseIrq_flights (n : Nat) : (raiseIrq d n).flights = d.flights := rfl
@[simp] theorem raiseIrq_queues (n : Nat) : (raiseIrq d n).queues = d.queues := rfl
@[simp] theorem raiseIrq_grids (n : Nat) : (raiseIrq d n).grids = d.grids := rfl
@[simp] theorem raiseIrq_blocks (n : Nat) : (raiseIrq d n).blocks = d.blocks := rfl
@[simp] theorem raiseIrq_ctxs (n : Nat) : (raiseIrq d n).ctxs = d.ctxs := rfl
@[simp] theorem raiseIrq_alcoves (n : Nat) : (raiseIrq d n).alcoves = d.alcoves := rfl
@[simp] theorem raiseIrq_parking (n : Nat) : (raiseIrq d n).parking = d.parking := rfl
@[simp] theorem raiseIrq_walks (n : Nat) : (raiseIrq d n).walks = d.walks := rfl
@[simp] theorem raiseIrq_images (n : Nat) : (raiseIrq d n).images = d.images := rfl
@[simp] theorem raiseIrq_units (n : Nat) : (raiseIrq d n).units = d.units := rfl
@[simp] theorem raiseIrq_apcs (n : Nat) : (raiseIrq d n).apcs = d.apcs := rfl
@[simp] theorem raiseIrq_routes (n : Nat) : (raiseIrq d n).routes = d.routes := rfl
@[simp] theorem raiseIrq_telemetry (n : Nat) : (raiseIrq d n).telemetry = d.telemetry := rfl
@[simp] theorem raiseIrq_telCount (n : Nat) : (raiseIrq d n).telCount = d.telCount := rfl
@[simp] theorem raiseIrq_errlog (n : Nat) : (raiseIrq d n).errlog = d.errlog := rfl
@[simp] theorem raiseIrq_errCount (n : Nat) : (raiseIrq d n).errCount = d.errCount := rfl
@[simp] theorem raiseIrq_nhmax (n : Nat) : (raiseIrq d n).nhmax = d.nhmax := rfl
@[simp] theorem raiseIrq_nhmeas (n : Nat) : (raiseIrq d n).nhmeas = d.nhmeas := rfl
@[simp] theorem raiseIrq_events (n : Nat) : (raiseIrq d n).events = d.events := rfl
@[simp] theorem raiseIrq_fcycle (n : Nat) : (raiseIrq d n).fcycle = d.fcycle := rfl
@[simp] theorem raiseIrq_modno (n : Nat) : (raiseIrq d n).modno = d.modno := rfl
@[simp] theorem raiseIrq_served (n : Nat) : (raiseIrq d n).served = d.served := rfl
@[simp] theorem raiseIrq_nextId (n : Nat) : (raiseIrq d n).nextId = d.nextId := rfl
@[simp] theorem raiseIrq_cur (n : Nat) : (raiseIrq d n).cur = d.cur := rfl

/-! ### rfSet -/

@[simp] theorem rfSet_cores (c k : Nat) (x : W32) : (rfSet d c k x).cores = d.cores := rfl
@[simp] theorem rfSet_halls (c k : Nat) (x : W32) : (rfSet d c k x).halls = d.halls := rfl
@[simp] theorem rfSet_flights (c k : Nat) (x : W32) : (rfSet d c k x).flights = d.flights := rfl
@[simp] theorem rfSet_queues (c k : Nat) (x : W32) : (rfSet d c k x).queues = d.queues := rfl
@[simp] theorem rfSet_grids (c k : Nat) (x : W32) : (rfSet d c k x).grids = d.grids := rfl
@[simp] theorem rfSet_blocks (c k : Nat) (x : W32) : (rfSet d c k x).blocks = d.blocks := rfl
@[simp] theorem rfSet_ctxs (c k : Nat) (x : W32) : (rfSet d c k x).ctxs = d.ctxs := rfl
@[simp] theorem rfSet_alcoves (c k : Nat) (x : W32) : (rfSet d c k x).alcoves = d.alcoves := rfl
@[simp] theorem rfSet_parking (c k : Nat) (x : W32) : (rfSet d c k x).parking = d.parking := rfl
@[simp] theorem rfSet_walks (c k : Nat) (x : W32) : (rfSet d c k x).walks = d.walks := rfl
@[simp] theorem rfSet_images (c k : Nat) (x : W32) : (rfSet d c k x).images = d.images := rfl
@[simp] theorem rfSet_units (c k : Nat) (x : W32) : (rfSet d c k x).units = d.units := rfl
@[simp] theorem rfSet_apcs (c k : Nat) (x : W32) : (rfSet d c k x).apcs = d.apcs := rfl
@[simp] theorem rfSet_routes (c k : Nat) (x : W32) : (rfSet d c k x).routes = d.routes := rfl
@[simp] theorem rfSet_telemetry (c k : Nat) (x : W32) : (rfSet d c k x).telemetry = d.telemetry := rfl
@[simp] theorem rfSet_telCount (c k : Nat) (x : W32) : (rfSet d c k x).telCount = d.telCount := rfl
@[simp] theorem rfSet_errlog (c k : Nat) (x : W32) : (rfSet d c k x).errlog = d.errlog := rfl
@[simp] theorem rfSet_errCount (c k : Nat) (x : W32) : (rfSet d c k x).errCount = d.errCount := rfl
@[simp] theorem rfSet_nhmax (c k : Nat) (x : W32) : (rfSet d c k x).nhmax = d.nhmax := rfl
@[simp] theorem rfSet_nhmeas (c k : Nat) (x : W32) : (rfSet d c k x).nhmeas = d.nhmeas := rfl
@[simp] theorem rfSet_events (c k : Nat) (x : W32) : (rfSet d c k x).events = d.events := rfl
@[simp] theorem rfSet_irqs (c k : Nat) (x : W32) : (rfSet d c k x).irqs = d.irqs := rfl
@[simp] theorem rfSet_fcycle (c k : Nat) (x : W32) : (rfSet d c k x).fcycle = d.fcycle := rfl
@[simp] theorem rfSet_modno (c k : Nat) (x : W32) : (rfSet d c k x).modno = d.modno := rfl
@[simp] theorem rfSet_served (c k : Nat) (x : W32) : (rfSet d c k x).served = d.served := rfl
@[simp] theorem rfSet_nextId (c k : Nat) (x : W32) : (rfSet d c k x).nextId = d.nextId := rfl
@[simp] theorem rfSet_cur (c k : Nat) (x : W32) : (rfSet d c k x).cur = d.cur := rfl
@[simp] theorem rfSet_st_mem (c k : Nat) (x : W32) : (rfSet d c k x).st.mem = d.st.mem := rfl
@[simp] theorem rfSet_st_spad (c k : Nat) (x : W32) : (rfSet d c k x).st.spad = d.st.spad := rfl
@[simp] theorem rfSet_st_acc (c k : Nat) (x : W32) : (rfSet d c k x).st.acc = d.st.acc := rfl
@[simp] theorem rfSet_st_md (c k : Nat) (x : W32) : (rfSet d c k x).st.md = d.st.md := rfl
@[simp] theorem rfSet_st_l2 (c k : Nat) (x : W32) : (rfSet d c k x).st.l2 = d.st.l2 := rfl
@[simp] theorem rfSet_st_back (c k : Nat) (x : W32) : (rfSet d c k x).st.back = d.st.back := rfl
@[simp] theorem rfSet_st_poison (c k : Nat) (x : W32) : (rfSet d c k x).st.poison = d.st.poison := rfl

/-! ### l2Put -/

@[simp] theorem l2Put_cores (k : Nat) (l : L2Line) : (l2Put d k l).cores = d.cores := rfl
@[simp] theorem l2Put_halls (k : Nat) (l : L2Line) : (l2Put d k l).halls = d.halls := rfl
@[simp] theorem l2Put_flights (k : Nat) (l : L2Line) : (l2Put d k l).flights = d.flights := rfl
@[simp] theorem l2Put_queues (k : Nat) (l : L2Line) : (l2Put d k l).queues = d.queues := rfl
@[simp] theorem l2Put_grids (k : Nat) (l : L2Line) : (l2Put d k l).grids = d.grids := rfl
@[simp] theorem l2Put_blocks (k : Nat) (l : L2Line) : (l2Put d k l).blocks = d.blocks := rfl
@[simp] theorem l2Put_ctxs (k : Nat) (l : L2Line) : (l2Put d k l).ctxs = d.ctxs := rfl
@[simp] theorem l2Put_alcoves (k : Nat) (l : L2Line) : (l2Put d k l).alcoves = d.alcoves := rfl
@[simp] theorem l2Put_parking (k : Nat) (l : L2Line) : (l2Put d k l).parking = d.parking := rfl
@[simp] theorem l2Put_walks (k : Nat) (l : L2Line) : (l2Put d k l).walks = d.walks := rfl
@[simp] theorem l2Put_images (k : Nat) (l : L2Line) : (l2Put d k l).images = d.images := rfl
@[simp] theorem l2Put_units (k : Nat) (l : L2Line) : (l2Put d k l).units = d.units := rfl
@[simp] theorem l2Put_apcs (k : Nat) (l : L2Line) : (l2Put d k l).apcs = d.apcs := rfl
@[simp] theorem l2Put_routes (k : Nat) (l : L2Line) : (l2Put d k l).routes = d.routes := rfl
@[simp] theorem l2Put_telemetry (k : Nat) (l : L2Line) : (l2Put d k l).telemetry = d.telemetry := rfl
@[simp] theorem l2Put_telCount (k : Nat) (l : L2Line) : (l2Put d k l).telCount = d.telCount := rfl
@[simp] theorem l2Put_errlog (k : Nat) (l : L2Line) : (l2Put d k l).errlog = d.errlog := rfl
@[simp] theorem l2Put_errCount (k : Nat) (l : L2Line) : (l2Put d k l).errCount = d.errCount := rfl
@[simp] theorem l2Put_nhmax (k : Nat) (l : L2Line) : (l2Put d k l).nhmax = d.nhmax := rfl
@[simp] theorem l2Put_nhmeas (k : Nat) (l : L2Line) : (l2Put d k l).nhmeas = d.nhmeas := rfl
@[simp] theorem l2Put_events (k : Nat) (l : L2Line) : (l2Put d k l).events = d.events := rfl
@[simp] theorem l2Put_irqs (k : Nat) (l : L2Line) : (l2Put d k l).irqs = d.irqs := rfl
@[simp] theorem l2Put_fcycle (k : Nat) (l : L2Line) : (l2Put d k l).fcycle = d.fcycle := rfl
@[simp] theorem l2Put_modno (k : Nat) (l : L2Line) : (l2Put d k l).modno = d.modno := rfl
@[simp] theorem l2Put_served (k : Nat) (l : L2Line) : (l2Put d k l).served = d.served := rfl
@[simp] theorem l2Put_nextId (k : Nat) (l : L2Line) : (l2Put d k l).nextId = d.nextId := rfl
@[simp] theorem l2Put_cur (k : Nat) (l : L2Line) : (l2Put d k l).cur = d.cur := rfl
@[simp] theorem l2Put_st_mem (k : Nat) (l : L2Line) : (l2Put d k l).st.mem = d.st.mem := rfl
@[simp] theorem l2Put_st_spad (k : Nat) (l : L2Line) : (l2Put d k l).st.spad = d.st.spad := rfl
@[simp] theorem l2Put_st_rf (k : Nat) (l : L2Line) : (l2Put d k l).st.rf = d.st.rf := rfl
@[simp] theorem l2Put_st_acc (k : Nat) (l : L2Line) : (l2Put d k l).st.acc = d.st.acc := rfl
@[simp] theorem l2Put_st_md (k : Nat) (l : L2Line) : (l2Put d k l).st.md = d.st.md := rfl
@[simp] theorem l2Put_st_back (k : Nat) (l : L2Line) : (l2Put d k l).st.back = d.st.back := rfl
@[simp] theorem l2Put_st_poison (k : Nat) (l : L2Line) : (l2Put d k l).st.poison = d.st.poison := rfl

/-! ### memSettle -/

@[simp] theorem memSettle_flights (a : Nat) (bs : List Byte) (r n : Nat) : (memSettle d a bs r n).flights = d.flights := rfl
@[simp] theorem memSettle_queues (a : Nat) (bs : List Byte) (r n : Nat) : (memSettle d a bs r n).queues = d.queues := rfl
@[simp] theorem memSettle_grids (a : Nat) (bs : List Byte) (r n : Nat) : (memSettle d a bs r n).grids = d.grids := rfl
@[simp] theorem memSettle_blocks (a : Nat) (bs : List Byte) (r n : Nat) : (memSettle d a bs r n).blocks = d.blocks := rfl
@[simp] theorem memSettle_ctxs (a : Nat) (bs : List Byte) (r n : Nat) : (memSettle d a bs r n).ctxs = d.ctxs := rfl
@[simp] theorem memSettle_alcoves (a : Nat) (bs : List Byte) (r n : Nat) : (memSettle d a bs r n).alcoves = d.alcoves := rfl
@[simp] theorem memSettle_parking (a : Nat) (bs : List Byte) (r n : Nat) : (memSettle d a bs r n).parking = d.parking := rfl
@[simp] theorem memSettle_walks (a : Nat) (bs : List Byte) (r n : Nat) : (memSettle d a bs r n).walks = d.walks := rfl
@[simp] theorem memSettle_images (a : Nat) (bs : List Byte) (r n : Nat) : (memSettle d a bs r n).images = d.images := rfl
@[simp] theorem memSettle_units (a : Nat) (bs : List Byte) (r n : Nat) : (memSettle d a bs r n).units = d.units := rfl
@[simp] theorem memSettle_routes (a : Nat) (bs : List Byte) (r n : Nat) : (memSettle d a bs r n).routes = d.routes := rfl
@[simp] theorem memSettle_telemetry (a : Nat) (bs : List Byte) (r n : Nat) : (memSettle d a bs r n).telemetry = d.telemetry := rfl
@[simp] theorem memSettle_telCount (a : Nat) (bs : List Byte) (r n : Nat) : (memSettle d a bs r n).telCount = d.telCount := rfl
@[simp] theorem memSettle_errlog (a : Nat) (bs : List Byte) (r n : Nat) : (memSettle d a bs r n).errlog = d.errlog := rfl
@[simp] theorem memSettle_errCount (a : Nat) (bs : List Byte) (r n : Nat) : (memSettle d a bs r n).errCount = d.errCount := rfl
@[simp] theorem memSettle_nhmax (a : Nat) (bs : List Byte) (r n : Nat) : (memSettle d a bs r n).nhmax = d.nhmax := rfl
@[simp] theorem memSettle_nhmeas (a : Nat) (bs : List Byte) (r n : Nat) : (memSettle d a bs r n).nhmeas = d.nhmeas := rfl
@[simp] theorem memSettle_events (a : Nat) (bs : List Byte) (r n : Nat) : (memSettle d a bs r n).events = d.events := rfl
@[simp] theorem memSettle_irqs (a : Nat) (bs : List Byte) (r n : Nat) : (memSettle d a bs r n).irqs = d.irqs := rfl
@[simp] theorem memSettle_fcycle (a : Nat) (bs : List Byte) (r n : Nat) : (memSettle d a bs r n).fcycle = d.fcycle := rfl
@[simp] theorem memSettle_modno (a : Nat) (bs : List Byte) (r n : Nat) : (memSettle d a bs r n).modno = d.modno := rfl
@[simp] theorem memSettle_served (a : Nat) (bs : List Byte) (r n : Nat) : (memSettle d a bs r n).served = d.served := rfl
@[simp] theorem memSettle_nextId (a : Nat) (bs : List Byte) (r n : Nat) : (memSettle d a bs r n).nextId = d.nextId := rfl
@[simp] theorem memSettle_cur (a : Nat) (bs : List Byte) (r n : Nat) : (memSettle d a bs r n).cur = d.cur := rfl
@[simp] theorem memSettle_st_spad (a : Nat) (bs : List Byte) (r n : Nat) : (memSettle d a bs r n).st.spad = d.st.spad := rfl
@[simp] theorem memSettle_st_rf (a : Nat) (bs : List Byte) (r n : Nat) : (memSettle d a bs r n).st.rf = d.st.rf := rfl
@[simp] theorem memSettle_st_acc (a : Nat) (bs : List Byte) (r n : Nat) : (memSettle d a bs r n).st.acc = d.st.acc := rfl
@[simp] theorem memSettle_st_md (a : Nat) (bs : List Byte) (r n : Nat) : (memSettle d a bs r n).st.md = d.st.md := rfl
@[simp] theorem memSettle_st_l2 (a : Nat) (bs : List Byte) (r n : Nat) : (memSettle d a bs r n).st.l2 = d.st.l2 := rfl
@[simp] theorem memSettle_st_back (a : Nat) (bs : List Byte) (r n : Nat) : (memSettle d a bs r n).st.back = d.st.back := rfl

/-! ### L2 -/

/-- A device that differs in the lines that L2 holds and in what they cost the contexts, and in nothing else. -/
def L2Moved (d e : Device) : Prop :=
  ∃ (c : Tbl Ctx) (l : Tbl L2Line), e = { d with ctxs := c, st := { d.st with l2 := l } }

theorem L2Moved.refl : L2Moved d d := ⟨d.ctxs, d.st.l2, rfl⟩

theorem L2Moved.trans {d e f : Device} (h : L2Moved d e) (k : L2Moved e f) : L2Moved d f := by
  obtain ⟨c, l, rfl⟩ := h; obtain ⟨c2, l2, rfl⟩ := k; exact ⟨c2, l2, rfl⟩

/-- A charge moves no line. -/
theorem charge_moved (ctx n : Nat) (k : Traffic) : L2Moved d (charge d ctx k n) := by
  unfold charge; split
  · exact ⟨_, d.st.l2, rfl⟩
  · exact .refl d

theorem l2Put_moved (line : Nat) (l : L2Line) : L2Moved d (l2Put d line l) := ⟨d.ctxs, _, rfl⟩

theorem evictLine_moved (line : Nat) : L2Moved d (evictLine d line) := by
  unfold evictLine; split
  · exact .refl d
  · dsimp only; split
    · exact .trans (e := { d with st := { d.st with l2 := tblErase d.st.l2 line } }) ⟨d.ctxs, _, rfl⟩ (charge_moved _ _ _ _)
    · exact ⟨d.ctxs, _, rfl⟩

theorem l2Room_moved (line : Nat) : L2Moved d (l2Room d line) := by
  unfold l2Room; split
  · exact .refl d
  · dsimp only; split
    · exact .refl d
    · exact evictLine_moved _ _

theorem l2Line_moved (ctx line : Nat) : L2Moved d (l2Line ctx d line) := by
  unfold l2Line; split
  · exact charge_moved _ _ _ _
  · exact ((l2Room_moved d line).trans (l2Put_moved _ _ _)).trans (charge_moved _ _ _ _)

theorem l2Dirty_moved (own line : Nat) : L2Moved d (l2Dirty own d line) := by
  unfold l2Dirty; dsimp only; split
  · exact (l2Put_moved d _ _).trans (charge_moved _ _ _ _)
  · exact ((l2Room_moved d line).trans (l2Put_moved _ _ _)).trans (charge_moved _ _ _ _)

theorem foldl_moved (f : Device → Nat → Device) (h : ∀ d x, L2Moved d (f d x)) (xs : List Nat) : L2Moved d (xs.foldl f d) := by
  induction xs generalizing d with
  | nil => exact .refl d
  | cons x t ih => exact (h d x).trans (ih _)

/-- A read through L2 moves lines of L2 alone. -/
theorem l2Access_moved (ctx a n : Nat) : L2Moved d (l2Access d ctx a n) := by
  unfold l2Access; split
  · exact .refl d
  · exact foldl_moved d _ (fun d x => l2Line_moved d ctx x) _

/-- A write through L2 settles memory over a device whose L2 has moved. -/
theorem memWriteFor_eq (own a : Nat) (bs : List Byte) (r n : Nat) :
    ∃ e, L2Moved d e ∧ memWriteFor d own a bs r n = memSettle e a bs r n := by
  unfold memWriteFor; split
  · exact ⟨d, .refl d, rfl⟩
  · exact ⟨_, foldl_moved d _ (fun d x => l2Dirty_moved d own x) _, rfl⟩

/-- The same for a write that means the bytes it writes. -/
theorem memWrite_eq (own a : Nat) (bs : List Byte) :
    ∃ (c : Tbl Ctx) (l : Tbl L2Line), memWrite d own a bs =
      memSettle { d with ctxs := c, st := { d.st with l2 := l } } a bs a bs.length := by
  obtain ⟨e, ⟨c, l, rfl⟩, h⟩ := memWriteFor_eq d own a bs a bs.length
  exact ⟨c, l, h⟩

/-! ### memWrite -/

@[simp] theorem memWrite_flights (own a : Nat) (bs : List Byte) : (memWrite d own a bs).flights = d.flights := by obtain ⟨c, l, h⟩ := memWrite_eq d own a bs; rw [h]; rfl
@[simp] theorem memWrite_queues (own a : Nat) (bs : List Byte) : (memWrite d own a bs).queues = d.queues := by obtain ⟨c, l, h⟩ := memWrite_eq d own a bs; rw [h]; rfl
@[simp] theorem memWrite_grids (own a : Nat) (bs : List Byte) : (memWrite d own a bs).grids = d.grids := by obtain ⟨c, l, h⟩ := memWrite_eq d own a bs; rw [h]; rfl
@[simp] theorem memWrite_blocks (own a : Nat) (bs : List Byte) : (memWrite d own a bs).blocks = d.blocks := by obtain ⟨c, l, h⟩ := memWrite_eq d own a bs; rw [h]; rfl
@[simp] theorem memWrite_alcoves (own a : Nat) (bs : List Byte) : (memWrite d own a bs).alcoves = d.alcoves := by obtain ⟨c, l, h⟩ := memWrite_eq d own a bs; rw [h]; rfl
@[simp] theorem memWrite_parking (own a : Nat) (bs : List Byte) : (memWrite d own a bs).parking = d.parking := by obtain ⟨c, l, h⟩ := memWrite_eq d own a bs; rw [h]; rfl
@[simp] theorem memWrite_walks (own a : Nat) (bs : List Byte) : (memWrite d own a bs).walks = d.walks := by obtain ⟨c, l, h⟩ := memWrite_eq d own a bs; rw [h]; rfl
@[simp] theorem memWrite_images (own a : Nat) (bs : List Byte) : (memWrite d own a bs).images = d.images := by obtain ⟨c, l, h⟩ := memWrite_eq d own a bs; rw [h]; rfl
@[simp] theorem memWrite_units (own a : Nat) (bs : List Byte) : (memWrite d own a bs).units = d.units := by obtain ⟨c, l, h⟩ := memWrite_eq d own a bs; rw [h]; rfl
@[simp] theorem memWrite_routes (own a : Nat) (bs : List Byte) : (memWrite d own a bs).routes = d.routes := by obtain ⟨c, l, h⟩ := memWrite_eq d own a bs; rw [h]; rfl
@[simp] theorem memWrite_telemetry (own a : Nat) (bs : List Byte) : (memWrite d own a bs).telemetry = d.telemetry := by obtain ⟨c, l, h⟩ := memWrite_eq d own a bs; rw [h]; rfl
@[simp] theorem memWrite_telCount (own a : Nat) (bs : List Byte) : (memWrite d own a bs).telCount = d.telCount := by obtain ⟨c, l, h⟩ := memWrite_eq d own a bs; rw [h]; rfl
@[simp] theorem memWrite_errlog (own a : Nat) (bs : List Byte) : (memWrite d own a bs).errlog = d.errlog := by obtain ⟨c, l, h⟩ := memWrite_eq d own a bs; rw [h]; rfl
@[simp] theorem memWrite_errCount (own a : Nat) (bs : List Byte) : (memWrite d own a bs).errCount = d.errCount := by obtain ⟨c, l, h⟩ := memWrite_eq d own a bs; rw [h]; rfl
@[simp] theorem memWrite_nhmax (own a : Nat) (bs : List Byte) : (memWrite d own a bs).nhmax = d.nhmax := by obtain ⟨c, l, h⟩ := memWrite_eq d own a bs; rw [h]; rfl
@[simp] theorem memWrite_nhmeas (own a : Nat) (bs : List Byte) : (memWrite d own a bs).nhmeas = d.nhmeas := by obtain ⟨c, l, h⟩ := memWrite_eq d own a bs; rw [h]; rfl
@[simp] theorem memWrite_events (own a : Nat) (bs : List Byte) : (memWrite d own a bs).events = d.events := by obtain ⟨c, l, h⟩ := memWrite_eq d own a bs; rw [h]; rfl
@[simp] theorem memWrite_irqs (own a : Nat) (bs : List Byte) : (memWrite d own a bs).irqs = d.irqs := by obtain ⟨c, l, h⟩ := memWrite_eq d own a bs; rw [h]; rfl
@[simp] theorem memWrite_fcycle (own a : Nat) (bs : List Byte) : (memWrite d own a bs).fcycle = d.fcycle := by obtain ⟨c, l, h⟩ := memWrite_eq d own a bs; rw [h]; rfl
@[simp] theorem memWrite_modno (own a : Nat) (bs : List Byte) : (memWrite d own a bs).modno = d.modno := by obtain ⟨c, l, h⟩ := memWrite_eq d own a bs; rw [h]; rfl
@[simp] theorem memWrite_served (own a : Nat) (bs : List Byte) : (memWrite d own a bs).served = d.served := by obtain ⟨c, l, h⟩ := memWrite_eq d own a bs; rw [h]; rfl
@[simp] theorem memWrite_nextId (own a : Nat) (bs : List Byte) : (memWrite d own a bs).nextId = d.nextId := by obtain ⟨c, l, h⟩ := memWrite_eq d own a bs; rw [h]; rfl
@[simp] theorem memWrite_cur (own a : Nat) (bs : List Byte) : (memWrite d own a bs).cur = d.cur := by obtain ⟨c, l, h⟩ := memWrite_eq d own a bs; rw [h]; rfl
@[simp] theorem memWrite_st_spad (own a : Nat) (bs : List Byte) : (memWrite d own a bs).st.spad = d.st.spad := by obtain ⟨c, l, h⟩ := memWrite_eq d own a bs; rw [h]; rfl
@[simp] theorem memWrite_st_rf (own a : Nat) (bs : List Byte) : (memWrite d own a bs).st.rf = d.st.rf := by obtain ⟨c, l, h⟩ := memWrite_eq d own a bs; rw [h]; rfl
@[simp] theorem memWrite_st_acc (own a : Nat) (bs : List Byte) : (memWrite d own a bs).st.acc = d.st.acc := by obtain ⟨c, l, h⟩ := memWrite_eq d own a bs; rw [h]; rfl
@[simp] theorem memWrite_st_md (own a : Nat) (bs : List Byte) : (memWrite d own a bs).st.md = d.st.md := by obtain ⟨c, l, h⟩ := memWrite_eq d own a bs; rw [h]; rfl
@[simp] theorem memWrite_st_back (own a : Nat) (bs : List Byte) : (memWrite d own a bs).st.back = d.st.back := by obtain ⟨c, l, h⟩ := memWrite_eq d own a bs; rw [h]; rfl

/-! ### spadWrite -/

@[simp] theorem spadWrite_cores (c o : Nat) (bs : List Byte) : (spadWrite d c o bs).cores = d.cores := rfl
@[simp] theorem spadWrite_halls (c o : Nat) (bs : List Byte) : (spadWrite d c o bs).halls = d.halls := rfl
@[simp] theorem spadWrite_flights (c o : Nat) (bs : List Byte) : (spadWrite d c o bs).flights = d.flights := rfl
@[simp] theorem spadWrite_queues (c o : Nat) (bs : List Byte) : (spadWrite d c o bs).queues = d.queues := rfl
@[simp] theorem spadWrite_grids (c o : Nat) (bs : List Byte) : (spadWrite d c o bs).grids = d.grids := rfl
@[simp] theorem spadWrite_blocks (c o : Nat) (bs : List Byte) : (spadWrite d c o bs).blocks = d.blocks := rfl
@[simp] theorem spadWrite_ctxs (c o : Nat) (bs : List Byte) : (spadWrite d c o bs).ctxs = d.ctxs := rfl
@[simp] theorem spadWrite_alcoves (c o : Nat) (bs : List Byte) : (spadWrite d c o bs).alcoves = d.alcoves := rfl
@[simp] theorem spadWrite_parking (c o : Nat) (bs : List Byte) : (spadWrite d c o bs).parking = d.parking := rfl
@[simp] theorem spadWrite_walks (c o : Nat) (bs : List Byte) : (spadWrite d c o bs).walks = d.walks := rfl
@[simp] theorem spadWrite_images (c o : Nat) (bs : List Byte) : (spadWrite d c o bs).images = d.images := rfl
@[simp] theorem spadWrite_units (c o : Nat) (bs : List Byte) : (spadWrite d c o bs).units = d.units := rfl
@[simp] theorem spadWrite_apcs (c o : Nat) (bs : List Byte) : (spadWrite d c o bs).apcs = d.apcs := rfl
@[simp] theorem spadWrite_routes (c o : Nat) (bs : List Byte) : (spadWrite d c o bs).routes = d.routes := rfl
@[simp] theorem spadWrite_telemetry (c o : Nat) (bs : List Byte) : (spadWrite d c o bs).telemetry = d.telemetry := rfl
@[simp] theorem spadWrite_telCount (c o : Nat) (bs : List Byte) : (spadWrite d c o bs).telCount = d.telCount := rfl
@[simp] theorem spadWrite_errlog (c o : Nat) (bs : List Byte) : (spadWrite d c o bs).errlog = d.errlog := rfl
@[simp] theorem spadWrite_errCount (c o : Nat) (bs : List Byte) : (spadWrite d c o bs).errCount = d.errCount := rfl
@[simp] theorem spadWrite_nhmax (c o : Nat) (bs : List Byte) : (spadWrite d c o bs).nhmax = d.nhmax := rfl
@[simp] theorem spadWrite_nhmeas (c o : Nat) (bs : List Byte) : (spadWrite d c o bs).nhmeas = d.nhmeas := rfl
@[simp] theorem spadWrite_events (c o : Nat) (bs : List Byte) : (spadWrite d c o bs).events = d.events := rfl
@[simp] theorem spadWrite_irqs (c o : Nat) (bs : List Byte) : (spadWrite d c o bs).irqs = d.irqs := rfl
@[simp] theorem spadWrite_fcycle (c o : Nat) (bs : List Byte) : (spadWrite d c o bs).fcycle = d.fcycle := rfl
@[simp] theorem spadWrite_modno (c o : Nat) (bs : List Byte) : (spadWrite d c o bs).modno = d.modno := rfl
@[simp] theorem spadWrite_served (c o : Nat) (bs : List Byte) : (spadWrite d c o bs).served = d.served := rfl
@[simp] theorem spadWrite_nextId (c o : Nat) (bs : List Byte) : (spadWrite d c o bs).nextId = d.nextId := rfl
@[simp] theorem spadWrite_cur (c o : Nat) (bs : List Byte) : (spadWrite d c o bs).cur = d.cur := rfl
@[simp] theorem spadWrite_st_mem (c o : Nat) (bs : List Byte) : (spadWrite d c o bs).st.mem = d.st.mem := rfl
@[simp] theorem spadWrite_st_rf (c o : Nat) (bs : List Byte) : (spadWrite d c o bs).st.rf = d.st.rf := rfl
@[simp] theorem spadWrite_st_acc (c o : Nat) (bs : List Byte) : (spadWrite d c o bs).st.acc = d.st.acc := rfl
@[simp] theorem spadWrite_st_md (c o : Nat) (bs : List Byte) : (spadWrite d c o bs).st.md = d.st.md := rfl
@[simp] theorem spadWrite_st_l2 (c o : Nat) (bs : List Byte) : (spadWrite d c o bs).st.l2 = d.st.l2 := rfl
@[simp] theorem spadWrite_st_back (c o : Nat) (bs : List Byte) : (spadWrite d c o bs).st.back = d.st.back := rfl

/-! ### mdWrite -/

@[simp] theorem mdWrite_cores (h o : Nat) (bs : List Byte) : (mdWrite d h o bs).cores = d.cores := rfl
@[simp] theorem mdWrite_halls (h o : Nat) (bs : List Byte) : (mdWrite d h o bs).halls = d.halls := rfl
@[simp] theorem mdWrite_flights (h o : Nat) (bs : List Byte) : (mdWrite d h o bs).flights = d.flights := rfl
@[simp] theorem mdWrite_queues (h o : Nat) (bs : List Byte) : (mdWrite d h o bs).queues = d.queues := rfl
@[simp] theorem mdWrite_grids (h o : Nat) (bs : List Byte) : (mdWrite d h o bs).grids = d.grids := rfl
@[simp] theorem mdWrite_blocks (h o : Nat) (bs : List Byte) : (mdWrite d h o bs).blocks = d.blocks := rfl
@[simp] theorem mdWrite_ctxs (h o : Nat) (bs : List Byte) : (mdWrite d h o bs).ctxs = d.ctxs := rfl
@[simp] theorem mdWrite_alcoves (h o : Nat) (bs : List Byte) : (mdWrite d h o bs).alcoves = d.alcoves := rfl
@[simp] theorem mdWrite_parking (h o : Nat) (bs : List Byte) : (mdWrite d h o bs).parking = d.parking := rfl
@[simp] theorem mdWrite_walks (h o : Nat) (bs : List Byte) : (mdWrite d h o bs).walks = d.walks := rfl
@[simp] theorem mdWrite_images (h o : Nat) (bs : List Byte) : (mdWrite d h o bs).images = d.images := rfl
@[simp] theorem mdWrite_units (h o : Nat) (bs : List Byte) : (mdWrite d h o bs).units = d.units := rfl
@[simp] theorem mdWrite_apcs (h o : Nat) (bs : List Byte) : (mdWrite d h o bs).apcs = d.apcs := rfl
@[simp] theorem mdWrite_routes (h o : Nat) (bs : List Byte) : (mdWrite d h o bs).routes = d.routes := rfl
@[simp] theorem mdWrite_telemetry (h o : Nat) (bs : List Byte) : (mdWrite d h o bs).telemetry = d.telemetry := rfl
@[simp] theorem mdWrite_telCount (h o : Nat) (bs : List Byte) : (mdWrite d h o bs).telCount = d.telCount := rfl
@[simp] theorem mdWrite_errlog (h o : Nat) (bs : List Byte) : (mdWrite d h o bs).errlog = d.errlog := rfl
@[simp] theorem mdWrite_errCount (h o : Nat) (bs : List Byte) : (mdWrite d h o bs).errCount = d.errCount := rfl
@[simp] theorem mdWrite_nhmax (h o : Nat) (bs : List Byte) : (mdWrite d h o bs).nhmax = d.nhmax := rfl
@[simp] theorem mdWrite_nhmeas (h o : Nat) (bs : List Byte) : (mdWrite d h o bs).nhmeas = d.nhmeas := rfl
@[simp] theorem mdWrite_events (h o : Nat) (bs : List Byte) : (mdWrite d h o bs).events = d.events := rfl
@[simp] theorem mdWrite_irqs (h o : Nat) (bs : List Byte) : (mdWrite d h o bs).irqs = d.irqs := rfl
@[simp] theorem mdWrite_fcycle (h o : Nat) (bs : List Byte) : (mdWrite d h o bs).fcycle = d.fcycle := rfl
@[simp] theorem mdWrite_modno (h o : Nat) (bs : List Byte) : (mdWrite d h o bs).modno = d.modno := rfl
@[simp] theorem mdWrite_served (h o : Nat) (bs : List Byte) : (mdWrite d h o bs).served = d.served := rfl
@[simp] theorem mdWrite_nextId (h o : Nat) (bs : List Byte) : (mdWrite d h o bs).nextId = d.nextId := rfl
@[simp] theorem mdWrite_cur (h o : Nat) (bs : List Byte) : (mdWrite d h o bs).cur = d.cur := rfl
@[simp] theorem mdWrite_st_mem (h o : Nat) (bs : List Byte) : (mdWrite d h o bs).st.mem = d.st.mem := rfl
@[simp] theorem mdWrite_st_spad (h o : Nat) (bs : List Byte) : (mdWrite d h o bs).st.spad = d.st.spad := rfl
@[simp] theorem mdWrite_st_rf (h o : Nat) (bs : List Byte) : (mdWrite d h o bs).st.rf = d.st.rf := rfl
@[simp] theorem mdWrite_st_acc (h o : Nat) (bs : List Byte) : (mdWrite d h o bs).st.acc = d.st.acc := rfl
@[simp] theorem mdWrite_st_l2 (h o : Nat) (bs : List Byte) : (mdWrite d h o bs).st.l2 = d.st.l2 := rfl
@[simp] theorem mdWrite_st_back (h o : Nat) (bs : List Byte) : (mdWrite d h o bs).st.back = d.st.back := rfl

/-! ### accSet -/

@[simp] theorem accSet_cores (h t i j : Nat) (x : A80) (bad : Bool) : (accSet d h t i j x bad).cores = d.cores := rfl
@[simp] theorem accSet_halls (h t i j : Nat) (x : A80) (bad : Bool) : (accSet d h t i j x bad).halls = d.halls := rfl
@[simp] theorem accSet_flights (h t i j : Nat) (x : A80) (bad : Bool) : (accSet d h t i j x bad).flights = d.flights := rfl
@[simp] theorem accSet_queues (h t i j : Nat) (x : A80) (bad : Bool) : (accSet d h t i j x bad).queues = d.queues := rfl
@[simp] theorem accSet_grids (h t i j : Nat) (x : A80) (bad : Bool) : (accSet d h t i j x bad).grids = d.grids := rfl
@[simp] theorem accSet_blocks (h t i j : Nat) (x : A80) (bad : Bool) : (accSet d h t i j x bad).blocks = d.blocks := rfl
@[simp] theorem accSet_ctxs (h t i j : Nat) (x : A80) (bad : Bool) : (accSet d h t i j x bad).ctxs = d.ctxs := rfl
@[simp] theorem accSet_alcoves (h t i j : Nat) (x : A80) (bad : Bool) : (accSet d h t i j x bad).alcoves = d.alcoves := rfl
@[simp] theorem accSet_parking (h t i j : Nat) (x : A80) (bad : Bool) : (accSet d h t i j x bad).parking = d.parking := rfl
@[simp] theorem accSet_walks (h t i j : Nat) (x : A80) (bad : Bool) : (accSet d h t i j x bad).walks = d.walks := rfl
@[simp] theorem accSet_images (h t i j : Nat) (x : A80) (bad : Bool) : (accSet d h t i j x bad).images = d.images := rfl
@[simp] theorem accSet_units (h t i j : Nat) (x : A80) (bad : Bool) : (accSet d h t i j x bad).units = d.units := rfl
@[simp] theorem accSet_apcs (h t i j : Nat) (x : A80) (bad : Bool) : (accSet d h t i j x bad).apcs = d.apcs := rfl
@[simp] theorem accSet_routes (h t i j : Nat) (x : A80) (bad : Bool) : (accSet d h t i j x bad).routes = d.routes := rfl
@[simp] theorem accSet_telemetry (h t i j : Nat) (x : A80) (bad : Bool) : (accSet d h t i j x bad).telemetry = d.telemetry := rfl
@[simp] theorem accSet_telCount (h t i j : Nat) (x : A80) (bad : Bool) : (accSet d h t i j x bad).telCount = d.telCount := rfl
@[simp] theorem accSet_errlog (h t i j : Nat) (x : A80) (bad : Bool) : (accSet d h t i j x bad).errlog = d.errlog := rfl
@[simp] theorem accSet_errCount (h t i j : Nat) (x : A80) (bad : Bool) : (accSet d h t i j x bad).errCount = d.errCount := rfl
@[simp] theorem accSet_nhmax (h t i j : Nat) (x : A80) (bad : Bool) : (accSet d h t i j x bad).nhmax = d.nhmax := rfl
@[simp] theorem accSet_nhmeas (h t i j : Nat) (x : A80) (bad : Bool) : (accSet d h t i j x bad).nhmeas = d.nhmeas := rfl
@[simp] theorem accSet_events (h t i j : Nat) (x : A80) (bad : Bool) : (accSet d h t i j x bad).events = d.events := rfl
@[simp] theorem accSet_irqs (h t i j : Nat) (x : A80) (bad : Bool) : (accSet d h t i j x bad).irqs = d.irqs := rfl
@[simp] theorem accSet_fcycle (h t i j : Nat) (x : A80) (bad : Bool) : (accSet d h t i j x bad).fcycle = d.fcycle := rfl
@[simp] theorem accSet_modno (h t i j : Nat) (x : A80) (bad : Bool) : (accSet d h t i j x bad).modno = d.modno := rfl
@[simp] theorem accSet_served (h t i j : Nat) (x : A80) (bad : Bool) : (accSet d h t i j x bad).served = d.served := rfl
@[simp] theorem accSet_nextId (h t i j : Nat) (x : A80) (bad : Bool) : (accSet d h t i j x bad).nextId = d.nextId := rfl
@[simp] theorem accSet_cur (h t i j : Nat) (x : A80) (bad : Bool) : (accSet d h t i j x bad).cur = d.cur := rfl
@[simp] theorem accSet_st_mem (h t i j : Nat) (x : A80) (bad : Bool) : (accSet d h t i j x bad).st.mem = d.st.mem := rfl
@[simp] theorem accSet_st_spad (h t i j : Nat) (x : A80) (bad : Bool) : (accSet d h t i j x bad).st.spad = d.st.spad := rfl
@[simp] theorem accSet_st_rf (h t i j : Nat) (x : A80) (bad : Bool) : (accSet d h t i j x bad).st.rf = d.st.rf := rfl
@[simp] theorem accSet_st_md (h t i j : Nat) (x : A80) (bad : Bool) : (accSet d h t i j x bad).st.md = d.st.md := rfl
@[simp] theorem accSet_st_l2 (h t i j : Nat) (x : A80) (bad : Bool) : (accSet d h t i j x bad).st.l2 = d.st.l2 := rfl
@[simp] theorem accSet_st_back (h t i j : Nat) (x : A80) (bad : Bool) : (accSet d h t i j x bad).st.back = d.st.back := rfl

/-! ### Reading back -/

/-- A changed core reads as changed. -/
@[simp] theorem coreOf_modCore_same (c : Nat) (f : Core → Core) : coreOf (modCore d c f) c = f (coreOf d c) := by
  simp [coreOf, modCore]

/-- An application core reads as it was set. -/
@[simp] theorem apcOf_setApc_same (c : Nat) (k : ApcCore) : apcOf (setApc d c k) c = k := by simp [apcOf, setApc]

/-- The other application cores are left alone. -/
theorem apcOf_setApc_ne {c c2 : Nat} (k : ApcCore) (h : c2 ≠ c) : apcOf (setApc d c k) c2 = apcOf d c2 := by
  simp [apcOf, setApc, tblGet_tblSet_ne _ _ _ h]

/-- The other cores are left alone. -/
theorem coreOf_modCore_ne {c c2 : Nat} (f : Core → Core) (h : c2 ≠ c) : coreOf (modCore d c f) c2 = coreOf d c2 := by
  simp [coreOf, modCore, tblGet_tblSet_ne _ _ _ h]

/-- A changed hall reads as changed. -/
@[simp] theorem hallOf_modHall_same (h : Nat) (f : Hall → Hall) : hallOf (modHall d h f) h = f (hallOf d h) := by
  simp [hallOf, modHall]

/-- The other halls are left alone. -/
theorem hallOf_modHall_ne {h h2 : Nat} (f : Hall → Hall) (n : h2 ≠ h) : hallOf (modHall d h f) h2 = hallOf d h2 := by
  simp [hallOf, modHall, tblGet_tblSet_ne _ _ _ n]

/-- A changed context reads as changed. -/
@[simp] theorem ctxOf_modCtx_same (x : Nat) (f : Ctx → Ctx) : ctxOf (modCtx d x f) x = f (ctxOf d x) := by
  simp [ctxOf, modCtx]

/-- The other contexts are left alone. -/
theorem ctxOf_modCtx_ne {x x2 : Nat} (f : Ctx → Ctx) (h : x2 ≠ x) : ctxOf (modCtx d x f) x2 = ctxOf d x2 := by
  simp [ctxOf, modCtx, tblGet_tblSet_ne _ _ _ h]

/-- A changed launch queue reads as changed. -/
@[simp] theorem queueOf_modQueue_same (q : Nat) (f : LaunchQueue → LaunchQueue) :
    queueOf (modQueue d q f) q = f (queueOf d q) := by simp [queueOf, modQueue]

/-- The other launch queues are left alone. -/
theorem queueOf_modQueue_ne {q q2 : Nat} (f : LaunchQueue → LaunchQueue) (h : q2 ≠ q) :
    queueOf (modQueue d q f) q2 = queueOf d q2 := by simp [queueOf, modQueue, tblGet_tblSet_ne _ _ _ h]

/-- A changed Alcove Table entry reads as changed. -/
@[simp] theorem alcOf_modAlc_same (i : Nat) (f : Alcove → Alcove) : alcOf (modAlc d i f) i = f (alcOf d i) := by
  simp [alcOf, modAlc]

/-- A changed wave reads as changed. -/
@[simp] theorem waveOf_modWave_same (c s : Nat) (f : Wave → Wave) :
    waveOf (modWave d c s f) c s = (waveOf d c s).map f := by simp [waveOf, modWave]

/-- The other waves are left alone. -/
theorem waveOf_modWave_ne {c s c2 s2 : Nat} (f : Wave → Wave) (h : c2 ≠ c ∨ s2 ≠ s) :
    waveOf (modWave d c s f) c2 s2 = waveOf d c2 s2 := by
  unfold waveOf modWave
  by_cases hc : c2 = c
  · subst hc; simp [tblFind_tblMod_ne _ f (h.resolve_left (by simp))]
  · rw [coreOf_modCore_ne _ _ hc]

/-- A changed block reads as changed. -/
@[simp] theorem tblFind_modBlock_same (b : Nat) (f : Block → Block) :
    tblFind (modBlock d b f).blocks b = (tblFind d.blocks b).map f := by simp [modBlock]

/-- A register-file word reads as written. -/
@[simp] theorem rfGet_rfSet_same (c k : Nat) (x : W32) : rfGet (rfSet d c k x) c k = x := by simp [rfGet, rfSet]

/-- The other register-file words of a core are left alone. -/
theorem rfGet_rfSet_ne {c k c2 k2 : Nat} (x : W32) (h : c2 * 65536 + k2 ≠ c * 65536 + k) :
    rfGet (rfSet d c k x) c2 k2 = rfGet d c2 k2 := by simp [rfGet, rfSet, tblGet_tblSet_ne _ _ _ h]

/-- A register-file read sees the stores alone. -/
theorem rfGet_congr {d e : Device} (c k : Nat) (h : d.st.rf = e.st.rf) : rfGet d c k = rfGet e c k := by
  simp [rfGet, h]

/-- Memory after a write. -/
@[simp] theorem memWrite_mem (own a : Nat) (bs : List Byte) : (memWrite d own a bs).st.mem = memPut d.st.mem a bs := by
  obtain ⟨c, l, h⟩ := memWrite_eq d own a bs; rw [h]; rfl

/-- A write of memory keeps its canonical form. -/
theorem memWrite_wf (own a : Nat) (bs : List Byte) (h : Memory.wf d.st.mem = true) :
    Memory.wf (memWrite d own a bs).st.mem = true := by rw [memWrite_mem]; exact memPut_wf bs a h

/-- A write of scratchpad keeps its canonical form. -/
theorem spadWrite_wf (c o : Nat) (bs : List Byte) (h : Memory.wf d.st.spad = true) :
    Memory.wf (spadWrite d c o bs).st.spad = true := memPut_wf bs _ h

/-- A write of metadata keeps its canonical form. -/
theorem mdWrite_wf (h o : Nat) (bs : List Byte) (w : Memory.wf d.st.md = true) :
    Memory.wf (mdWrite d h o bs).st.md = true := memPut_wf bs _ w

/-- Every memory of the machine after reset is in canonical form. -/
theorem reset_memories_wf : Memory.wf State.reset.dev.st.mem = true ∧ Memory.wf State.reset.dev.st.spad = true ∧
    Memory.wf State.reset.dev.st.md = true := ⟨rfl, rfl, rfl⟩

end Sys2Proof.Machine
end

