-- ==== Sys2Proof/Tests/Slice0.lean ====
section
/-! SUPPORT. Tests: decoding of words written out from the spec, terms that are not well-formed, and for each obligation with
hypotheses a state and operands that meet them. -/

namespace Sys2Proof.Tests

open Sys2Proof Sys2Proof.Machine
set_option Elab.async false

/-! ## The state of the tests -/

/-- The guard that is always true. -/
def always : WordHead := { g := { neg := false, p := 7 }, md := 0 }

/-- A page of data at 0x20000 that its context may read and write. -/
def dataTlb : TlbEntry := { placeTlb with page := 0x20000, pa := 0x20000, x := false, w := true, dirty := true }

/-- The wave of the tests: 32 lanes, s8 the data page's address. -/
def demoWave : Wave := sput 8 0x20000 (placeWave (some 0))

/-- The grid of the tests: buffer records and the weight table in the data page. -/
def demoGrid : Grid := { placeGrid' with lpb := { placeLpb with recbase := 0x20100, wstbase := 0x20200 } }

/-- The block of the tests: four granules and two tiles of hall 0. -/
def demoBlock : Block := { placeBlock with ngran := 4, acct := 2, mmap := 0x10 }

/-- The machine of the tests: one wave on core 0, with changes to the wave and to the die. -/
def demo (f : Wave → Wave) (g : Device → Device) : State :=
  { State.reset with dev := g { blankDevice with
      grids := [(1, demoGrid)], blocks := [(1, demoBlock)], nextId := 10, cur := some (0, 0)
      cores := [(0, { blankCore with waves := [(0, f demoWave)], tlb := [placeTlb, dataTlb] })] } }

/-- The machine of the tests as it stands. -/
def plain : State := demo id id

/-- Whether a job issues and its view meets a further test. -/
def jobRuns (j : Job) (s : State) (p : View → Mask → Bool) : Bool :=
  match view s.dev with
  | none => false
  | some v =>
    v.w.arw.isNone && !jobHeld j v && decide (j.exec v ≠ 0) &&
      (firstBad (sharedChecks j v ++ j.legal v)).isNone && (j.early v (j.exec v)).isNone &&
      (match j.tok with
        | none => true
        | some k => !v.w.tokPend.getLsbD k.toNat && !v.w.tokOrph.getLsbD k.toNat) &&
      p v (j.exec v)

/-- Whether an instruction issues and its view meets a further test. -/
def runsB (p : View → Mask → Bool) (i : Instr) (s : State) : Bool :=
  match wordJob i with
  | none => false
  | some j => jobRuns j s p

/-- What the test says. -/
theorem runs_of {i : Instr} {s : State} {p : View → Mask → Bool} (h : runsB p i s = true) :
    ∃ v ex, Runs i s v ex ∧ p v ex = true := by
  unfold runsB at h
  cases hj : wordJob i with
  | none => rw [hj] at h; cases h
  | some j =>
    simp only [hj, jobRuns] at h
    cases hv : view s.dev with
    | none => rw [hv] at h; cases h
    | some v =>
      simp only [hv, Bool.and_eq_true, decide_eq_true_eq, Option.isNone_iff_eq_none, Bool.not_eq_true'] at h
      obtain ⟨⟨⟨⟨⟨⟨ha, hf⟩, hx⟩, hl⟩, he⟩, ht⟩, hp⟩ := h
      refine ⟨v, j.exec v, ⟨j, hj, ?_⟩, hp⟩
      refine ⟨hv, ha, hf, rfl, hx, hl, he, fun k hk => ?_⟩
      rw [hk] at ht
      simpa using ht

/-- Each instruction of a list issues somewhere, and its view meets a test of its own there. -/
def Issue' (l : List (Instr × State × (View → Mask → Bool))) : Prop :=
  ∀ e ∈ l, ∃ v ex, Runs e.1 e.2.1 v ex ∧ e.2.2 v ex = true

/-- A list of issues found by evaluation. -/
theorem issue_of {l : List (Instr × State × (View → Mask → Bool))}
    (h : (l.all fun e => runsB e.2.2 e.1 e.2.1) = true) : Issue' l := fun e he =>
  runs_of (List.all_eq_true.mp h e he)

/-- No further test. -/
def any : View → Mask → Bool := fun _ _ => true

/-- The sources pop no bad entry. -/
def pops (ops : List Operand) : View → Mask → Bool := fun v _ => (popWalk v ops []).2.isNone

/-! ## Words -/

/-- A format A word. -/
def wa (d a b c : Operand) (sub : BitVec 8) : WordA :=
  { hd := always, d := d, a := a, b := b, c := c, sub := sub, u := false, neg := 0, abs := 0, low := false }

/-- A format I word. -/
def wi (d a : Operand) (imm : W32) : WordI := { hd := always, d := d, a := a, imm := imm }

/-- A format P word. -/
def wp (a b : Operand) (sub : BitVec 8) : WordP :=
  { hd := always, pd := 1, pe := 2, cmb := 0, a := a, b := b, pc := 7, pcn := false, res := 0, sub := sub, u := false, low := 0 }

/-- A format K word. -/
def wk (a b : Operand) (off : W32) (md : BitVec 4) : WordK := { hd := { always with md := md }, a := a, b := b, off := off }

/-- A format E word. -/
def we (x y z w : Operand) (sub : BitVec 7) (te : Bool) : WordE :=
  { hd := always, x := x, y := y, z := z, w := w, tok := 3, te := te, sub := sub, sco := 0, u := false }

end Sys2Proof.Tests

namespace Sys2Proof.Tests

open Sys2Proof Sys2Proof.Machine
set_option Elab.async false

/-! ## Witnesses: compute. Where a statement also supposes `Lands` or `LandsLater`, `lands_some` and `landsLater_some` give
the state that it speaks of. -/

/-- The die of a system context. -/
def privileged (d : Device) : Device := modCtx d 0 fun k => { k with sysctx := true }

/-- An A-format word on registers, with what its statement supposes of its sources. -/
def alu (mk : WordA → Instr) (sub : BitVec 8) (n : Nat) : Instr × State × (View → Mask → Bool) :=
  let w := wa (.v 11) (.v 9) (.v 10) (if n = 3 then .v 12 else .v 0) sub
  let w := if n = 1 then { w with b := .v 0 } else w
  (mk w, plain, pops (aSrcs w n))

/-- A scalar word on s registers. -/
def sca (mk : WordA → Instr) (sub : BitVec 8) (n : Nat) : Instr × State × (View → Mask → Bool) :=
  let w := wa (.s 20) (.s 9) (.s 10) (if n = 3 then .s 11 else .v 0) sub
  (mk (if n = 1 then { w with b := .v 0 } else w), plain, any)

theorem witness_IntegerArithmeticResults : Issue' [alu .iadd 2 2, alu .isub 6 2, alu .imul 2 2, alu .imulh 2 2, alu .imad 6 3,
    alu .imin 2 2, alu .imax 6 2, alu .idp4 0 3] := issue_of (by decide +kernel)

theorem witness_BitOperationResults : Issue' [alu .shl 0 2, alu .shr 0 2, alu .sar 0 2, alu .fshf 2 3, alu .bfe 2 2,
    alu .bfi 0 3, alu .popc 0 1, alu .clz 0 1, alu .ctz 0 1, alu .brev 0 1, alu .blut 0x96 3,
    (.sel (wa (.v 11) (.v 9) (.v 10) (.v 3) 0), plain, pops [.v 9, .v 10]), alu .mov 0 1] := issue_of (by decide +kernel)

theorem witness_ImmediateResults : Issue'
    ((([Instr.iaddi, .imuli, .andi, .ori, .xori, .faddi, .fmuli].map fun mk => (mk (wi (.v 11) (.v 9) 5), plain, pops [.v 9])) ++
      [(.movi (wi (.v 11) (.v 0) 5), plain, any)] : List (Instr × State × (View → Mask → Bool)))) :=
  issue_of (by decide +kernel)

theorem witness_PredicateResults : Issue' [(.icmp (wp (.v 9) (.v 10) 0x52), plain, pops [.v 9, .v 10]),
    (.fcmp (wp (.v 9) (.v 10) 0x28), plain, pops [.v 9, .v 10]), (.plut (wp (.v 3) (.v 4) 0x96), plain, any),
    (.vote (wp (.v 3) (.v 0) 2), plain, any), (.scmp (wp (.s 9) (.s 10) 0x53), plain, any)] := issue_of (by decide +kernel)

theorem witness_FloatArithmeticResults : Issue' [alu .fadd 8 2, alu .fmul 8 2, alu .ffma 8 3, alu .fmin 8 2, alu .fmax 8 2,
    alu .fclass 8 1, alu .frnd 8 1, alu .ffrc 8 1, alu .fldexp 8 2] := issue_of (by decide +kernel)

theorem witness_ApproximateFunctionResults : Issue' [alu .frcp 8 1, alu .frsq 8 1, alu .fsqrt 8 1, alu .fexp2 8 1,
    alu .flog2 8 1, alu .fsin 8 1, alu .fcos 8 1] := issue_of (by decide +kernel)

theorem witness_PackedArithmeticResults : Issue' [alu .hadd2 9 2, alu .hmul2 10 2, alu .hfma2 9 3, alu .hmin2 10 2,
    alu .hmax2 9 2, alu .hdot2 9 3, alu .qdot4 0xBC 3] := issue_of (by decide +kernel)

/-- CVT: FP32 to a signed byte; and the type codes at both ends of the table's integers and floats. -/
theorem witness_ConversionResults : Issue' [(.cvt (wa (.v 20) (.v 9) (.v 0) (.v 0) 0x80), plain,
      pops (cvtSrcs (wa (.v 20) (.v 9) (.v 0) (.v 0) 0x80)))] ∧
    intType 0 = some (8, true) ∧ intType 7 = some (64, false) ∧ floatType 8 = some fp32 ∧ floatType 13 = some e2m1 :=
  ⟨issue_of (by decide +kernel), by decide +kernel⟩

/-- Queue 3 with a store stream of two entries on the data page. -/
def storeStream (d : Device) : Device := modApq d 0 3 fun q =>
  { q with slot := some 0, sbnd := true, sqbase := 0x20000, sqstride := 128, scount := 2, smask := 0xFFFFFFFF,
           soffs := (List.range 32).map fun l => BitVec.ofNat 32 (4 * l) }

/-- Queue 3 takes an entry. -/
def takesEntry : View → Mask → Bool := fun v _ =>
  match pushEntry v v.d 3 (fun _ => 0) with | .done d => decide ((apqOf d v.core 3).snext = 1) | _ => false

theorem witness_CrossLaneResults : Issue' [
    (.shfl (wa (.v 20) (.v 9) (.pos 1) (.v 0) 0x42), plain, pops [.v 9, .pos 1]), alu .lpush 0 2,
    (.lpush (wa (.s 20) (.v 9) (.v 10) (.v 0) 0), plain, pops [.v 9, .v 10]),
    (.lpush (wa (.b 3) (.v 9) (.v 10) (.v 0) 0), plain, pops [.v 9, .v 10]),
    (.lpush (wa (.q 3) (.v 9) (.v 10) (.v 0) 0), demo id storeStream, takesEntry),
    (.ballot (wa (.q 3) (.v 3) (.v 0) (.v 0) 0), demo id storeStream, takesEntry),
    (.ballot (wa (.s 20) (.v 3) (.v 0) (.v 0) 0), plain, any), (.ballot (wa (.v 20) (.v 3) (.v 0) (.v 0) 1), plain, any),
    alu .wred 2 1, alu .wscan 0x82 1, alu .bcast 0 2, alu .matchLanes 0 1, alu .bsel 0 3] := issue_of (by decide +kernel)

/-- A PAIR of an integer and an FP32 half, the second under another guard. -/
def pairDemo : WordPair :=
  { h1 := { hop := 1, d := 11, a := .v 9, b := .v 10, g := 7 }, h2 := { hop := 19, d := 12, a := .v 9, b := .v 10, g := 1 } }

theorem witness_PairResults : Issue' [(.pair pairDemo, plain, any)] := issue_of (by decide +kernel)

theorem witness_ScalarResults : Issue' [sca .sadd 2 2, sca .ssub 3 2, sca .smul 2 2, sca .smulh 7 2, sca .smad 2 3,
    sca .smin 6 2, sca .smax 7 2, sca .sshl 2 2, sca .sshr 3 2, sca .ssar 2 2, sca .sblut 0x96 3, sca .smov 0 1,
    (.smovi (wi (.s 20) (.v 0) 5), plain, any), (.smovh (wi (.b 3) (.v 0) 5), plain, any),
    (.saddi (wi (.s 20) (.s 9) 5), plain, any), sca .slea 7 3,
    (.readlane (wa (.s 20) (.v 127) (.s 10) (.v 0) 0), plain, any),
    (.writelane (wa (.v 127) (.s 9) (.s 10) (.v 0) 0), plain, any)] := issue_of (by decide +kernel)

/-- RDSR of a register of each class that a plain wave may read, to a v and to an s register; WRSR of each register that
it may write; RDCNT of each counter. -/
theorem witness_SpecialRegisterResults : Issue' (([0x002, 0x005, 0x006, 0x007, 0x0C1].flatMap fun c =>
      [(.rdsr (wi (.v 11) (.v 0) c), plain, any), (.rdsr (wi (.s 11) (.v 0) c), plain, any)]) ++
    ([0x000, 0x001, 0x040, 0x0C0].map fun c => (.wrsr (wi (.v 0) (.s 11) c), plain, any)) ++
    [(.wrsr (wi (.v 0) (.v 11) 2), plain, any)] ++
    ([0x100, 0x102, 0x140, 0x141, 0x142].map fun c => (.wrsr (wi (.v 0) (.s 11) c), demo id privileged, any)) ++
    ((List.range 5).map fun c => (.rdcnt (wi (.s 11) (.v 0) (BitVec.ofNat 32 c)), plain, any))) :=
  issue_of (by decide +kernel)

end Sys2Proof.Tests

namespace Sys2Proof.Tests

open Sys2Proof Sys2Proof.Machine
set_option Elab.async false

/-! ## Witnesses: memory. The lanes' addresses lie on the page that `dataTlb` maps. -/

/-- Memory with these words at an address. -/
def withWords (a : Nat) (ws : List Nat) (d : Device) : Device :=
  { d with st := { d.st with mem := memPut d.st.mem a (ws.flatMap (leBytes 8)) } }

/-- A record of 16 elements of FP32 at 0x20200. -/
def withRecord : Device → Device :=
  withWords 0x20100 [0x20200, 0, 16, 0, 2 * 2 ^ 26 + 4 * 2 ^ 23]

/-- A format M word with SZ 2, at s8 + v10. -/
def wm (d b : Operand) (sz : BitVec 3) (u : Bool) (ch : BitVec 2) : WordM :=
  { hd := always, d := d, a := .s 8, b := b, off := 0, sz := sz, sx := false, tl := { ord := 0, sco := 0, u := u, ch := ch } }

/-- A format MA word. -/
def wma (d : Operand) (aop : BitVec 4) (sco : BitVec 3) : WordMA :=
  { hd := always, d := d, a := .s 8, b := .v 10, c := .v 9, aop := aop, sz := 2, sg := false
    tl := { ord := 0, sco := sco, u := false, ch := 0 } }

/-- A format B word on record 0, component X. -/
def wb (d : Operand) : WordB :=
  { hd := always, d := d, a := .v 10, rc := 0, cm := 1, am := 0, sub := 0, tl := { ord := 0, sco := 0, u := false, ch := 0 } }

/-- A word of the scratchpad from offset 0. -/
def spadWave (w : Wave) : Wave := sput 8 0 w

/-- The checks of a word's lanes stand. -/
def lanesFit (n : Need) (store : Bool) (tl : MemTail) (as : View → List Nat → List (Nat × Nat × Nat)) : View → Mask → Bool :=
  fun v ex => let once := tl.u || v.uni
    match checkLanes v n .plain (if once then some ex else none) (as v (movers v once ex store)) with
    | .ok _ => true
    | _ => false

/-- The addresses of a format M word. -/
def mAddrs (w : WordM) (v : View) (ls : List Nat) : List (Nat × Nat × Nat) := ls.map fun l => (l, addrOf v w.a w.b w.off l, 2 ^ w.sz.toNat)

/-- The addresses of a format MA word. -/
def maAddrs (w : WordMA) (v : View) (ls : List Nat) : List (Nat × Nat × Nat) := ls.map fun l => (l, addrOf v w.a w.b 0 l, 2 ^ w.sz.toNat)

/-- A word of format M that reads or writes what its statement supposes. -/
def gm (mk : WordM → Instr) (w : WordM) (rd wr store : Bool) : Instr × State × (View → Mask → Bool) :=
  (mk w, plain, fun v ex => !memHeld v w.tl rd wr &&
    lanesFit { rd := !store, w := store, x := false } store w.tl (mAddrs w) v ex)

/-- The same for the scratchpad. -/
def gs (mk : WordM → Instr) (w : WordM) (rd wr store : Bool) : Instr × State × (View → Mask → Bool) :=
  (mk w, demo spadWave id, fun v ex => !memHeld v w.tl rd wr && (checkSpad v (decide (w.tl.ch = 1)) store (!store)
    (if w.tl.u || v.uni then some ex else none) ((movers v (w.tl.u || v.uni) ex store).map fun l =>
      (l, (spadAt v w.tl (addrOf v w.a w.b w.off l)).1, (spadAt v w.tl (addrOf v w.a w.b w.off l)).2, 2 ^ w.sz.toNat))).isNone)

/-- Loads of each size of register group, lane by lane and uniform; of this core's scratchpad and of another's. -/
theorem witness_LoadResults : Issue' [gm .ld (wm (.v 20) (.v 10) 0 false 0) true false false,
    gm .ld (wm (.v 20) (.v 10) 4 true 0) true false false, gm .ldc (wm (.v 20) (.v 10) 2 false 0) true false false,
    gm .ldrsv (wm (.v 20) (.v 10) 3 false 0) true false false, gs .lds (wm (.v 20) (.v 10) 2 false 0) true false false,
    gm .sld (wm (.s 20) (.pos 0) 4 false 0) true false false] := issue_of (by decide +kernel)

/-- A store of each kind, a uniform one among them. -/
theorem witness_StoreResults : Issue' [gm .st (wm (.v 9) (.v 10) 2 false 0) false true true,
    gm .st (wm (.v 20) (.v 10) 4 true 0) false true true, gs .sts (wm (.v 9) (.v 10) 2 false 0) false true true,
    (.stcnd (wma (.v 20) 0 0), plain, fun v ex => !memHeld v (wma (.v 20) 0 0).tl true true &&
      lanesFit { rd := true, w := true, x := false } true (wma (.v 20) 0 0).tl (maAddrs (wma (.v 20) 0 0)) v ex)] :=
  issue_of (by decide +kernel)

/-- The stores of the frame's statement complete. -/
theorem witness_StoreFrame : Issue' [gm .st (wm (.v 9) (.v 10) 2 false 0) false true true,
    gs .sts (wm (.v 9) (.v 10) 2 false 0) false true true] ∧
    (∃ s', exec (.st (wm (.v 9) (.v 10) 2 false 0)) plain = .next s') ∧
    ∃ s', exec (.sts (wm (.v 9) (.v 10) 2 false 0)) (demo spadWave id) = .next s' :=
  ⟨issue_of (by decide +kernel), ⟨_, rfl⟩, ⟨_, rfl⟩⟩

theorem witness_AtomicResults : Issue' [
    (.atom (wma (.v 20) 0 1), plain, fun v ex => !memHeld v (wma (.v 20) 0 1).tl true true &&
      lanesFit { rd := true, w := true, x := false } true (wma (.v 20) 0 1).tl (maAddrs (wma (.v 20) 0 1)) v ex),
    (.red (wma (.v 0) 13 1), plain, fun v ex => !memHeld v (wma (.v 0) 13 1).tl false true &&
      lanesFit { rd := true, w := true, x := false } true (wma (.v 0) 13 1).tl (maAddrs (wma (.v 0) 13 1)) v ex),
    (.atoms (wma (.v 20) 7 0), demo spadWave id, fun v ex => !memHeld v (wma (.v 20) 7 0).tl true true &&
      (checkSpad v false true true none ((movers v false ex true).map fun l =>
        (l, (spadAt v (wma (.v 20) 7 0).tl (addrOf v (.s 8) (.v 10) 0 l)).1,
          (spadAt v (wma (.v 20) 7 0).tl (addrOf v (.s 8) (.v 10) 0 l)).2, 4))).isNone)] := issue_of (by decide +kernel)

/-- A record word whose record reads as `withRecord` wrote it, its element in extent and its lanes sound. -/
def recordFits (w : WordB) (store : Bool) (v : View) (ex : Mask) : Bool :=
  match readRecord v w.rc.toNat ex with
  | .stop _ => false
  | .ok r _ =>
    let es := (movers v false ex false).map fun l => (l, laneElem v w r l)
    (firstBad (recordChecks w r)).isNone && !memHeld v w.tl (!store) store && (es.all fun e => e.2.inside) &&
      (match checkLanes v { rd := !store, w := store, x := false } (recordReader r) none
          (es.map (fun e => (e.1, e.2.va, elemBytes r.fmt)) ++ scaleAccess r es) with
        | .ok _ => true
        | _ => false)

theorem witness_RecordAccessResults : Issue' [(.ldb (wb (.v 20)), demo id withRecord, recordFits (wb (.v 20)) false),
    (.stb (wb (.v 20)), demo id withRecord, recordFits (wb (.v 20)) true)] := issue_of (by decide +kernel)

/-- A format M word of the fence and cache families. -/
def wf (b : Operand) (sco : BitVec 3) (ch : BitVec 2) : WordM :=
  { hd := always, d := .v 0, a := if b = .v 0 then .v 0 else .s 8, b := b, off := 0, sz := 0, sx := false
    tl := { ord := 0, sco := sco, u := false, ch := ch } }

theorem witness_FenceAndCacheResults : Issue' [(.fence (wf (.v 0) 0 0), plain, any), (.fence (wf (.v 0) 4 0), plain, any),
    (.pref (wf (.v 10) 0 0), plain, any),
    (.cwb (wf (.v 10) 4 0), plain, fun v ex => decide (storesOut v.w < 63) &&
      lanesFit { rd := false, w := false, x := false, bare := true } false (wf (.v 10) 4 0).tl (mAddrs (wf (.v 10) 4 0)) v ex),
    (.cinv (wf (.v 10) 0 0), plain, fun v ex =>
      lanesFit { rd := false, w := false, x := false, bare := true } false (wf (.v 10) 0 0).tl (mAddrs (wf (.v 10) 0 0)) v ex),
    (.cinv (wf (.v 0) 0 1), plain, any)] := issue_of (by decide +kernel)

end Sys2Proof.Tests

namespace Sys2Proof.Tests

open Sys2Proof Sys2Proof.Machine
set_option Elab.async false

/-! ## Witnesses: synchronisation, queues, alcoves, copies, launches -/

/-- The arrival word of a word's operand is found. -/
def arFits (rd wr : Bool) (op : Operand) (f : View → ArLoc → Bool) : View → Mask → Bool := fun v ex =>
  match arFind v ex (src64 v op) rd wr with
  | .at loc => f v loc
  | .stop _ => false

/-- An arrival word in memory and one in scratchpad; ARWAIT finds its generation changed, or waits. -/
theorem witness_ArrivalResults : Issue' [
    (.arinit (we (.s 8) (.s 9) (.v 0) (.v 0) 0 false |> fun w => { w with tok := 0 }), plain,
      arFits false true (.s 8) fun v _ => decide (storesOut v.w < 63)),
    (.arrive (we (.s 8) (.pos 16) (.v 0) (.v 0) 0 true), plain, arFits true true (.s 8) fun v loc =>
      decide (storesFor false v.w = 0 ∧ storesFor (decide (arPorts v.d loc ≠ [])) v.w = 0)),
    (.arrive (we (.s 8) (.s 9) (.v 0) (.v 0) 0 true), demo (sput 8 8) id,
      arFits true true (.s 8) fun v loc =>
        decide (storesFor false v.w = 0 ∧ storesFor (decide (arPorts v.d loc ≠ [])) v.w = 0)),
    (.arwait (we (.s 8) (.v 0) (.v 0) (.v 0) 0 false |> fun w => { w with tok := 0 }), plain,
      arFits true false (.s 8) fun v loc => decide ((arGen v.d loc).extractLsb' 0 16 = (src64 v (.s 8)).extractLsb' 48 16) &&
        decide (v.w.pos.clpos ≠ 0 ∨ field v.hdr 56 4 = 0)),
    (.arwait (we (.s 8) (.s 20) (.v 0) (.v 0) 1 false |> fun w => { w with tok := 0 }), demo (sput 8 0x1000000020000) id,
      arFits true false (.s 8) fun v loc => decide ((arGen v.d loc).extractLsb' 0 16 ≠ (src64 v (.s 8)).extractLsb' 48 16))] ∧
    (leBytes 16 0).length = 16 := ⟨issue_of (by decide +kernel), by decide +kernel⟩

/-- A word of format E with no token. -/
def we0 (x y z w : Operand) (sub : BitVec 7) : WordE := { we x y z w sub false with tok := 0 }

/-- A queue bound to slot 0. -/
def withQueue (d : Device) : Device := modApq d 0 3 fun q => { q with slot := some 0, gbnd := true, gcount := 2 }

/-- A queue free, and one that is the wave's own. -/
theorem witness_QueueResults : Issue' [
    (.qgath (we0 (.s 8) (.s 9) (.v 10) (.s 11) 0), plain, fun v _ => decide ((apqOf v.d v.core 0).slot = none)),
    (.qgath (we0 (.s 8) (.s 9) (.v 10) (.s 11) 7), demo id withQueue,
      fun v _ => decide ((apqOf v.d v.core 3).slot = some v.slot)),
    (.qscat (we0 (.s 8) (.s 9) (.v 10) (.s 11) 3), demo id withQueue,
      fun v _ => decide ((apqOf v.d v.core 3).slot = some v.slot)),
    (.qflush (we (.v 0) (.v 0) (.v 0) (.v 0) 3 true), demo id withQueue, any),
    (.qstat (we0 (.s 20) (.v 0) (.v 0) (.v 0) 3), demo id withQueue, any)] := issue_of (by decide +kernel)

/-- The wave names alcove 5 in s10, with a descriptor in s9 and a backing address in s11. -/
def alcWave (w : Wave) : Wave := sput 11 0x30000 (sput 10 5 (sput 9 0 w))

/-- Alcove 5, in entry 0, resident on core 0. -/
def alcEntry : Alcove := { blankAlcove with name := 5, state := 1, life := 1, backing := 0x30000, offset := 8 }

/-- A die with alcove 5, changed. -/
def withAlcove (f : Alcove → Alcove) (d : Device) : Device := { d with alcoves := [(0, f alcEntry)] }

/-- A die with alcove 5 attached to the block. -/
def withAttached (d : Device) : Device := attachBlock (withAlcove id d) 1 0 false

/-- The wave's alcove exists, idle. -/
def alcIdle (p : View → Nat → Bool) : View → Mask → Bool := fun v _ => !attWaits v.w &&
  match alcFind v.d v.w.ctx (src64 v (.s 10)) with
  | none => false
  | some i => !(alcOf v.d i).busy && p v i

/-- Made, attached at once or after a wait, sealed, released with and without an entry, evicted in each state, queried. -/
theorem witness_AlcoveResults : Issue' [
    (.alcmake (we0 (.s 10) (.s 9) (.s 11) (.v 0) 0), demo alcWave id, fun v _ => !attWaits v.w &&
      (alcFind v.d v.w.ctx (src64 v (.s 10))).isNone &&
      (leastFrom (fun i => (tblFind v.d.alcoves i).isNone) 4096 0).isSome &&
      let t := alcDesc (src64 v (.s 9))
      decide (t.2.2.2 + t.2.2.1 < v.blk.ngran) &&
        (List.range (t.2.2.1 + 1)).all fun k => ownsGranule v.blk (v.blk.sgran + t.2.2.2 + k)),
    (.alcatt (we0 (.s 10) (.s 20) (.v 0) (.v 0) 0), demo alcWave (withAlcove id), fun v _ => !attWaits v.w &&
      match attachTry v.d v.w.block v.blk (src64 v (.s 10)) with | .done _ _ => true | _ => false),
    (.alcatt (we0 (.s 10) (.s 20) (.v 0) (.v 0) 0), demo alcWave (withAlcove fun a => { a with state := 2 }),
      fun v _ => !attWaits v.w &&
      match attachTry v.d v.w.block v.blk (src64 v (.s 10)) with | .wait _ => true | _ => false),
    (.alcseal (we0 (.s 10) (.v 0) (.v 0) (.v 0) 0), demo alcWave withAttached,
      alcIdle fun v i => attachedTo v.blk i),
    (.alcrel (we0 (.s 10) (.v 0) (.v 0) (.v 0) 1), demo alcWave withAttached, alcIdle fun _ _ => true),
    (.alcrel (we0 (.s 10) (.v 0) (.v 0) (.v 0) 0), plain, fun v _ => (alcFind v.d v.w.ctx (src64 v (.s 10))).isNone),
    (.alcevict (we (.s 10) (.v 0) (.v 0) (.v 0) 0 true), demo alcWave (withAlcove id),
      alcIdle fun v i => decide ((alcOf v.d i).state ≠ 2 ∧ (alcOf v.d i).attach = 0)),
    (.alcevict (we (.s 10) (.v 0) (.v 0) (.v 0) 0 true), demo alcWave (withAlcove fun a => { a with state := 2 }),
      alcIdle fun v i => decide ((alcOf v.d i).state = 2)),
    (.alcevict (we (.s 10) (.v 0) (.v 0) (.v 0) 0 true), plain, fun v _ => (alcFind v.d v.w.ctx (src64 v (.s 10))).isNone),
    (.alcqry (we0 (.s 10) (.s 20) (.v 0) (.v 0) 0), demo alcWave (withAlcove id), any)] := issue_of (by decide +kernel)

/-- A copy of 256 bytes: source s9, shape s12 and s13, record number s14. -/
def cpyWave (w : Wave) : Wave := sput 12 256 (sput 9 0x20400 w)

/-- The queue, the lock table, the ranges and the locks admit the spans of a copy. -/
def copyFits (w : WordE) (bad : View → Mask → Bool) (spans : View → List Span) : View → Mask → Bool := fun v ex =>
  let q := cpQueue w
  !bad v ex && (spans v).all (fun x => !spanBad x.at' x.last) && decide ((cqOf (hallOf v.d v.hall) q).length < 16) &&
    lockRoom (hallOf v.d v.hall) (spans v).length && (firstFault (spanRange v) (spans v)).isNone &&
    (firstFault (spanBreach v fun l => decide (l.queue = some q)) (spans v)).isNone

/-- Each copy word, a physical copy and a reduction among them, and a signal. -/
theorem witness_CopyResults : Issue' [
    (.cpy (we (.s 8) (.s 9) (.s 12) (.v 0) 3 true), demo cpyWave id, copyFits (we (.s 8) (.s 9) (.s 12) (.v 0) 3 true)
      (fun v _ => decide (shLen (cpSh0 v (we (.s 8) (.s 9) (.s 12) (.v 0) 3 true)) = 0))
      fun v => copySpans v 0x30 (we (.s 8) (.s 9) (.s 12) (.v 0) 3 true)),
    (.cpyr (we (.s 8) (.s 9) (.s 12) (.v 0) 0x10 true), demo cpyWave id, copyFits (we (.s 8) (.s 9) (.s 12) (.v 0) 0x10 true)
      (fun v _ => decide (shLen (cpSh0 v (we (.s 8) (.s 9) (.s 12) (.v 0) 0x10 true)) % 4 ≠ 0))
      fun v => copySpans v 0x31 (we (.s 8) (.s 9) (.s 12) (.v 0) 0x10 true)),
    (.cpyf (we (.s 8) (.s 9) (.s 12) (.v 0) 0 true), demo cpyWave id, copyFits (we (.s 8) (.s 9) (.s 12) (.v 0) 0 true)
      (fun v _ => decide (shLen (cpSh0 v (we (.s 8) (.s 9) (.s 12) (.v 0) 0 true)) = 0))
      fun v => copySpans v 0x32 (we (.s 8) (.s 9) (.s 12) (.v 0) 0 true)),
    (.cpyx (we (.s 8) (.s 14) (.s 12) (.v 0) 0 true), demo cpyWave withRecord, copyFits (we (.s 8) (.s 14) (.s 12) (.v 0) 0 true)
      (fun v ex => decide (shLen (cpSh0 v (we (.s 8) (.s 14) (.s 12) (.v 0) 0 true)) % 256 ≠ 0) ||
        match readRecord v (field (src64 v (.s 14)) 0 12) ex with | .ok _ _ => false | _ => true)
      fun _ => [{ at' := .virt 0x20000, last := 255, dest := true }, { at' := .virt 0x20000, last := 255, dest := false }]),
    (.signal { we (.s 8) (.s 9) (.v 0) (.v 0) 0 true with sco := 4 }, plain, copyFits (we (.s 8) (.s 9) (.v 0) (.v 0) 0 true)
      (fun _ _ => false) fun v => [{ at' := eaOf v (.s 8), last := 7, dest := true }])] := issue_of (by decide +kernel)

/-- Queue 255 takes a child; a uniform LAUNCH and one for each lane. -/
theorem witness_LaunchResults : Issue' ([false, true].map fun u =>
    (.launch { we0 (.s 8) (.v 10) (.neg 1) (.v 0) 0 with u := u },
      demo id fun d => modQueue d 255 fun k => { k with en := true }, fun v ex => decide (storesFor false v.w = 0) &&
        decide ((badChildren v.d [] ((movers v (u || v.uni) ex true).map fun l =>
          ({ lane := l, queue := (src v [] (.neg 1) l).toNat % 256
             va := ((src64 v (.s 8)).toNat + (src v [] (.v 10) l).toNat) % 2 ^ 48 } : Child))).length = 0))) :=
  issue_of (by decide +kernel)

end Sys2Proof.Tests

namespace Sys2Proof.Tests

open Sys2Proof Sys2Proof.Machine
set_option Elab.async false

/-! ## Witnesses: matrix, regroup and weights -/

/-- Operands A in s10 and B in s12 (global memory), an image place in s14 (scratchpad), a descriptor of E4M3 by E4M3 with
K = 32 in s20, and FMTD's third operand in s16. -/
def matWave (w : Wave) : Wave :=
  sput 16 31 (sput 21 (BitVec.ofNat 64 (31 * 2 ^ 54)) (sput 20 0xBB00000000000000 (sput 14 0 (sput 12 0x21000 (sput 10 0x20000 w)))))

/-- A format X word on tile 1. -/
def wx (a b c : Operand) (sub : BitVec 8) (src cm : BitVec 2) : WordX :=
  { hd := always, mt := 1, mt2 := 0, a := a, b := b, c := c, tok := if cm = 1 then 0 else 3, cm := cm, sub := sub, src := src }

/-- The table, the header, the ranges and the locks admit a word's entry. -/
def entryFits (opc : BitVec 8) (w : WordX) (desc : Bool) : View → Mask → Bool := fun v ex =>
  match (if opc = 0x04 then readHeader v ex w else .ok ([], v.d)) with
  | .error _ => false
  | .ok (img, _) =>
    let spans := entrySpans (newEntry v opc w desc img) v.blk.acct
    !matFull (hallOf v.d v.hall) [] && !matFull (hallOf v.d v.hall) spans && (firstFault (spanRange v) spans).isNone &&
      (firstFault (spanBreach v fun l => decide (l.queue = none ∧ l.block = v.w.block)) spans).isNone

/-- A matrix word with what its statement supposes. -/
def mat (mk : WordX → Instr) (opc : BitVec 8) (w : WordX) (desc : Bool) : Instr × State × (View → Mask → Bool) :=
  (mk w, demo matWave id, entryFits opc w desc)

/-- Each matrix word: on far and near operands, with a token, with an arrival word, with both. -/
theorem witness_MatrixWordResults : Issue' [
    (.fmtd (wa (.s 22) (.s 10) (.s 12) (.s 16) 0xBB), demo matWave id, any),
    mat .mma 0x02 (wx (.s 10) (.s 12) (.s 20) 0 3 0) true, mat .mma 0x02 (wx (.s 10) (.s 12) (.s 20) 0 3 2) true,
    mat .mmas 0x03 (wx (.s 10) (.s 12) (.s 20) 1 3 1) true, mat .mmad 0x04 (wx (.s 10) (.s 12) (.s 20) 0 3 0) true,
    mat .mzero 0x08 (wx (.v 0) (.v 0) (.v 0) 0 0 0) false, mat .mld 0x09 (wx (.s 10) (.v 0) (.v 0) 0 1 0) false,
    mat .mst 0x0A (wx (.s 10) (.v 0) (.v 0) 1 1 0) false, mat .mscl 0x0B (wx (.v 0) (.s 12) (.v 0) 0 0 0) false,
    mat .mdload 0x10 (wx (.s 10) (.v 0) (.v 0) 0 1 0) false, mat .mprune 0x11 (wx (.s 10) (.s 14) (.s 20) 1 1 0) true,
    mat .mdecomp 0x12 { wx (.s 10) (.s 14) (.s 20) 1 1 0 with mt := 0 } true] := issue_of (by decide +kernel)

/-- Weight set 0 at 0x20800, set 1 absent. -/
def withSets : Device → Device := withWords 0x20200 [2 ^ 63 + 0x20800, 0]

/-- The entry of a weight word reads as valid, or not. -/
def setFits (w : WordE) (valid : Bool) : View → Mask → Bool := fun v ex =>
  match wEntry v ex w with
  | .ok (e, _) => e.getLsbD 63 == valid
  | .error _ => false

/-- A format N word. -/
def wn : WordN := { hd := always, h := .v 9, inp := .v 10, out := .v 12, ni := 1, no := 0, tok := 3, low := 0 }

/-- Weight words on a set that is valid and on one that is not; NCALL places every lane's row. -/
theorem witness_RegroupWordResults : Issue' (
    [(.ncall wn, demo id withSets, fun v ex =>
      match wEntries v none ((lanesOf v.width ex).map fun l => (l, (laneHandle v wn l).toNat)) with
      | .error _ => false
      | .ok (es, d0) => let rows := es.map fun e => rowIn d0 v.hall v.w.ctx (e.2.setWidth 48) (laneRow v wn e.1)
        (es.all fun e => e.2.getLsbD 63) && (withUnit d0 v.hall (placeRows rows)).isSome &&
          !laterRows (hallOf v.d v.hall) v.core &&
          rows.all fun x => (lockHit v.d v.hall (fun _ => false) 0 v.w.ctx x.span.1 x.span.2 false).isNone)] ++
    (([(Operand.pos 0, true), (.pos 1, false)] : List (Operand × Bool)).flatMap fun h =>
      [(.wpin (we h.1 (.v 0) (.v 0) (.v 0) 0 true), demo id withSets, setFits (we h.1 (.v 0) (.v 0) (.v 0) 0 true) h.2),
       (.wpref (we h.1 (.v 0) (.v 0) (.v 0) 0 true), demo id withSets, setFits (we h.1 (.v 0) (.v 0) (.v 0) 0 true) h.2),
       (.wunpin (we h.1 (.v 0) (.v 0) (.v 0) 1 true), demo id withSets, setFits (we h.1 (.v 0) (.v 0) (.v 0) 1 true) h.2)]) ++
    [(.wstat (we0 (.s 9) (.s 22) (.v 0) (.v 0) 0), demo id withSets, setFits (we0 (.s 9) (.s 22) (.v 0) (.v 0) 0) true)]) :=
  issue_of (by decide +kernel)

/-! ## Witnesses: graphics -/

/-- A pixel wave's state: its draw's target is a record of FP32. -/
def pixWave (w : Wave) : Wave := { w with gfx := { w.gfx with pix := some { tris := [], lanes := [] } } }

/-- A geometry wave that has emitted three vertices. -/
def geoWave (w : Wave) : Wave :=
  { w with gfx := { w.gfx with dsb := 0x20000, verts := List.replicate 3 { pos := [], attrs := [] } } }

/-- A ray traced, a field of a hit read, a candidate settled. -/
theorem witness_RayWordResults : Issue' [
    (.rtrace (we (.v 8) (.s 8) (.v 20) (.v 0) 7 true), plain,
      fun v ex => (lanesOf v.width ex).all fun l => !(rayOf v.w l).flying),
    (.rtget (wa (.v 20) (.v 0) (.v 0) (.v 0) 8), plain,
      fun v ex => (lanesOf v.width ex).all fun l => !(rayOf v.w l).flying),
    (.rtaccept (wa (.v 20) (.v 9) (.v 0) (.v 0) 0x13), plain, pops [.v 9])] := issue_of (by decide +kernel)

/-- A texture word of one level on record 0. -/
def wt (mk : WordB → Instr) (p : WordB → View → Mask → Bool) : Instr × State × (View → Mask → Bool) :=
  (mk (wb (.v 20)), demo id withRecord, p (wb (.v 20)))

/-- The records and taps of TEX are read. -/
def texFits (w : WordB) : View → Mask → Bool := fun v ex => decide (loadsOut v.w < 63) && unitReady v.d 2 v.hall v.w.ctx &&
  match texRecords v ex (w.sub.toNat / 4 + 1) w.rc.toNat with
  | .ok (r0 :: rs, _) =>
    (firstBad [groupCheck w.d (recordRegs r0 w.cm) 47, groupCheck w.a (r0.dims + 1) 39]).isNone &&
    let taps := (lanesOf v.width ex).flatMap fun l =>
      (texLevels 1 (w.sub.getLsbD 1) (texLambda v w r0 l)).flatMap fun lv =>
        let r := (r0 :: rs).getD lv.1 r0
        (levelTaps (w.sub.getLsbD 0) w.am lv.1 r (texCoord v w r.dims l) lv.2).map fun t =>
          ({ lane := l, tap := t, rc := r, elem := elemAt r t.x t.y t.z } : TapAt)
    match readLevels v w taps (List.range 1) v.d with | .ok _ => true | .error _ => false
  | _ => false

theorem witness_TextureResults : Issue' [wt .tex texFits, wt .texld fun w => recordFits w false,
    wt (fun w => .texq { w with a := .v 0 }) fun w v ex => decide (loadsOut v.w < 63) &&
      match readRecord v w.rc.toNat ex with | .ok _ _ => true | _ => false] := issue_of (by decide +kernel)

theorem witness_ShaderWordResults : Issue' [
    (.interp (wa (.v 20) (.pos 0) (.v 9) (.v 10) 15), plain, fun v ex => pops [.pos 0, .v 9, .v 10] v ex &&
      (checkSpad v false false true none ([0, 1, 2].flatMap fun k =>
        (lanesOf v.width ex).map fun l => (l, v.core, 64 * k + 60, 4))).isNone),
    (.ddx (wa (.v 20) (.v 9) (.v 0) (.v 0) 8), plain, pops [.v 9]),
    (.ddy (wa (.v 20) (.v 9) (.v 0) (.v 0) 0x18), plain, pops [.v 9]),
    (.expc (wa (.v 0) (.v 9) (.v 0) (.v 0) 0), demo pixWave id, fun v _ => decide (storesOut v.w < 63) && v.w.gfx.pix.isSome),
    (.expz (wa (.v 0) (.v 9) (.v 0) (.v 0) 0), demo pixWave id,
      fun v ex => decide (storesOut v.w < 63) && v.w.gfx.pix.isSome && pops [.v 9] v ex),
    (.discard (wa (.v 0) (.v 0) (.v 0) (.v 0) 0), demo pixWave id, any),
    (.emitv (wa (.v 20) (.v 8) (.v 12) (.v 0) 3), plain, any),
    (.emitp (wa (.v 0) (.pos 0) (.pos 1) (.pos 2) 0), demo geoWave id, fun v ex => pops [.pos 0, .pos 1, .pos 2] v ex &&
      decide (v.w.gfx.dsb ≠ 0) && decide (v.w.gfx.dsb.toNat % 128 = 0) && decide (2 < v.w.gfx.verts.length))] :=
  issue_of (by decide +kernel)

end Sys2Proof.Tests

namespace Sys2Proof.Tests

open Sys2Proof Sys2Proof.Machine
set_option Elab.async false

/-! ## Witnesses: control transfer, traps, privileged words, clause headers -/

/-- A state as a step leaves it. -/
def after (i : Instr) (s : State) : State := match exec i s with | .next t => t | _ => s

theorem witness_BranchResults : Issue' [(.bra (wk (.v 0) (.v 0) (-64) 0), plain, any),
    (.jmp (wk (.s 8) (.v 0) 64 0), plain, any), (.brv { wk (.v 0) (.v 0) (-64) 0 with hd := { always with g := { neg := true, p := 1 } } }, plain, any),
    (.jmpi (wk (.s 8) (.v 10) 64 0), plain, any)] := issue_of (by decide +kernel)

/-- A call's lanes may enter. -/
def mayEnter (v : View) (gs : List (VA × Mask)) (f : Nat) : Bool :=
  decide (v.p.depth ≠ 0xFFFF#16) &&
    gs.all fun g => (lanesOf v.width g.2).all fun l => decide (wbOf v.w l + f + 120 ≤ v.w.nstk + oldOf v.w l)

/-- The links that a call writes, or a return reads, are not pending. -/
def linksRead (v : View) (ex : Mask) (top : Nat → Nat) : Bool :=
  (lanesOf v.width ex).all fun l => [1, 2].all fun k => !(pendingLocs v.w).contains (.rf (stackWord v.w l (top l - k)))

/-- The state after a CALL: every lane one level deep, its link on its stack. -/
def called : State :=
  let s := after (.call (wk (.v 0) (.v 0) 64 1)) plain
  { s with dev := modWave s.dev 0 0 fun w => { w with pos := { w.pos with hdr := some 0 } } }

/-- A call by address and an indirect one; the links that a lane's entry writes; a return, and a return at depth 0. -/
theorem witness_CallAndReturnResults : Issue' [
    (.call (wk (.v 0) (.v 0) 64 1), plain, fun v ex => !ncallOut v.w && linksRead v ex (fun l => wbOf v.w l + 8) &&
      mayEnter v (byTarget v ex fun _ => v.fall + BitVec.signExtend 48 (64 : W32)) 8),
    (.calli (wk (.s 8) (.v 10) 0 1), plain, fun v ex => !ncallOut v.w && linksRead v ex (fun l => wbOf v.w l + 8) &&
      mayEnter v (byTarget v ex (kTarget v (wk (.s 8) (.v 10) 0 1) true)) 8),
    (.nop (wk (.v 0) (.v 0) 0 0), plain, fun v _ => (waveOf v.d v.core v.slot).isSome &&
      decide (wbOf v.w 31 + 112 < 2 ^ 32) &&
      decide (stackWord v.w 31 (wbOf v.w 31 + 112 - 2) ≠ stackWord v.w 31 (wbOf v.w 31 + 112 - 1))),
    (.ret (wk (.v 0) (.v 0) 0 0), called, fun v ex => !ncallOut v.w && decide (v.p.depth ≠ 0) && linksRead v ex (wbOf v.w) &&
      (lanesOf v.width ex).all fun l => decide (oldOf v.w l + 2 ≤ wbOf v.w l) && decide (1 ≤ linkFrame v l) &&
        decide (linkFrame v l ≤ 112) && decide (oldOf v.w l + linkFrame v l ≤ wbOf v.w l)),
    (.ret (wk (.v 0) (.v 0) 0 0), plain, fun v ex => !ncallOut v.w && decide (v.p.depth = 0) && linksRead v ex (wbOf v.w))] :=
  issue_of (by decide +kernel)

/-- Token 3 pending. -/
def tokWave (w : Wave) : Wave := { w with tokPend := 8 }

theorem witness_PathWordResults : Issue' [(.exit (wk (.v 0) (.v 0) 0 0), plain, any), (.yield (wk (.v 0) (.v 0) 0 0), plain, any),
    (.nop (wk (.v 0) (.v 0) 0 0), plain, any),
    (.waitk (wk (.v 0) (.v 0) 0xFFFF 0), plain, fun v _ => decide (v.w.tokPend &&& 0xFFFF = 0)),
    (.waitk (wk (.v 0) (.v 0) 8 0), demo tokWave id, fun v _ => decide (v.w.tokPend &&& 8 ≠ 0))] :=
  issue_of (by decide +kernel)

/-- A context whose tables map its addresses to the same physical ones. -/
def withTables (d : Device) : Device :=
  modCtx (withWords 0x41000 [0xDF] (withWords 0x40000 [0x41001] d)) 0 fun k => { k with l0base := 0x40000 }

/-- A wave whose frame lies in the data page, with its handlers' addresses and its level. -/
def trapWave (lvl : BitVec 2) (trvec strvec : VA) (w : Wave) : Wave :=
  { w with trap := { w.trap with trfbase := 0x20400, trvec := trvec, strvec := strvec, trlvl := lvl } }

/-- The frame of a trap word can be written. -/
def frameFits (lvl : Nat) : View → Mask → Bool := fun v _ =>
  let last (x : Wave) : Wave :=
    let y := countWord v.w.nextOp x
    { y with pos := { y.pos with yrank := y.pos.yrank || v.hdr.getLsbD 30 } }
  (frameWrite { v with d := v.put (hallWord v.d v.core) last, w := last v.w } (decide (lvl = 2) || v.priv) 0
    (List.replicate 64 0)).isSome

/-- TRAP at each level that has a handler; ERET from a handler and from a spill; BKPT with and without DBG; HALT. -/
theorem witness_TrapWordResults : Issue' [
    (.trap (wk (.v 0) (.v 0) 127 0), demo (trapWave 0 0x10000 0) withTables, frameFits 1),
    (.trap (wk (.v 0) (.v 0) 0 0), demo (trapWave 0 0 0x10000) withTables, frameFits 2),
    (.trap (wk (.v 0) (.v 0) 0 0), demo (trapWave 1 0x10000 0x10000) withTables, frameFits 2),
    (.eret (wk (.v 0) (.v 0) 0 0), demo (fun w => { trapWave 3 0x10000 0 w with
        trap := { (trapWave 3 0x10000 0 w).trap with sf := some { lanes := 1, fill := false, lvl := 0, cause := 0 } } }) withTables,
      fun v _ => match frameRead v 0x30 with | .ok _ => v.w.trap.sf.isSome | _ => false),
    (.eret (wk (.v 0) (.v 0) 0 0), demo (trapWave 1 0x10000 0) withTables, fun v _ => v.w.trap.sf.isNone &&
      decide (v.p.depth = v.w.trap.trdepth) && match frameRead v 0 with | .ok _ => true | _ => false),
    (.bkpt (wk (.v 0) (.v 0) 255 0), plain, fun v _ => !(coreOf v.d v.core).dbg.getLsbD v.slot),
    (.bkpt (wk (.v 0) (.v 0) 255 0), demo id fun d => modCore d 0 fun k => { k with dbg := 1 },
      fun v _ => (coreOf v.d v.core).dbg.getLsbD v.slot),
    (.halt (wk (.v 0) (.v 0) 0 0), demo id privileged, any)] := issue_of (by decide +kernel)

/-- The grid of block 2: 16-wide, and (to keep its record short) with no stack. -/
def otherGrid : Grid := { placeGrid' with lpb := { placeLpb with wavew := 0, stack := 0 } }

/-- A halted 16-wide wave on core 1, in block 2. -/
def otherWave : Wave := { startWave 2 { placeBlock with core := 1 } otherGrid 2 0 0 0 0 with halted := true }

/-- A die with a halted block on core 1. -/
def withOther (d : Device) : Device :=
  { privileged (withTables d) with
    grids := (2, otherGrid) :: d.grids
    blocks := (2, { placeBlock with grid := 2, core := 1 }) :: d.blocks
    cores := (1, { blankCore with waves := [(0, otherWave)] }) :: d.cores }

/-- The wave names a record or an image at 0x20400 in s8 and core 1, slot 0, in s9. -/
def sysWave (w : Wave) : Wave := sput 9 1 (sput 8 0x20400 w)

/-- A record of block 2 at 0x20400, as R214 to R216 lay it out: 2,304 bytes, core 1, slot 0, one wave of 16 lanes. -/
def withRecordOfOther (d : Device) : Device :=
  withWords (0x20400 + 8 * 192) ((List.range 16).flatMap fun i => [1779037807 - i, 0]) (
  withWords (0x20400 + 8 * 160) [65536, 65535] (withWords (0x20400 + 8 * 114) (List.replicate 16 15 ++ [0, 0, 0, 24, 0, 0, 15]) (
  withWords (0x20400 + 8 * 103) [2251799813685249] (withWords 0x20400 [2304, 549755813888, 0, 1, 0, 63, 0, 17179869184, 2304, 2304, 2304, 2304, 2304] d))))

/-- A die that holds that record and not the block. -/
def withSaved (d : Device) : Device := withRecordOfOther (removeBlock (withOther d) 2 { placeBlock with grid := 2, core := 1 })

/-- PERFC; CSLOAD of what is no image; TLBINV; a save and a restore of a block on core 1. -/
theorem witness_SystemWordResults : Issue' [
    (.perfc (wa (.s 20) (.s 10) (.v 0) (.v 0) 0), plain, any),
    (.csload (we (.s 8) (.s 9) (.v 0) (.v 0) 0 true), demo sysWave (privileged ∘ withTables), fun v _ =>
      match readImage v.d v.w.ctx 0x20400 1 with | .ok _ => true | .error _ => false),
    (.tlbinv (we (.s 8) (.s 10) (.v 0) (.v 0) 0 true), demo id privileged, fun v _ => decide (storesFor false v.w = 0)),
    (.ctxsave (we (.s 8) (.s 9) (.v 0) (.v 0) 0 true), demo sysWave withOther, fun v _ =>
      match firstBlock v.d 1 0 with
      | none => false
      | some (bid, b) => blockHalted v.d bid b)] :=
  issue_of (by decide +kernel)

theorem witness_SystemWordResults_restore : Issue' [
    (.ctxrest (we (.s 8) (.s 9) (.v 0) (.v 0) 0 true), demo sysWave withSaved, fun v _ =>
      match fetchRecord v.d v.w.ctx 0 0x20400 with
      | .ok (some r, d0) => decide (r.block.core = 1) && decide (r.block.slot0 = 0) &&
          match restoreBlock d0 r false [] with | .done _ _ => true | .wait _ => false
      | _ => false)] := issue_of (by decide +kernel)

/-- A view that a test holds of. -/
theorem view_of {d : Device} {p : View → Bool} (h : (match view d with | none => false | some v => p v) = true) :
    ∃ v, view d = some v ∧ p v = true := by
  cases hv : view d with
  | none => rw [hv] at h; cases h
  | some v => rw [hv] at h; exact ⟨v, rfl, h⟩

/-- What the statement on clause headers supposes. -/
def headerFits (h : Header) (v : View) : Bool :=
  v.w.arw.isNone && !v.w.halted && !(v.w.pos.yieldDue && decide (v.w.trap.trlvl = 0) && decide (v.w.pos.clpos = 0)) &&
    !headerBad h &&
    (match scanWords v h ((List.range (h.count.toNat + 1)).drop v.w.pos.clpos.toNat) with | .clear => true | _ => false) &&
    (decide (v.w.pos.clpos ≠ 0) || decide (v.w.tokPend &&& h.waitk = 0 ∧ v.w.tokOrph &&& h.waitk = 0 ∧
      (h.waitld = 15 ∨ loadsOut v.w ≤ h.waitld.toNat) ∧ (h.waitst = 15 ∨ storesOut v.w ≤ h.waitst.toNat)) &&
      (!h.waitar || !isPending v.w (.s 63) && decide ((sget v.w 63).extractLsb' 0 3 = 0) &&
        match arFind v v.active (sget v.w 63) true false with
        | .at loc => decide ((arGen v.d loc).extractLsb' 0 16 ≠ (sget v.w 63).extractLsb' 48 16)
        | .stop _ => false))

/-- A header whose waits are met, one partway through its clause whose waits are not asked, and one that an arrival word
whose generation has changed lets begin. -/
theorem witness_ClauseHeaderResults :
    (∃ v, view plain.dev = some v ∧ headerFits
      { cls := 0, count := 15, waitk := 8, waitld := 0, waitst := 15, waitar := false, yld := false, uni := true, res := 0 } v = true) ∧
    (∃ v, view (demo (fun w => { w with tokPend := 8, pos := { w.pos with clpos := 15, hdr := none } }) id).dev = some v ∧ headerFits
      { cls := 6, count := 15, waitk := 8, waitld := 0, waitst := 0, waitar := true, yld := true, uni := false, res := 0 } v = true) ∧
    ∃ v, view (demo (sput 63 0x1000000020000) id).dev = some v ∧ headerFits
      { cls := 0, count := 0, waitk := 8, waitld := 0, waitst := 15, waitar := true, yld := false, uni := false, res := 0 } v = true :=
  ⟨view_of (by decide +kernel), view_of (by decide +kernel), view_of (by decide +kernel)⟩

end Sys2Proof.Tests

namespace Sys2Proof.Tests

open Sys2Proof Sys2Proof.Machine
set_option Elab.async false

/-! ## Witnesses: the steps of other agents. Each line of a list is one clause's hypotheses at one state. -/

/-- Every condition of a list holds. -/
def Met (l : List Bool) : Prop := l.all id = true

/-- An operation pending in the wave, number 1. -/
def opWave (kind : OpKind) (tok : Option Nat) (args : List W64) (w : Wave) : Wave := pushOp kind none [] tok 0 args w

/-- The wave has that operation. -/
def hasOp (kind : OpKind) (tok : Option Nat) (args : List W64) : Bool :=
  match waveOf (demo (opWave kind tok args) id).dev 0 0 with
  | none => false
  | some w => (findOp w kind 1).isSome

/-- The arguments of an ALCATT that waits: its name, and six more. -/
def attArgs : List W64 := [5, 1, 0x10000, 0, 0, 20, 0]

/-- A die whose wave has a save of block 2 outstanding, to 0x20400. -/
def savingBlock : Device := (demo (opWave .ctxSave (some 3) [0x20400, 2]) withOther).dev

/-- CTXSAVE's record is written: nothing of the block is under way, and its place can be written. -/
def saveEnds (d : Device) : Bool :=
  let mine (x : Nat) : Bool := decide (x = 2)
  let d1 := settleOps d mine
  match waveOf d 0 0, tblFind d.blocks 2 with
  | some w, some b =>
    engineRuns d 0 && blockHalted d 2 b && !saveBusy d1 mine &&
      ((findOp w .ctxSave 1).any fun o => decide ((o.args.getD 1 0).toNat = 2) && decide ((o.args.headD 0).toNat % 2 ^ 48 = 0x20400)) &&
      match tblFind d1.grids b.grid with
      | none => false
      | some g => match engineWrite d1 w.ctx w.ctx true .plain 0x20400 (blockRecord d1 mine 2 b g)
            (copyAgent (hallOfCore b.core) true) with | .ok _ => true | .error _ => false
  | _, _ => false

theorem witness_CompletionSteps : Met [engineRuns plain.dev (hallOfCore 0), saveEnds savingBlock,
    hasOp .cwb none [] && (findOp (opWave .cwb none [] demoWave) .flush 1).isNone, hasOp .alu (some 3) [], hasOp .load none [] && hasOp .store none [] && (findOp (opWave .store none [] demoWave) .flush 1).isNone, hasOp .query none [], hasOp .tlbinv (some 3) [],
    hasOp .flush (some 3) [] && (match waveOf (demo (opWave .flush (some 3) []) id).dev 0 0 with
      | none => false
      | some w => w.ops.all fun e => decide (e.kind ≠ .store ∨ 1 ≤ e.id)),
    hasOp .perfc none [4] && decide ((hallOf plain.dev 0).pw.cls = 4) && (tblFind plain.dev.blocks demoWave.block).isSome,
    hasOp .ctxRest (some 3) [] && (findOp (opWave .ctxRest (some 3) [] demoWave) .ctxSave 1).isNone,
    hasOp .alcatt none [], hasOp .alcatt none attArgs && decide (attArgs.tail.length = 6) && (let d := (demo (opWave .alcatt none attArgs) (withAlcove id)).dev
      (alcFind d 0 5).isSome && decide (madeOf d 0 5 = (attArgs.tail.getD 5 0).toNat) &&
      match attachTry d 1 demoBlock 5 with
      | .done _ _ => true
      | _ => false),
    hasOp .csload (some 3) [1, 0], hasOp .csload (some 3) [1, 4]] := by unfold Met; decide +kernel

/-- A stream of two entries of the data page bound to queue 0 of core 0. -/
def gatherDev (d : Device) : Device :=
  modApq d 0 0 fun q => { q with slot := some 0, gbnd := true, gbase := 0x20000, gstride := 4, gcount := 2, gmask := 1
                                 goffs := List.replicate 32 0 }

/-- The wave's copy queue after a copy word, its tables in place. -/
def copied (i : Instr) : Device := (after i (demo cpyWave withTables)).dev

/-- The same, begun. -/
def begunCopy (i : Instr) : Device := (after (.copyOpStart 0 0) { plain with dev := copied i }).dev

/-- A copy of 256 bytes on queue 0, and a signal. -/
def copyWord : Instr := .cpy (we (.s 8) (.s 9) (.s 12) (.v 0) 0 true)
/-- A signal on queue 0. -/
def signalWord : Instr := .signal { we (.s 8) (.s 9) (.v 0) (.v 0) 0 true with sco := 4 }

/-- A property of the head of copy queue 0 of hall 0. -/
def headIs (d : Device) (p : CopyOp → Bool) : Bool := match cqOf (hallOf d 0) 0 with | o :: _ => p o | [] => false

/-- The die with the head of that queue finished. -/
def finishedCopy : Device := modHead (begunCopy copyWord) 0 0 fun o => { o with finished := true, unit := 256 }

theorem witness_QueueAlcoveAndCopySteps : Met [
    (match viewAt (modApq (demo id gatherDev).dev 0 0 dropBad) 0 0 with
      | none => false
      | some v => let q := apqOf v.d 0 0
        decide (q.slot = some 0) && q.gbnd && !q.gsp && decide (q.entries.length = 0) && decide (q.gnext < q.gcount) &&
          decide (q.entries.length < queueCap v.width) &&
          match checkLanes v { rd := true, w := false, x := false } .plain none
            ((streamAddrs q.gbase q.gstride q.goffs q.gmask v.width q.gnext).map fun a => (a.1, a.2, 4)) with
          | .ok _ => true
          | _ => false),
    (let d := withAlcove (fun a => { a with busy := true }) (withTables plain.dev)
      let a := alcOf d 0
      decide (a.state = 1) && a.busy && a.parked.isNone && engineRuns d a.hall.toNat &&
        (moveUnits a.owner.toNat (copyAgent a.hall.toNat true) (.spad (alcCore a) (4096 * a.offset.toNat + 128 * a.unit))
          (.virt (a.backing.toNat + 128 * a.unit)) (32 * alcSize a - a.unit) a.unit d).2.2.isNone),
    engineRuns (copied copyWord) 0 && headIs (copied copyWord) fun o => !o.begun && !copyHeld (copied copyWord) o &&
      !awaitsRecords (copied copyWord) o.core o.ctx,
    headIs (begunCopy copyWord) fun o => o.begun && !o.finished && o.parked.isNone && decide (o.opc ≠ 0x34) &&
      engineRuns (begunCopy copyWord) 0 && !copyHeld (begunCopy copyWord) o && headIs (raiseOwed (begunCopy copyWord) 0 0 o) fun o1 => o1.parked.isNone && decide (opNext o1 = some 0),
    engineRuns finishedCopy 0 && headIs finishedCopy fun o => o.finished && o.parked.isNone && o.arv.isNone,
    headIs (begunCopy signalWord) fun o => decide (o.opc = 0x34) && o.begun && !o.finished && o.parked.isNone &&
      decide (cpVar o.word ≠ 1) && engineRuns (begunCopy signalWord) 0 && !copyHeld (begunCopy signalWord) o &&
        match engPut (begunCopy signalWord) o.ctx o.ctx (opAgent o) (opDst o) (leBytes 8 o.y.toNat) with | .ok _ => true | .error _ => false] := by
  unfold Met; decide +kernel

/-- A die with alcove 5 evicted and coming back to core 1. -/
def refilling : Device := withAlcove (fun a => { a with state := 2, busy := true, target := some (1, 8) }) (withTables plain.dev)

/-- The refill's clause: every unit of the alcove lands. -/
theorem witness_QueueAlcoveAndCopySteps_refill : Met [
    decide ((alcOf refilling 0).state = 2), decide ((alcOf refilling 0).target = some (1, 8)),
    (alcOf refilling 0).parked.isNone, engineRuns refilling (hallOfCore 1),
    (moveUnits (alcOf refilling 0).owner.toNat (copyAgent (hallOfCore 1) true)
      (.virt ((alcOf refilling 0).backing.toNat + 128 * (alcOf refilling 0).unit)) (.spad 1 (4096 * 8 + 128 * (alcOf refilling 0).unit))
      (32 * alcSize (alcOf refilling 0) - (alcOf refilling 0).unit) (alcOf refilling 0).unit refilling).2.2.isNone] := by
  unfold Met; decide +kernel

/-- The first entry of a hall's table, of a wave or of the regroup unit. -/
def entryIn (h : Hall) (staged : Bool) : Option MatEntry := h.mat.find? fun e => e.staging.isSome == staged

/-- A MZERO posted on hall 0. -/
def posted : Device := (after (.mzero (wx (.v 0) (.v 0) (.v 0) 0 0 0)) (demo matWave id)).dev

/-- The same, granted, its occupancy over. -/
def granted : Device := modHall posted 0 fun h =>
  { h with cycle := 1000, mat := h.mat.map fun e => { e with granted := true, done := true, occEnd := 1000 } }

/-- An entry of a wave, granted, whose occupancy is over before any other's. -/
def entryOver (d : Device) : Bool :=
  match entryIn (hallOf d 0) false with
  | none => false
  | some e => e.granted && decide (e.occEnd ≤ (hallOf d 0).cycle) && e.parked.isNone && !(hallOf d 0).matHung && !e.failed &&
      !xArv e.word && engineRuns d 0 && (hallOf d 0).mat.all fun x => x.staging.isSome || !x.granted || decide (e.order ≤ x.order)

/-- Rows of a call in a bin, 1,024 cycles old; the caller waits at its next clause for its token. -/
def binned : State :=
  let w : Header := { cls := 0, count := 0, waitk := 8, waitld := 15, waitst := 15, waitar := false, yld := false, uni := false, res := 0 }
  let s := after (.ncall wn) (demo id fun d => withWords 0x10010 [w.toBits.toNat] (withSets d))
  { s with dev := modHall s.dev 0 fun h => { h with cycle := 1024 } }

/-- The bin flushed, its pass granted and over. -/
def passed : Device := modHall (after (.binFlushAge 0 0) binned).dev 0 fun h =>
  { h with mat := h.mat.map fun e => { e with granted := true, occEnd := 1024 } }

theorem witness_MatrixAndRegroupSteps : Met [
    engineRuns posted 0 && matFree (hallOf posted 0) && (match matNext posted (hallOf posted 0) with
      | none => false
      | some e => (stagingOf (hallOf posted 0) e).isNone && match tblFind posted.blocks e.block with
        | none => false
        | some b => match matRun posted e b with | .ok _ => true | .error _ => false),
    entryOver granted,
    (match freeBins binned.dev 0 with
      | [] => false
      | (i, b) :: _ => decide (i = 0) && engineRuns binned.dev 0 && decide (binAge b + 1024 ≤ (hallOf binned.dev 0).cycle) &&
          (withUnit binned.dev 0 (flushBin 0)).isSome),
    (let d := passed
      let h := hallOf d 0
      match entryIn h true with
      | none => false
      | some e => e.granted && decide (e.occEnd ≤ h.cycle) && !h.matHung &&
          engineRuns d 0 && (h.mat.all fun x => x.staging.isNone || !x.granted || decide (e.order ≤ x.order)) && match stagingOf h e with
            | none => false
            | some g => (withUnit (modHall (g.rows.foldl rowDone (modHall d 0 (unlockOp g.lock))) 0 (dropRegroup e g)) 0 some).isSome),
    decide ((callers binned.dev 0).length ≠ 0) && ((callers binned.dev 0).all fun c => heldByHall binned c.1 c.2)] := by
  unfold Met; decide +kernel

/-- A fill of the weight set that `withSets` lists, read through the context's tables. -/
def filling : Device := (after (.wpref (we (.pos 0) (.v 0) (.v 0) (.v 0) 0 true)) (demo id (withTables ∘ withSets))).dev

theorem witness_MatrixAndRegroupSteps_fill : Met [
    match findFill filling 0 10 with
    | none => false
    | some (c, slot, o) => (waveOf filling c slot).isSome && engineRuns filling 0 && decide (o.args.getD 1 0 ≠ 1) &&
        let set : VA := BitVec.setWidth 48 (o.args.getD 3 0)
        match wFillHead 0 0 set filling with
        | .error _ => false
        | .ok d1 => match wFillSet 0 0 set d1 with | .ok _ => true | .error _ => false] := by
  unfold Met; decide +kernel

end Sys2Proof.Tests

namespace Sys2Proof.Tests

open Sys2Proof Sys2Proof.Machine
set_option Elab.async false

/-! ## Witnesses: rays and rasters -/

/-- A die with a ray query in flight on lane 0. -/
def rayDie (r : RayRec) : Device := (demo (rayPut 0 { r with flying := true }) id).dev

/-- A structure at 0x20000: one leaf at 0x20080, of one triangle, its geometry not opaque. -/
def withLeaf (d : Device) : Device :=
  withWords 0x20108 [0x007F7F7F00000000] (withWords 0x20080
    [2 * 2 ^ 23 + 0x40 * 2 ^ 32, 0, 1, 0, 2 * 2 ^ 48, 2 * 2 ^ 48, 0, 0, 0x020100] (withWords 0x20000 [0x20080, 0x20100, 1] (withTables d)))

/-- A ray from (0.5, 0.5, −1) along z, with its triangle on its stack. -/
def leafRay : RayRec :=
  { blankRay with
    ray := [0x3F000000, 0x3F000000, 0xBF800000, 0, 0, 0, 0x3F800000, 0x41200000]
    header := 0x20000, begun := true, stack := [.tris 0x20080 none] }

/-- A draw's grid with a triangle, or a fragment, on queue 0. -/
def drawGrid (f : Draw → Draw) : Grid := { placeGrid' with draw := f blankDraw, lpb := { placeLpb with gx := 1, gy := 1, gz := 1 }, retired := 1 }

/-- A die with that grid as number 3. -/
def drawing (f : Draw → Draw) (g : Device → Device) : Device := g { plain.dev with grids := (3, drawGrid f) :: plain.dev.grids }

/-- A triangle of gallery 0. -/
def oneTriangle : Triangle := { grid := 3, gallery := 0, order := [0], dsb := 0x20000, state := [], verts := [], prim := 0 }

/-- A fragment of a draw with no depth target and no colour target. -/
def oneFragment : Fragment :=
  { grid := 3, order := [0], state := List.replicate 16 0xFFF, target := 1, x := 0, y := 0, depth := 0, colour := [] }

theorem witness_RayAndRasterSteps : Met [
    (let d := rayDie blankRay
     let r := rayOf ((waveOf d 0 0).getD demoWave) 0
     (waveOf d 0 0).isSome && engineRuns d (hallOfCore 0) && !r.begun && unitReady d 0 0 0 && r.flying && r.parked.isNone && match rayGo d 0 0 r with | .ended _ _ => true | _ => false),
    (let d := withLeaf (rayDie leafRay)
     let r := rayOf ((waveOf d 0 0).getD demoWave) 0
     (waveOf d 0 0).isSome && engineRuns d (hallOfCore 0) && r.begun && !unitStopped d 0 0 && r.flying && r.parked.isNone && match rayGo d 0 0 r with | .candidate _ _ => true | _ => false),
    (let d := drawing (fun w => { w with tris := [oneTriangle] }) withTables
     match nextTriangle d 0 with
        | none => false
        | some (geo, g, t) => unitReady d 1 0 g.ctx &&
          match dfeRead (modDraw d geo fun x => { x with tris := x.tris.filter fun u => decide (u.order ≠ t.order) }) g.ctx t.dsb.toNat 128 with
          | .ok _ => true
          | .error _ => false),
    (let d := drawing (fun w => { w with frags := [oneFragment] }) id
     match tblFind d.grids 3 with
      | none => false
      | some g => unitReady d 3 (fragmentUnit d g oneFragment) g.ctx && decide (g.draw.frags[0]? = some oneFragment) && drawSettled g &&
          !fragmentWaits g.draw.frags oneFragment && match fragmentStep d 3 g oneFragment with | .ok _ => true | .error _ => false),
    (match tblFind (drawing id id).grids 3 with | none => false | some g => drawSettled g && decide (g.draw.frags = [])),
    (unitWork (rayDie blankRay) 0 0).isSome && !unitBusy (rayDie blankRay) 0 0 && !unitStopped (rayDie blankRay) 0 0] := by unfold Met; decide +kernel

end Sys2Proof.Tests

namespace Sys2Proof.Tests

open Sys2Proof Sys2Proof.Machine
set_option Elab.async false

/-! ## Witnesses: timers, launch queues, dispatch, pre-emption -/

/-- A property of the wave of a die of the tests. -/
def waveIs (s : State) (p : Wave → Bool) : Bool := match waveOf s.dev 0 0 with | none => false | some w => p w

/-- A walk of context 0 at the data page. -/
def dataWalk : Walk := { ctx := 0, va := 0x20000, write := true, fetch := false, discard := false, begun := true, waiters := [(0, 0)] }

/-- A die whose walk's requester stands in a hop. -/
def hoppingWalk : Device := modCk { plain.dev with walks := [(0, dataWalk)] } 0 fun k => { k with hop := some 1 }

/-- What the tables give for that walk: a translation, or an entry that is absent. -/
def walkGives (d : Device) (absent : Bool) : Bool :=
  match walkTables d 0 0x20000 with
  | .ok _ _ _ => !absent && match walkNow d 0 0x20000 true with | .ok _ => true | .error _ => false
  | .absent _ => absent
  | .badTable _ => false

theorem witness_TimerAndWalkSteps : Met [engineRuns plain.dev 0, clockRuns plain.dev 0,
    (hallOf hoppingWalk 0).ck.hop.isSome && (hallOf hoppingWalk 0).ck.service && !(hallOf hoppingWalk 0).ck.stopped &&
      !dataWalk.discard && dataWalk.begun,
    waveIs (demo (fun w => { w with cnt := { w.cnt with fair := 4096 } }) id) fun w =>
      decide (4096 ≤ w.cnt.fair) && decide (w.trap.trlvl = 0) && w.cnt.deferred.isNone && !w.pos.yieldDue && decide (w.resv = []),
    waveIs (demo (fun w => { w with cnt := { w.cnt with fair := 300, deferred := some 44 } }) id) fun w =>
      decide (w.cnt.deferred = some 44) && decide (44 + 256 ≤ w.cnt.fair),
    (match viewAt (demo (fun w => { w with trap := { w.trap with wdlim := 3 }, cnt := { w.cnt with wd := 8 } }) id).dev 0 0 with
      | none => false
      | some v => decide (v.w.trap.wdlim ≠ 0) && !v.w.halted && !(ctxOf v.d v.w.ctx).halting && !awaitsRecords v.d 0 v.w.ctx && decide (2 ^ v.w.trap.wdlim.toNat ≤ v.w.cnt.wd)),
    (tblFind { plain.dev with walks := [(0, { dataWalk with discard := true })] }.walks 0).any fun w => w.discard && w.begun,
    walkGives (withTables plain.dev) false, walkGives plain.dev true] := by unfold Met; decide +kernel

/-- A launch parameter block at 0x20000: one block of one wave of 32 lanes. -/
def withLpb : Device → Device :=
  withWords 0x20000 [0x10000, 1 + 2 ^ 32 + 2 ^ 48, 2 ^ 30 + 16 * 2 ^ 56 + 2 ^ 52]

/-- Hall 0 belongs to context 0. -/
def owned (d : Device) : Device := modHall (withTables d) 0 fun h => { h with owner := some 0, ck := { h.ck with service := true } }

/-- An entry of a launch queue. -/
def entryAt (wait : Bool) : QEntry := { wait := wait, va := 0x20000, ctx := 0, cyc := 0, rank := Config.cores }

/-- A die with changes to queue 0. -/
def queued (f : LaunchQueue → LaunchQueue) : Device := modQueue (owned (withLpb plain.dev)) 0 f

/-- A queue that is full. -/
def fullQueue : State := { plain with dev := queued fun k => { k with entries := List.replicate 4096 (entryAt false) } }

/-- A word that names a grid's block. -/
def launchWord : W64 := BitVec.ofNat 64 (2 ^ 60 + 0x20000)

/-- A stream wait at the head can be read. -/
def waitReads (faulted : Bool) : Bool :=
  let d := queued fun k => { k with head := some (.wait (entryAt true) faulted [2]) }
  decide ((queueOf d 0).head = some (.wait (entryAt true) faulted [2])) && match waitRead d (entryAt true) with | .ok _ => true | .error _ => false

/-- A stream wait whose access has faulted and faults again: the kind of that access. -/
def waitFaults : Option Nat :=
  let d := modQueue plain.dev 0 fun k => { k with head := some (.wait (entryAt true) true []) }
  match waitRead d (entryAt true) with | .ok _ => none | .error e => some e.1

theorem witness_LaunchQueueSteps : Met [
    !decide (field (0 : W64) 60 4 = 1 || field (0 : W64) 60 4 = 2),
    decide (field launchWord 60 4 = 1) && decide (field launchWord 0 48 % 256 = 0) && decide (field launchWord 48 12 = 0) &&
      decide ((queueOf plain.dev 0).entries.length < 4096),
    (let d := queued fun k => { k with entries := [entryAt false], en := true }
     let d1 := modQueue d 0 fun k => { k with entries := k.entries.drop 1, seq := k.seq + 1 }
     (queueOf d 0).head.isNone && (queueOf d 0).en && decide ((queueOf d 0).entries = [entryAt false]) &&
       match readLpb d1 0 0x20000 with | .ok (l, d2) => (refuseReason d2 0 false l).isNone | .error _ => false),
    waitReads false, waitReads true, decide (waitFaults = some 2), decide (2 ∈ [2]), decide (2 ∉ ([] : List Nat)),
    plain.dev.alcoves.isEmpty] := by unfold Met; decide +kernel

theorem witness_LaunchQueueSteps_full : 4096 ≤ (queueOf fullQueue.dev 0).entries.length := by
  have e : (queueOf fullQueue.dev 0).entries = List.replicate 4096 (entryAt false) := rfl
  rw [e, List.length_replicate]

/-- A die whose queue 0 dispatches grid 3. -/
def dispatching (g : Grid → Grid) : Device :=
  let d := queued fun k => { k with head := some (.grid 3) }
  { d with grids := (3, g { placeGrid' with nextPos := 0 }) :: d.grids }

/-- The same with no hall of the context: no core is admissible. -/
def homeless : Device := modHall (dispatching id) 0 fun h => { h with owner := none }

theorem witness_DispatchSteps : Met [
    (match placees homeless 0 with
      | [p] => !placeTried homeless p && match tblFind homeless.grids (placeGrid p) with
          | none => false
          | some g => (placeCore homeless p g).isNone
      | _ => false),
    (let d := dispatching fun g => { g with tried := some 0 }
     decide ((placees d 0).length = 1) && (placees d 0).all (placeTried d)),
    (match placees (dispatching id) 0 with
      | p :: _ => !placeTried (dispatching id) p && (match tblFind (dispatching id).grids (placeGrid p) with
          | none => false
          | some g => match placeCore (dispatching id) p g with
            | some (core, true) => !outranked (dispatching id) 0 core
            | _ => false)
      | [] => false),
    (let d := (demo (fun w => { w with pos := { w.pos with paths := [] } }) id).dev
     match tblFind d.blocks 1 with
      | none => false
      | some b => !blockBusy d 1 b && wavesEnded d 1 b),
    (match tblFind (drawing id id).grids 3 with | none => false | some g => g.parent.isNone && gridOver g) &&
      plain.dev.alcoves.isEmpty,
    (match tblFind (dispatching fun g => { g with waited := 65536 }).grids 3 with
      | none => false
      | some g => decide (65536 ≤ g.waited))] := by unfold Met; decide +kernel

/-- A die with only the halted block of core 1, its context's save area at 0x30000, with changes to the context. -/
def saving (f : Ctx → Ctx) (d : Device) : Device :=
  modCtx { d with blocks := d.blocks.filter fun e => decide (e.1 = 2), cores := d.cores.filter fun e => decide (e.1 = 1) } 0
    fun k => f { k with csa := 0x30000 }

/-- A save area that names one record, of core 1. -/
def withArea : Device → Device := withWords 0x30100 [2304, 549755813888] ∘ withWords 0x30000 [1]

/-- A die that holds a saved context with the record at 0x20400 found. -/
def restoring : Device := modCtx (owned (withSaved plain.dev)) 0 fun k => { k with records := [(0x20400, 1)], saved := true }

set_option maxRecDepth 10000 in
theorem witness_PreemptionSteps_save : Met [
    (let d0 := saving (fun k => { k with halting := true, req := true }) (withOther plain.dev)
     let bs := ctxBlocks d0 0
     let mine (b : Nat) : Bool := bs.any fun e => decide (e.1 = b)
     let d := settleOps d0 mine
     let rs := areaRecords d mine 0x100 bs
     decide (bs.length = 1) && (ctxOf d0 0).halting && decide ((ctxOf d0 0).records = []) && !saveBusy d mine &&
       (bs.all fun e => !(hallOf d0 (hallOfCore e.2.core)).matHung) &&
       (writeAll 0 ((rs.1.map fun r => (copyAgent (hallOfCore r.2.2.1.core) true, (ctxOf d0 0).csa.toNat + r.1, r.2.2.2)) ++ [(areaAgent, (ctxOf d0 0).csa.toNat, wordBytes
         ([BitVec.ofNat 64 rs.1.length, BitVec.ofNat 64 rs.2, BitVec.ofNat 64 0] ++ List.replicate 5 0))]) d).isSome)] := by unfold Met; decide +kernel

theorem witness_PreemptionSteps : Met [
    (let d := (demo (fun w => { w with pos := { w.pos with begun := true } }) id).dev
     !(ctxOf d 0).req && !(ctxOf d 0).saved && (ctxBlocks d 0).all fun e => !blockFresh d e.1 e.2),
    (let d := modCtx plain.dev 0 fun k => { k with req := true }
     (ctxOf d 0).req && !(ctxOf d 0).halting),
    (let d := withArea (saving (fun k => { k with resume := true, saved := true }) (withTables plain.dev))
     let k := ctxOf d 0
     k.resume && decide (k.records = []) && match engineRead d 0 true .plain k.csa.toNat 8 areaAgent with
      | .error _ => false
      | .ok (bs, n) => match areaIndex 0 (min (leNat bs) 30720) (k.csa.toNat + 0x100) n with
        | some (r :: t, _) => (r :: t).all fun e => !(hallOf d (hallOfCore e.2)).ck.held && !(hallOf d (hallOfCore e.2)).ck.stopped
        | _ => false),
    (let h := hallOf restoring 0
     decide ((ctxOf restoring 0).records[0]? = some (0x20400, 1)) && h.ck.service && decide (h.owner = some 0) && !h.ck.held &&
      !h.ck.stopped && match fetchRecord restoring 0 (hallOfCore 1) 0x20400 with
        | .ok (some r, d0) => recordFree d0 r && match restoreBlock d0 r true (heldGranules d0 0 1) with | .done _ _ => true | .wait _ => false
        | _ => false)] := by unfold Met; decide +kernel

theorem witness_OwnerAndResumeSteps : Met [
    (hallOf plain.dev 5).ck.service,
    (let d := modHall plain.dev 5 fun h => { h with nextOwner := some (some 3) }
     (hallOf d 5).ck.service && decide ((hallOf d 5).nextOwner = some (some 3)) && ownerFree d 5 && decide (hallAlcoves d 5 = [])),
    waveIs (demo (fun w => { w with halted := true }) id) fun w => w.halted,
    waveIs (demo (fun w => { w with halted := true, parked := some 0x20008 }) id) fun w => decide (w.ctx = 0) && w.halted &&
      decide (w.parked = some 0x20008) && decide ((0x20008 : VA).toNat / 65536 = (0x20000 : VA).toNat / 65536)] := by
  unfold Met; decide +kernel

end Sys2Proof.Tests

namespace Sys2Proof.Tests

open Sys2Proof Sys2Proof.Machine
set_option Elab.async false

/-! ## Witnesses: power, coolant, failures, the module -/

theorem witness_PowerSteps : Met [
    decide ((300 : W32).toNat + ((500 : W32).toNat - (200 : W32).toNat) < 2 ^ 32),
    (let d := modFlight plain.dev 3 fun x => { x with slew := some 2 }
     decide ((tblGet blankFlight d.flights 3).slew = some 2) && !(hallOf d 6).ck.droop && !(hallOf d 7).ck.droop),
    (let d := modFlight (modCk (modPw plain.dev 0 fun p => { p with cls := 5 }) 0 fun c => { c with target := 0, service := true }) 0
      fun x => { x with vcls := 5 }
     hopDue d 0 && !(hallOf d 0).ck.droop),
    (let d := modCk plain.dev 0 fun c => { c with hop := some 1 }
     decide ((hallOf d 0).ck.hop = some 1) && !(hallOf d 0).ck.droop),
    (hallOf (modCk plain.dev 0 fun c => { c with droop := true }) 0).ck.droop,
    decide ((servedHalls plain.dev 0).length = 2), (hallOf plain.dev 0).ck.service,
    !(hallOf (modCk plain.dev 0 fun c => { c with service := false }) 0).ck.service,
    (List.range 8).all fun c => decide (60 < ([] : List Nat).getD c 61),
    (let mvs := [70, 61, 60, 20]
     decide (mvs.getD 2 61 ≤ 60) && (List.range 2).all fun k => decide (60 < mvs.getD k 61)),
    (let mvs := [61, 61, 61, 61, 61, 61, 61, 0]
     decide (mvs.getD 7 61 ≤ 60) && (List.range 7).all fun k => decide (60 < mvs.getD k 61))] := by unfold Met; decide +kernel

/-- A zone's readings: the sensors answer, or not. -/
def zoneReading (valid dry : Bool) (temp : Nat) : ZoneReading :=
  { temp := BitVec.ofNat 16 temp, flow := 1, press := 1, dry := dry, valid := valid, lowUs := 0 }

/-- The plant of the tests with zone 2 changed. -/
def withZone (f : Zone → Zone) : State := { plain with plant := modZone plain.plant 2 f }

theorem witness_CoolantSteps : Met [
    (let z := zoneOf plain.plant 2
     !z.evacuating && !z.closed),
    (zoneReading true false 0).valid, !(zoneReading false false 0).valid,
    (let z := zoneOf (withZone fun z => { z with dry := true }).plant 2
     z.dry && !z.evacuating && !z.closed),
    (let z := zoneOf { plain.plant with zones := tblSet plain.plant.zones 34 { zoneOf plain.plant 34 with dry := true } } 34
     z.dry && !z.evacuating && !z.closed),
    (let z := zoneOf (withZone fun z => { z with evacuating := true, tgt := 800 }).plant 2
     z.evacuating && decide ((zoneReading true false 800).temp.toNat ≤ z.tgt.toNat) && !(zoneReading true false 800).dry),
    (let z := zoneOf (withZone fun z => { z with evacuating := true, tgt := 800 }).plant 2
     z.evacuating && decide (z.tgt.toNat < (zoneReading true false 801).temp.toNat)),
    (zoneReading true true 0).valid && (zoneReading true true 0).dry,
    (let s := withZone fun z => { z with temp := 1760 }
     decide (1760 ≤ (zoneOf s.plant 2).temp.toNat)),
    (let pl := { plain.plant with zones := tblSet plain.plant.zones 33 { zoneOf plain.plant 33 with temp := 1760 } }
     decide (1760 ≤ (zoneOf pl 33).temp.toNat))] := by unfold Met; decide +kernel

/-- A unit of the die of a draw that has had work and made no step for 65,536 cycles. -/
def unitStuck (d : Device) (kind unit : Nat) : Bool :=
  let d1 := modUnit d kind unit fun u => { u with idle := 65536 }
  unitOverdue d1 kind unit && !unitStopped d1 kind unit

/-- The head of copy queue 0 as an expansion. -/
def expanding : Device := modHead (begunCopy copyWord) 0 0 fun o => { o with opc := 0x33 }

theorem witness_FailureSteps : Met [
    unitStuck (drawing (fun w => { w with tris := [oneTriangle] }) id) 1 0, unitStuck (owned plain.dev) 2 0,
    !unitOverdue plain.dev 0 0, !unitOverdue plain.dev 4 127,
    headIs expanding fun o => o.begun && !o.finished && decide (o.opc = 0x33) &&
      decide (vaNat ((opDst o).base + o.unit) = (0x20010 : VA).toNat / 256 * 256),
    waveIs (demo (pushOpTo [{ module := 1, port := 2, lane := 0, va := 0x20000 }] .cwb none [] none 0 []) id) fun w =>
      (w.ops.find? fun o => decide (o.id = 1) && (decide (o.kind = .store) || decide (o.kind = .cwb))).any fun o =>
        decide ((partsTo o 1 2).length = 1),
    (let d := modHall plain.dev 1 fun h => { h with matIdle := 5000 }
     !(hallOf d 1).matHung && matOverdue (hallOf d 1) && decide (hallBlocks d 1 = [])),
    (hallOf (modHall plain.dev 1 fun h => { h with matHung := true }) 1).matHung,
    headIs (begunCopy copyWord) fun o => copyOverdue { begunCopy copyWord with fcycle := o.moved + 0x100000 } o &&
      (tblFind (begunCopy copyWord).blocks o.block).isSome,
    unitStopped (modUnit plain.dev 3 0 fun u => { u with reloading := true }) 3 0,
    (match sidecarAt (withTables plain.dev) (some (hallOfCore 0)) 0 (0x20140 / 256 * 256) with | .ok _ => true | .error _ => false),
    waveIs (demo (pushOpTo [{ module := 1, port := 2, lane := 0, va := 0x20000 }] .store none [] none 0 []) id) fun w =>
      (w.ops.find? fun o => decide (o.id = 1) && (decide (o.kind = .store) || decide (o.kind = .cwb))).any fun o =>
        decide ((partsTo o 1 2).length = 1),
    decide (([7] : List Byte) ≠ []) && decide (0x107F % 128 + ([7] : List Byte).length ≤ 128) && decide (regionOf 0x107F = .mem) && decide (regionOf 0x5FFFFFFFFF = .mem) && decide (regionOf 0x6000000000 = .reserved)] := by
  unfold Met; decide +kernel

/-- The plant of the tests with port 2 changed. -/
def withPort (f : Port → Port) : State := modPort 2 f plain

/-- Eight images, one of each role. -/
def bootList : List SignedImage := (List.range 8).map fun r => { role := r, bytes := [1], sig := [], version := 0 }

/-- The module with every context saved out. -/
def idle : State :=
  { plain with dev := { blankDevice with ctxs := (List.range 64).map fun c => (c, { blankCtx with saved := true }) } }

/-- The same with both halls of a flight out of service. -/
def unserved : Device :=
  modCk (modCk idle.dev 6 fun c => { c with service := false }) 7 fun c => { c with service := false }

theorem witness_ModuleSteps : Met [
    (let p := portOf (withPort fun p => { p with replays := [(plain.dev.fcycle, 17)] }).plant 2
     !p.removed && p.training.isNone && decide (16 < recentFlits plain.dev.fcycle p)),
    (let p := portOf (withPort fun p => { p with lanes := 4 }).plant 2
     !p.removed && p.training.isNone && decide (2 < p.lanes)),
    (portOf (withPort fun p => { p with training := some 0 }).plant 2).training.isSome,
    (let s := withPort fun p => { p with training := some 0 }
     let d := { s.dev with fcycle := 2000000 }
     decide ((portOf s.plant 2).training = some 0) && decide (fabricMs ≤ (d.fcycle - 0).toNat)),
    decide (plain.plant.bootStage = 0), decide (bootList.map (·.role) = List.range 8), decide ((List.replicate 32 (0 : Byte)).length = 32),
    decide (0x5FFFFFFFF8 + 8 ≤ 0x6000000000),
    Memory.wf idle.dev.st.mem && decide (idle.plant.measure.length = 64) && decide (unsavedCtxs idle.dev = []) &&
      tierServed idle.dev && decide (idle.dev.blocks.length = 0),
    !tierServed unserved && decide (unsavedCtxs unserved = []), decide (unsavedCtxs plain.dev ≠ []),
    bootList.all fun i => decide (i.role < 8),
    (restoreReason { plain with dev := withWords (recordBase plain.dev + 16) [1] plain.dev }).isNone,
    decide (restoreReason plain = some 1)] := by unfold Met; decide +kernel

/-- An access to a window of eight bytes, a write or a read. -/
def access (addr size : Nat) (write : Bool) : ApcAccess := { apc := 0, addr := addr, size := size, wdata := if write then some 1 else none }

/-- The released machine with `addi x1, x0, 5` at address 0. -/
def apcDemo : State :=
  { State.reset with plant := { blankPlant with apcUp := true }
                     dev := { blankDevice with st := { blankStores with mem := memPut [] 0 (leBytes 4 0x00500093) } } }

theorem witness_WindowSteps : Met [
    ({ plain with plant := { plain.plant with apcUp := true } } : State).plant.apcUp, !plain.plant.apcUp,
    (regAt 0x18).isSome, !windowLegal (access 0x6000000000 8 true), !windowLegal (access 0x200020000001 4 false),
    windowLegal (access 0x1000 8 true) && decide (regionOf 0x1000 ≠ .ctrl),
    windowLegal (access 0x200000000004 4 true), windowLegal (access 0x200008000001 8 true), windowLegal (access 0x10000000000 1 false),
    windowLegal (access 0x200000000004 4 false) && decide (regionOf 0x200000000004 ≠ .ctrl),
    decide (rvInterrupt apcDemo (apcOf apcDemo.dev 0) = none) && decide (rvFetch apcDemo 0 (apcOf apcDemo.dev 0) = .ok 0x00500093) &&
      (rvDecode 0x00500093).isSome,
    decide ((apcOf apcDemo.dev 0).priv = 3) && (match rvExec apcDemo 0 blankApc 0 0x73 .ecall with | .error _ => true | .ok _ => false),
    !blankApc.csrs.mstatus.getLsbD 17 && decide ((rvX blankApc 0 + 0x200020000008).toNat = domainAddr apcDemo.dev 0x200020000008),
    decide (regionOf 0x200020000008 = .ctrl) && (regAt (0x200020000008 - ctrlBase)).isSome,
    decide (regionOf 0x20002FFFFFF8 = .ctrl) && (regAt (0x20002FFFFFF8 - ctrlBase)).isNone] := by unfold Met; decide +kernel

/-- The words of two instructions of the standard, written out by its tables: `addi x1, x0, 5` and `c.li x10, 5` (funct3 010,
rd 01010, immediate 000101), `amoadd.w`, `c.jr x1`, `fcvt.w.d`; a word of zeros is none. -/
theorem test_rvDecode :
    rvDecode 0x00500093 = some (.aluImm .add false 1 0 5) ∧ rvDecode 0x4515 = some (.aluImm .add false 10 0 5) ∧
    rvDecode 0x00B6A52F = some (.amo .add 4 10 13 11) ∧ rvDecode 0x8082 = some (.jalr 0 1 0) ∧
    rvDecode 0xC2051553 = some (.fcvtToInt true { wide := false, signed := true } 10 10 1) ∧ rvDecode 0 = none := by decide +kernel

/-- A step of an application core: the addition, and the trap of a word that is none. -/
theorem test_apcStep :
    rvX (apcOf (apcStep 0 apcDemo).dev 0) 1 = 5 ∧ (apcOf (apcStep 0 apcDemo).dev 0).pc = 4 ∧
    (apcOf (apcStep 1 { apcDemo with dev := setApc apcDemo.dev 1 { blankApc with pc := 8 } }).dev 1).csrs.mcause = 2 := by
  decide +kernel

end Sys2Proof.Tests

namespace Sys2Proof.Tests

open Sys2Proof Sys2Proof.Machine
set_option Elab.async false

/-! ## Witnesses: encodings, the step, the course of a word, traps, frames -/

theorem witness_WordsRoundTrip : Met (([.iadd (wa (.v 127) (.s 63) (.b 7) (.neg 16) 1), .iaddi (wi (.v 1) (.q 3) 0xFFFFFFFF),
    .icmp (wp (.v 1) (.pos 16) 255), .ld (wm (.v 9) (.v 10) 4 true 3), .atom (wma (.v 24) 15 4), .ldb (wb (.v 20)),
    .cpy (we (.s 8) (.s 9) (.s 12) (.v 0) 127 true), .mma (wx (.s 10) (.s 12) (.s 20) 255 3 2), .ncall wn,
    .bra (wk (.v 0) (.v 0) 0x80000000 15)] : List Instr).map fun i => i.wf && (encode i).isSome) := by
  unfold Met; decide +kernel

/-- The state of the tests on a turn of core 0, its hall's clock on, with the wave's header in force or not, and the word
that its code holds. -/
def onTurn (hdr : Option W64) (w : Nat) : State :=
  let s := demo (fun w => { w with pos := { w.pos with hdr := hdr } }) fun d =>
    modCk (withWords 0x10008 [w] d) 0 fun c => { c with service := true }
  { s with moves := [.core 0] }

/-- A turn that finds its instruction, which changes its wave. -/
def turnFinds (hdr : Option W64) (w : Nat) (p : View → Option Instr) : Bool :=
  let s := onTurn hdr w
  let s1 := hallTime exec { s with moves := [] } 0 (slotWait s.dev 0)
  let s2 := selectWave s1 0 0
  clockRuns s.dev 0 && decide (issueOrder s1.dev 0 = [0]) && (pairOf s1.dev 0 0).isNone &&
    match view s2.dev with
    | none => false
    | some v =>
      match p v with
      | none => false
      | some i => match exec i s2 with | .next t => decide (waveOf t.dev 0 0 ≠ waveOf s2.dev 0 0) | _ => false

theorem witness_StepRunsDecodedWord : Met [
    (turnFinds (some 0) 0x7070140B081E0000 fun v => if v.w.pos.hdr ≠ some 0 ∨ v.w.pos.yieldDue then none else
      match fetchCode v (v.wordVa v.w.pos.clpos.toNat) with
      | .ok w => (decodeWord 0 w).toOption
      | _ => none),
    (turnFinds none 0 fun v => if v.w.pos.hdr.isSome then none else
      match fetchCode v v.p.pc with
      | .ok w => some (.clauseHeader (Header.ofBits w))
      | _ => none),
    agentStep (.clockHop 0)] := by unfold Met; decide +kernel

/-- A view and a word's job meet a test. -/
def jobAt (i : Instr) (s : State) (p : Job → View → Bool) : Bool :=
  match wordJob i, view s.dev with
  | some j, some v => v.w.arw.isNone && p j v
  | _, _ => false

/-- A word of the tests whose D is a constant. -/
def badAdd : Instr := .iadd { wa (.v 1) (.v 2) (.v 3) (.v 0) 0 with d := .pos 0 }

theorem witness_WordCourse : Met [
    jobAt (.iadd (wa (.v 1) (.v 2) (.v 3) (.v 0) 0)) (demo (opWave .store none [] ∘ fun w => { w with fenced := some true }) id) fun j v => jobHeld j v,
    jobAt (.iadd { wa (.v 1) (.v 2) (.v 3) (.v 0) 0 with hd := { g := { neg := true, p := 7 }, md := 0 } }) plain fun j v =>
      !jobHeld j v && decide (j.exec v = 0),
    jobAt badAdd plain fun j v => !jobHeld j v && decide (j.exec v ≠ 0) && (firstBad (sharedChecks j v ++ j.legal v)).isSome,
    jobAt (.halt (wk (.v 0) (.v 0) 0 0)) plain fun j v => !v.priv && !jobHeld j v && decide (j.exec v ≠ 0)] := by
  unfold Met; decide +kernel

/-- The view of a state of the tests meets a test. -/
def viewMeets (s : State) (p : View → Bool) : Bool := match view s.dev with | none => false | some v => p v

/-- A trap of cause 0x80 in lane 0. -/
def testTrap : Trap := { cause := 0x80, mask := 1, info := 0, addr := 0 }

/-- A frame is written for that trap, and the wave is still there. -/
def entersAt (lvl : BitVec 2) (v : View) : Bool :=
  decide (trapLevel v.w testTrap.cause = some lvl) &&
    match frameWrite v (decide (lvl = 2) || v.priv) 0 (frameBytes testTrap 0 v.p.pc 0 v.p.depth) with
    | none => false
    | some d => (waveOf d v.core v.slot).isSome

theorem witness_TrapEntry : Met [viewMeets (demo (trapWave 0 0x10000 0) withTables) (entersAt 1),
    viewMeets (demo (trapWave 0 0 0x10000) withTables) (entersAt 2),
    viewMeets plain fun v => decide (v.w.trap.trlvl = 0 ∧ v.w.trap.strvec = 0 ∧ v.w.trap.trvec = 0),
    viewMeets (demo (trapWave 1 0x10000 0) withTables) fun v => decide (v.w.trap.trlvl ≠ 3) &&
      match frameWrite v v.priv 0x30 (leBytes 8 (v.w.pos.clpos.toNat * 2 ^ 52 + v.p.pc.toNat)) with
      | none => false
      | some d => (waveOf d v.core v.slot).isSome,
    decide (0 < demoWave.width ∧ demoWave.width ≤ 64)] := by unfold Met; decide +kernel

theorem witness_StepKeepsPlantInvariant :
    plain.plant.Inv ∧ ∃ s', step { plain with moves := [.event (.droopDetect 0)] } = .next s' := by
  refine ⟨⟨?_, ?_, ?_⟩, ⟨_, rfl⟩⟩
  · decide +kernel
  · decide +kernel
  · intro e he; cases he

/-- The word's effect is done. -/
def actDone (i : Instr) : View → Mask → Bool := fun v ex =>
  match wordJob i with
  | none => false
  | some j => match j.act v ex with | .done _ _ => true | _ => false

/-- A word that issues, and whose effect is done. -/
def done (i : Instr) (s : State) : Instr × State × (View → Mask → Bool) := (i, s, actDone i)

theorem witness_ResultWordFrame : Issue' ([.iadd (wa (.v 1) (.v 2) (.v 3) (.v 0) 2), .sadd (wa (.s 1) (.s 2) (.s 3) (.v 0) 2),
    .ffma (wa (.v 8) (.v 9) (.v 10) (.v 11) 8)].map fun i => (i, plain, fun _ _ =>
      match wordJob i, resultOperand i with
      | some j, some d => (queueOfOp d).isNone && j.pops.all fun o => (queueOfOp o).isNone
      | _, _ => false)) := issue_of (by decide +kernel)

theorem witness_QuietWordFrame : Issue' [done (.ld (wm (.v 20) (.v 10) 2 false 0)) plain,
    done (.bra (wk (.v 0) (.v 0) (-64) 0)) plain, done (.icmp (wp (.v 9) (.pos 1) 0x22)) plain] := issue_of (by decide +kernel)

theorem witness_StoreWordsKeepMemoryCanonical : Issue' [done (.st (wm (.v 9) (.v 10) 2 false 0)) plain,
    done (.sts (wm (.v 9) (.v 10) 2 false 0)) (demo spadWave id), done (.atom (wma (.v 24) 0 0)) plain] ∧
    Memory.wf plain.dev.st.mem = true ∧ Memory.wf plain.dev.st.spad = true :=
  ⟨issue_of (by decide +kernel), by decide +kernel, by decide +kernel⟩

/-! ## Decoding: words that the spec writes out -/

/-- A word decodes, in its class, to an instruction whose operands meet a test. -/
def reads (c : BitVec 4) (w : W64) (p : Instr → Bool) : Bool := match decodeWord c w with | .ok i => p i | .error _ => false

/-- Class 0: FFMA, IADDI, SHFL, ICMP (chapters 7, 8, 14). -/
theorem test_decode_alu : Met [
    reads 0 0x3270_0B09_EB0B_0800 fun i => match i with
      | .ffma w => decide (w.d = .v 11 ∧ w.a = .v 9 ∧ w.b = .fp 2 ∧ w.c = .v 11) && decide (w.hd.g.p = 7) | _ => false,
    reads 0 0x2870_0A0A_0000_0080 fun i => match i with | .iaddi w => decide (w.d = .v 10 ∧ w.a = .v 10 ∧ w.imm = 128) | _ => false,
    reads 0 0x7070_1409_C900_4200 fun i => match i with
      | .shfl w => decide (w.d = .v 20 ∧ w.a = .v 9 ∧ w.b = .pos 1 ∧ w.sub = 0x42) | _ => false,
    reads 0 0x2070_3C0A_89E0_2200 fun i => match i with
      | .icmp w => decide (w.pd = 1 ∧ w.pe = 7 ∧ w.a = .v 10 ∧ w.b = .s 9 ∧ w.pc = 7 ∧ w.sub = 0x22) | _ => false] := by
  unfold Met; decide +kernel

/-- Class 1: the two halves of a PAIR word (chapter 7). -/
theorem test_decode_pair : Met [reads 1 0x4060_404F_4868_5047 fun i => match i with
    | .pair w => decide (w.h1.hop = 16 ∧ w.h1.d = 12 ∧ w.h1.a = .v 8 ∧ w.h1.b = .v 9 ∧ w.h1.g = 7) &&
        decide (w.h2.hop = 18 ∧ w.h2.d = 13 ∧ w.h2.a = .v 10 ∧ w.h2.b = .v 8 ∧ w.h2.g = 7)
    | _ => false] := by unfold Met; decide +kernel

/-- Class 3: LD, ATOM, ALCATT. -/
theorem test_decode_memory : Met [
    reads 3 0x0171_0988_0A00_0400 fun i => match i with
      | .ld w => decide (w.d = .v 9 ∧ w.a = .s 8 ∧ w.b = .v 10 ∧ w.sz = 2 ∧ w.hd.md = 1) | _ => false,
    reads 3 0x1021_1889_C817_0400 fun i => match i with
      | .atom w => decide (w.hd.g.p = 2 ∧ w.d = .v 24 ∧ w.a = .s 9 ∧ w.b = .pos 0 ∧ w.c = .v 23 ∧ w.aop = 0) | _ => false,
    reads 3 0x3171_9EB2_0000_0000 fun i => match i with
      | .alcatt w => decide (w.hd.md = 1 ∧ w.x = .s 30 ∧ w.y = .s 50 ∧ w.te = false) | _ => false] := by
  unfold Met; decide +kernel

/-- Class 4: MMA, CPY, NCALL. -/
theorem test_decode_engines : Met [
    reads 4 0x0270_0094_9698_1000 fun i => match i with
      | .mma w => decide (w.mt = 0 ∧ w.a = .s 20 ∧ w.b = .s 22 ∧ w.c = .s 24 ∧ w.tok = 1 ∧ w.cm = 0) | _ => false,
    reads 4 0x3070_8A8C_8E90_3E50 fun i => match i with
      | .cpy w => decide (w.x = .s 10 ∧ w.y = .s 12 ∧ w.z = .s 14 ∧ w.w = .s 16 ∧ w.tok = 3 ∧ w.te = true) | _ => false,
    reads 4 0x1873_0C10_1E1C_3200 fun i => match i with
      | .ncall w => decide (w.hd.md = 3 ∧ w.h = .v 12 ∧ w.inp = .v 16 ∧ w.out = .v 30 ∧ w.ni = 7 ∧ w.no = 3 ∧ w.tok = 2)
      | _ => false] := by unfold Met; decide +kernel

/-- Classes 5, 6 and 7: RTRACE, INTERP, BRV, CALLI, CSLOAD, PERFC. -/
theorem test_decode_others : Met [
    reads 5 0x0170_289E_3000_5830 fun i => match i with
      | .rtrace w => decide (w.x = .v 40 ∧ w.y = .s 30 ∧ w.z = .v 48 ∧ w.tok = 5 ∧ w.te = true ∧ w.sub = 3) | _ => false,
    reads 5 0x1870_1404_0102_0300 fun i => match i with
      | .interp w => decide (w.d = .v 20 ∧ w.a = .v 4 ∧ w.b = .v 1 ∧ w.c = .v 2 ∧ w.sub = 3) | _ => false,
    reads 6 0x0210_0000_FFFF_FFC0 fun i => match i with | .brv w => decide (w.hd.g.p = 1 ∧ w.off.toInt = -64) | _ => false,
    reads 6 0x0624_8A0C_0000_0000 fun i => match i with
      | .calli w => decide (w.hd.g.p = 2 ∧ w.hd.md = 4 ∧ w.a = .s 10 ∧ w.b = .v 12) | _ => false,
    reads 7 0x1070_8A8B_0000_1800 fun i => match i with
      | .csload w => decide (w.x = .s 10 ∧ w.y = .s 11 ∧ w.tok = 1 ∧ w.te = true) | _ => false,
    reads 7 0x017F_84CA_0000_0000 fun i => match i with
      | .perfc w => decide (w.hd.md = 15 ∧ w.d = .s 4 ∧ w.a = .pos 2) | _ => false] := by unfold Met; decide +kernel

/-- Class 2, from Table 7.2: SADD is opcode 1 of the scalar class, D in bits 47 to 40, A in 39 to 32, B in 31 to 24. -/
theorem test_decode_scalar : Met [reads 2 (BitVec.ofNat 64 (1 * 2 ^ 56 + 7 * 2 ^ 52 + 0x89 * 2 ^ 40 + 0x8A * 2 ^ 32 + 0x8B * 2 ^ 24))
    fun i => match i with | .sadd w => decide (w.d = .s 9 ∧ w.a = .s 10 ∧ w.b = .s 11) | _ => false] := by
  unfold Met; decide +kernel

/-- The clause header of one word of class 3 that waits on nothing but scoreboard counts of 15 (R141). -/
theorem test_decode_header : (Header.ofBits 0x3000_00FF_0000_0000).cls = 3 ∧ (Header.ofBits 0x3000_00FF_0000_0000).count = 0 ∧
    (Header.ofBits 0x3000_00FF_0000_0000).waitld = 15 ∧ (Header.ofBits 0x3000_00FF_0000_0000).waitst = 15 ∧
    (Header.ofBits 0x3000_00FF_0000_0000).waitk = 0 := by decide +kernel

/-! ## Ill-formed terms -/

/-- One term for each check of well-formedness, which refuses it. -/
theorem test_ill_formed : Met (([.iadd (wa (.v 128) (.v 0) (.v 0) (.v 0) 0), .iadd (wa (.v 0) (.s 64) (.v 0) (.v 0) 0),
    .iadd (wa (.v 0) (.v 0) (.b 8) (.v 0) 0), .iadd (wa (.v 0) (.v 0) (.v 0) (.pos 17) 0), .iadd (wa (.v 0) (.neg 0) (.v 0) (.v 0) 0),
    .iadd (wa (.v 0) (.fp 7) (.v 0) (.v 0) 0), .iadd (wa (.v 0) (.reserved 4) (.v 0) (.v 0) 0), .iadd (wa (.q 4) (.v 0) (.v 0) (.v 0) 0),
    .iaddi (wi (.v 0) (.v 200) 0), .icmp (wp (.v 128) (.v 0) 0), .ld (wm (.v 200) (.v 0) 0 false 0), .atom (wma (.v 128) 0 0),
    .ldb (wb (.v 128)), .cpy (we (.s 64) (.s 0) (.s 0) (.v 0) 0 true), .mma (wx (.s 64) (.s 0) (.s 0) 0 0 0),
    .ncall { wn with h := .v 128 }, .bra (wk (.v 128) (.v 0) 0 0),
    .pair { h1 := { hop := 0, d := 0, a := .v 128, b := .v 0, g := 7 }, h2 := { hop := 0, d := 0, a := .v 0, b := .v 0, g := 7 } },
    .loadComplete 512 0 0, .loadComplete 0 64 0, .queueGatherFetch 512 0, .queueGatherFetch 0 4, .alcoveEvictDone 4096,
    .copyOpStart 128 0, .copyOpStart 0 4, .binFlushAge 0 16, .rayQueryStop 0 0 64, .rasterTriangle 8, .unitImageSwitch 5 0,
    .unitImageSwitch 0 128, .blockPlace 256, .preemptHalt 64, .coolantGrantWrite 36 0, .windowAccess { access 0 9 false with apc := 0 },
    .windowAccess { access 0 8 false with apc := 16 }, .voltageSlewEnd 64, .flitCrcReplay 16 0, .portRetrain 0 3,
    .moduleNumberAssign 64] : List Instr).map fun i => !i.wf) := by unfold Met; decide +kernel

/-! ## Worked examples of the spec -/

/-- Table 2.2: row-major 5 by 3 with W = 2, and Morton 3 by 3. -/
theorem test_dispatch_orders :
    (List.range 15).map (fun d => planePoint { placeLpb with gx := 5, gy := 3, swz := 1 } d) =
      [(0, 0), (1, 0), (0, 1), (1, 1), (0, 2), (1, 2), (2, 0), (3, 0), (2, 1), (3, 1), (2, 2), (3, 2), (4, 0), (4, 1), (4, 2)] ∧
    (List.range 9).map (fun d => planePoint { placeLpb with gx := 3, gy := 3, order := 2 } d) =
      [(0, 0), (1, 0), (0, 1), (1, 1), (2, 0), (2, 1), (0, 2), (1, 2), (2, 2)] := by decide +kernel

/-- The example of R307: a block half (0xFF, 0, 0, 0xFF), half zero, is stored in 32 bytes with the sidecar byte 0x31. -/
theorem test_colour_block :
    let c := packColour ((List.range 256).map fun i => if i / 4 % 8 < 4 ∧ (i % 4 = 0 ∨ i % 4 = 3) then 0xFF else 0)
    c.1 = 0x31 ∧ c.2 = [0xFF, 0, 0, 0xFF, 0, 0, 2, 0x20, 0, 0, 2, 0x20] ++ List.replicate 16 0x55 ++ List.replicate 4 0 := by
  decide +kernel

end Sys2Proof.Tests
end

section
/-! PROOFS. What a word that issues has passed of its checks (R386, R395), and that the forms of the statements follow
from the jobs of the model. -/

namespace Sys2Proof.Machine

/-! ### Checks passed -/

/-- Only an empty list has no least item. -/
theorem leastBy_eq_none {β : Type} (lt : β → β → Bool) : ∀ {xs : List β}, leastBy lt xs = none ↔ xs = []
  | [] => by simp [leastBy]
  | x :: t => by
    simp only [leastBy, reduceCtorEq, iff_false]
    split
    · simp
    · split <;> simp

/-- A word breaks no rule exactly when each of its checks passes. -/
theorem firstBad_eq_none {cs : List Check} : firstBad cs = none ↔ ∀ c ∈ cs, c.bad = false := by
  simp [firstBad, leastBy_eq_none]

/-- The word of a job that issues. -/
theorem Runs.issues {i : Instr} {s : State} {v : View} {ex : Mask} (h : Runs i s v ex) {j : Job}
    (hj : wordJob i = some j) : Issues j s v ex := by
  obtain ⟨j', hj', hi⟩ := h
  rw [hj] at hj'
  cases hj'
  exact hi

/-- A word that issues has passed each legality check of its own. -/
theorem Runs.passes {i : Instr} {s : State} {v : View} {ex : Mask} (h : Runs i s v ex) {j : Job}
    (hj : wordJob i = some j) {c : Check} (hc : c ∈ j.legal v) : c.bad = false :=
  firstBad_eq_none.mp (h.issues hj).legal c (List.mem_append_right _ hc)

/-- A word that issues and may not be uniform has its uniform bit clear (R165, R386). -/
theorem Runs.not_uniform {i : Instr} {s : State} {v : View} {ex : Mask} (h : Runs i s v ex) {j : Job}
    (hj : wordJob i = some j) (hu : j.uniOk = false) : j.u = false := by
  have hc := firstBad_eq_none.mp (h.issues hj).legal (c18 (!j.uniOk && (j.u || v.uni)))
    (List.mem_append_left _ List.mem_cons_self)
  simp only [c18, hu, Bool.not_false, Bool.true_and, Bool.or_eq_false_iff] at hc
  exact hc.1

/-- A word that runs once executes in every active lane (R146, R385). -/
theorem Runs.exec_once {i : Instr} {s : State} {v : View} {ex : Mask} (h : Runs i s v ex) {j : Job}
    (hj : wordJob i = some j) (ho : j.lanes = .once) : ex = v.active := by
  have hi := h.issues hj
  have hl := hi.lanes
  simp only [Job.exec, Job.isOnce, ho, if_true] at hl
  have hs := hi.someLane
  split at hl
  · split at hl
    · exact hl.symm
    · exact absurd hl.symm hs
  · exact absurd hl.symm hs

/-! ### Forms of words -/

/-- An ALU word has the effect that its statement's form gives, where its job is that of an ALU word. -/
theorem laneWord_of {mk : WordA → Instr} {n : Nat} {fps : List Bool} {f : View → WordA → Nat → List W32 → W32 × Flags}
    {j : WordA → Job} (hj : ∀ w, wordJob (mk w) = some (j w)) (hn : n ≤ fps.length)
    (hact : ∀ w v ex, (j w).act v ex = aluEffect v (w.u || v.uni) ex w.d none ((aSrcs w n).zip fps) (f v w)) :
    LaneWord mk n fps f := by
  intro w s v ex ents t h hp hl
  have hops : ((aSrcs w n).zip fps).map (·.1) = aSrcs w n :=
    List.map_fst_zip ((List.length_take_le _ _).trans hn)
  refine goes_of (hj w) h ?_
  rw [hact, aluEffect, hops]
  exact destEffect_lands hp hl

/-- A bit word gives `f` where its job computes `f`. -/
theorem bitWord_of {mk : WordA → Instr} {n : Nat} {f : WordA → W32 → W32 → W32 → W32} {opc : BitVec 8}
    {sub : WordA → List Check} {g : WordA → W32 → W32 → W32 → W32} (hn : n ≤ 3)
    (hj : ∀ w, wordJob (mk w) = some (bitJob opc w n (sub w) (g w))) (hg : ∀ w a b c, g w a b c = f w a b c) :
    BitWord mk n f :=
  laneWord_of hj hn fun w v ex => by simp only [bitJob, aluJob, noFp, hg]

/-- A cross-lane word gives `f` where its job computes `f` and raises no flag. -/
theorem crossWord_of {mk : WordA → Instr} {n : Nat} {f : View → WordA → Mask → (Nat → Nat → W32) → Nat → W32}
    {opc : BitVec 8} {legal : WordA → View → List Check}
    {g : WordA → View → Mask → (Nat → Nat → W32) → Nat → W32 × Flags}
    (hj : ∀ w, wordJob (mk w) = some (crossJob opc w n (legal w) (g w)))
    (hg : ∀ w v ex x, g w v ex x = fun l => (f v w ex x l, 0)) : CrossWord mk n f := by
  intro w s v ex ents t h hp hl
  refine goes_of (hj w) h (destEffect_lands hp ?_)
  rw [hg]
  exact hl

/-- A scalar word gives `f` where its job computes `f`. -/
theorem scalarWord_of {mk : WordA → Instr} {f : WordA → W64 → W64 → W64 → W64 × Flags} {opc : BitVec 8} {n : Nat}
    {sat : Bool} {legal : WordA → List Check} {g : WordA → W64 → W64 → W64 → W64 × Flags}
    (hj : ∀ w, wordJob (mk w) = some (scalarJob opc w n sat (legal w) (g w)))
    (hg : ∀ w a b c, g w a b c = f w a b c) : ScalarWord mk f := by
  intro w s v ex h
  refine goes_of (hj w) h ?_
  simp only [scalarJob, hg]

end Sys2Proof.Machine
end

section
/-! PROOFS. The values of shifts, fields and bit patterns in arithmetic (R171 to R175, R195). -/

namespace Sys2Proof.Machine

/-! ### Shifts -/

/-- A left shift multiplies (R171). -/
theorem shlBits_eq {n : Nat} (a : BitVec n) (k : Nat) :
    shlBits a k = if k < n then BitVec.ofNat n (a.toNat * 2 ^ k) else 0 := by
  unfold shlBits
  split
  · exact BitVec.eq_of_toNat_eq (by simp [Nat.shiftLeft_eq])
  · rfl

/-- A logical right shift divides (R171). -/
theorem shrBits_eq {n : Nat} (a : BitVec n) (k : Nat) :
    shrBits a k = if k < n then BitVec.ofNat n (a.toNat / 2 ^ k) else 0 := by
  unfold shrBits
  split
  · refine BitVec.eq_of_toNat_eq ?_
    have hlt : a.toNat / 2 ^ k < 2 ^ n := (Nat.div_le_self _ _).trans_lt a.isLt
    simp [Nat.shiftRight_eq_div_pow, Nat.mod_eq_of_lt hlt]
  · rfl

/-- An arithmetic right shift divides the signed value, rounding down (R171). -/
theorem sarBits_eq {n : Nat} (a : BitVec n) (k : Nat) :
    sarBits a k = wrap n (a.toInt / ((2 ^ min k (n - 1) : Nat) : Int)) := by
  rw [sarBits, wrap, ← Int.shiftRight_eq_div_pow, ← BitVec.toInt_sshiftRight, BitVec.ofInt_toInt]

/-- A funnel shift takes 32 bits of the 64-bit value b:a (R172). -/
theorem fshfBits_eq (left clamp : Bool) (a b c : W32) :
    fshfBits left clamp a b c =
      (let n := if clamp then min c.toNat 32 else c.toNat % 32
       let x := b.toNat * 2 ^ 32 + a.toNat
       BitVec.ofNat 32 (if left then x * 2 ^ n / 2 ^ 32 else x / 2 ^ n)) := by
  have hx : (b ++ a).toNat = b.toNat * 2 ^ 32 + a.toNat := by
    rw [BitVec.toNat_append, ← Nat.shiftLeft_add_eq_or_of_lt a.isLt, Nat.shiftLeft_eq]
  have hlt : (b ++ a).toNat < 2 ^ 64 := (b ++ a).isLt
  unfold fshfBits
  simp only [← hx]
  generalize hn : (if clamp then min c.toNat 32 else c.toNat % 32) = n
  have hn32 : n ≤ 32 := by subst hn; split <;> omega
  refine BitVec.eq_of_toNat_eq ?_
  cases left with
  | false => simp [Nat.shiftRight_eq_div_pow]
  | true =>
    have hfit : (b ++ a).toNat * 2 ^ n < 2 ^ 96 := calc
      (b ++ a).toNat * 2 ^ n ≤ (b ++ a).toNat * 2 ^ 32 :=
        Nat.mul_le_mul_left _ (Nat.pow_le_pow_right Nat.two_pos hn32)
      _ < 2 ^ 64 * 2 ^ 32 := Nat.mul_lt_mul_of_pos_right hlt (Nat.two_pow_pos 32)
      _ = 2 ^ 96 := (Nat.pow_add 2 64 32).symm
    have h96 : (b ++ a).toNat % 2 ^ 96 = (b ++ a).toNat :=
      Nat.mod_eq_of_lt (hlt.trans_le (Nat.pow_le_pow_right Nat.two_pos (by decide)))
    simp only [if_true, BitVec.extractLsb'_toNat, BitVec.toNat_shiftLeft, BitVec.toNat_setWidth, h96,
      Nat.shiftLeft_eq, Nat.mod_eq_of_lt hfit, Nat.shiftRight_eq_div_pow, BitVec.toNat_ofNat]

/-! ### Bit fields -/

/-- The low bits of a small number in two's complement: 2^n less from 2^(n-1) on (R100). -/
theorem signed_of_lt {n x : Nat} (hn : n ≠ 0) (hx : x < 2 ^ n) :
    signed n x = if 2 ^ (n - 1) ≤ x then (x : Int) - ((2 ^ n : Nat) : Int) else (x : Int) := by
  have h2 : 2 ^ n = 2 * 2 ^ (n - 1) := by rw [← Nat.pow_succ', Nat.succ_eq_add_one, Nat.sub_add_cancel (by omega)]
  simp only [signed, Nat.mod_eq_of_lt hx]
  split <;> split <;> omega

/-- A bit field extracted: `n` bits from bit `p` of the value, its top bit a sign where it is signed (R173). -/
theorem bfeBits_eq (sg : Bool) (a b : W32) :
    bfeBits sg a b =
      (let p := min (b.toNat % 256) 32
       let n := min (b.toNat / 256 % 256) 32
       let x := (intOf 32 sg a.toNat / ((2 ^ p : Nat) : Int)) % ((2 ^ n : Nat) : Int)
       if n = 0 then 0 else if sg ∧ ((2 ^ (n - 1) : Nat) : Int) ≤ x then wrap 32 (x - ((2 ^ n : Nat) : Int))
         else wrap 32 x) := by
  simp only [bfeBits, fieldShape, byteOf, w32, Nat.mul_zero, Nat.pow_zero, Nat.div_one, Nat.mul_one, Nat.reducePow,
    Nat.cast_pow, Nat.cast_ofNat]
  generalize min (b.toNat / 256 % 256) 32 = n
  generalize hx : intOf 32 sg a.toNat / 2 ^ min (b.toNat % 256) 32 % 2 ^ n = x
  have hpos : (0 : Int) < 2 ^ n := by positivity
  obtain ⟨y, rfl⟩ : ∃ y : Nat, x = y := Int.eq_ofNat_of_zero_le (hx ▸ Int.emod_nonneg _ hpos.ne')
  have hy : y < 2 ^ n := by exact_mod_cast hx ▸ Int.emod_lt_of_pos _ hpos
  by_cases hn : n = 0
  · simp [hn]
  · cases sg with
    | false => simp [hn]
    | true =>
      have hcast : ((2 : Int) ^ (n - 1) ≤ (y : Int)) ↔ 2 ^ (n - 1) ≤ y := by exact_mod_cast Iff.rfl
      simp only [hn, if_false, if_true, true_and, Int.toNat_natCast, signed_of_lt hn hy, hcast]
      split <;> simp

/-- A bit field inserted: the low `n` bits of the value replace those of c from bit `p` (R173). -/
theorem bfiBits_eq (a b c : W32) :
    bfiBits a b c =
      (let p := min (b.toNat % 256) 32
       let n := min (b.toNat / 256 % 256) 32
       let k := BitVec.ofNat 32 ((2 ^ n - 1) * 2 ^ p)
       (c &&& ~~~k) ||| (BitVec.ofNat 32 (a.toNat * 2 ^ p) &&& k)) := by
  simp only [bfiBits, fieldShape, byteOf, Nat.mul_zero, Nat.pow_zero, Nat.div_one, Nat.mul_one, Nat.reducePow]

/-! ### Patterns of bits -/

/-- The powers of two of a number's set bits below `n` add up to its low `n` bits. -/
theorem sum_two_pow_testBit (x n : Nat) :
    ((List.range n).map fun i => if x.testBit i then 2 ^ i else 0).sum = x % 2 ^ n := by
  induction n with
  | zero => simp [Nat.mod_one]
  | succ n ih =>
    rw [List.range_succ, List.map_append, List.sum_append, ih, Nat.mod_pow_succ]
    obtain h | h := Nat.mod_two_eq_zero_or_one (x / 2 ^ n) <;> simp [Nat.testBit_eq_decide_div_mod_eq, h]

/-- A value is the sum of the powers of two of its bits. -/
theorem ofNat_sum_two_pow {n : Nat} (x : BitVec n) {p : Nat → Bool} (hp : ∀ i < n, p i = x.getLsbD i) :
    BitVec.ofNat n ((List.range n).map fun i => if p i then 2 ^ i else 0).sum = x := by
  have hmap : ((List.range n).map fun i => if p i then 2 ^ i else 0) =
      (List.range n).map fun i => if x.toNat.testBit i then 2 ^ i else 0 :=
    List.map_congr_left fun i hi => by rw [hp i (List.mem_range.mp hi), BitVec.testBit_toNat]
  rw [hmap, sum_two_pow_testBit, Nat.mod_eq_of_lt x.isLt, BitVec.ofNat_toNat, BitVec.setWidth_eq]

/-- A bit of values that are joined where a condition on their index holds. -/
theorem getLsbD_foldl_or {n : Nat} (p : Nat → Bool) (f : Nat → BitVec n) (j : Nat) : ∀ (is : List Nat) (x : BitVec n),
    (is.foldl (fun x i => if p i then x ||| f i else x) x).getLsbD j =
      (x.getLsbD j || is.any fun i => p i && (f i).getLsbD j)
  | [], x => by simp
  | i :: is, x => by
    rw [List.foldl_cons, getLsbD_foldl_or p f j is]
    cases hi : p i <;> simp [hi, Bool.or_assoc]

/-- BREV takes each bit from the mirrored place (R174). -/
theorem getLsbD_brevBits (a : W32) {j : Nat} (hj : j < 32) : (brevBits a).getLsbD j = a.getLsbD (31 - j) := by
  rw [brevBits, getLsbD_foldl_or, show (0 : W32).getLsbD j = false from BitVec.getLsbD_zero, Bool.eq_iff_iff]
  simp only [Bool.false_or, List.any_eq_true, List.mem_range, Bool.and_eq_true,
    BitVec.getLsbD_ofNat, hj, decide_true, Bool.true_and, Nat.testBit_two_pow, decide_eq_true_eq]
  constructor
  · rintro ⟨i, hi, ha, rfl⟩
    rwa [Nat.sub_sub_self (Nat.le_of_lt_succ hi)]
  · exact fun ha => ⟨31 - j, by omega, ha, by omega⟩

/-- BREV weighs bit `i` with the power of the mirrored place (R174). -/
theorem brevBits_eq (a : W32) :
    brevBits a = BitVec.ofNat 32 (((List.range 32).map fun i => if a.getLsbD i then 2 ^ (31 - i) else 0).sum) := by
  have hmirror : (List.range 32).map (31 - ·) = (List.range 32).reverse := by decide
  have hsum : ((List.range 32).map fun i => if a.getLsbD i then 2 ^ (31 - i) else 0).sum =
      ((List.range 32).map fun i => if a.getLsbD (31 - i) then 2 ^ i else 0).sum := by
    rw [← List.sum_reverse, ← List.map_reverse, ← hmirror, List.map_map]
    refine congrArg List.sum (List.map_congr_left fun i hi => ?_)
    have hi31 : 31 - (31 - i) = i := Nat.sub_sub_self (Nat.le_of_lt_succ (List.mem_range.mp hi))
    simp only [Function.comp_apply, hi31]
  rw [hsum, ofNat_sum_two_pow (brevBits a) fun i hi => (getLsbD_brevBits a hi).symm]

/-- A bit of BLUT is the table's entry at the index that the sources' bits give (R175). -/
theorem getLsbD_blutBits {n : Nat} (lut : BitVec 8) (x y z : BitVec n) {j : Nat} (hj : j < n) :
    (blutBits lut x y z).getLsbD j =
      lut.getLsbD ((if x.getLsbD j then 1 else 0) + (if y.getLsbD j then 2 else 0) + (if z.getLsbD j then 4 else 0)) := by
  rw [blutBits, getLsbD_foldl_or]
  simp only [BitVec.getLsbD_eq_getElem hj]
  cases hx : x[j] <;> cases hy : y[j] <;> cases hz : z[j] <;> simp [List.range_succ, hx, hy, hz]

/-- BLUT as a sum of powers of two (R175). -/
theorem blutBits_eq {n : Nat} (lut : BitVec 8) (a b c : BitVec n) :
    blutBits lut a b c = BitVec.ofNat n (((List.range n).map fun i =>
      if lut.getLsbD ((if a.getLsbD i then 1 else 0) + (if b.getLsbD i then 2 else 0) + (if c.getLsbD i then 4 else 0))
      then 2 ^ i else 0).sum) :=
  (ofNat_sum_two_pow _ fun _ hi => (getLsbD_blutBits lut a b c hi).symm).symm

end Sys2Proof.Machine
end

section
/-! PROOFS. O2: the bit operations (R171 to R175, R177). -/

namespace Sys2Proof.Machine

/-- SEL gives A where the predicate of its C field holds in the lane, else B (R177). -/
theorem sel_laneWord : LaneWord .sel 2 [false, false, false] fun v w l xs =>
    (if predFieldOf v.w w.c l then xs.getD 0 0 else xs.getD 1 0, 0) :=
  laneWord_of (j := jobSel) (fun _ => rfl) (by decide) fun _ _ _ => rfl

/-- A bit word of one source that issues has its B, C and SUB fields zero (R174). -/
theorem unary_fields_zero {i : Instr} {s : State} {v : View} {ex : Mask} (h : Runs i s v ex) {w : WordA}
    {opc : BitVec 8} {f : W32 → W32 → W32 → W32} (hj : wordJob i = some (bitJob opc w 1 (subZero w) f)) :
    w.b = .v 0 ∧ w.c = .v 0 ∧ w.sub = 0 := by
  have hb := h.passes hj (c := c14 (!isUnused w.b) 31) (by simp [bitJob, aluJob, aOperands, srcCheck])
  have hc := h.passes hj (c := c14 (!isUnused w.c) 23) (by simp [bitJob, aluJob, aOperands, srcCheck])
  have hsub := h.passes hj (c := c14 (decide (w.sub ≠ 0)) 15) (by simp [bitJob, aluJob, subZero])
  simp only [c14, isUnused, Bool.not_eq_false', decide_eq_true_eq, decide_eq_false_iff_not, not_not] at hb hc hsub
  exact ⟨hb, hc, hsub⟩

/-- Settles O2: each word's job computes the value that the lemmas on shifts, fields and bit patterns give. -/
theorem bitOperationResults : Obligations.BitOperationResults := by
  unfold Obligations.BitOperationResults
  refine ⟨?shl, ?shr, ?sar, ?fshf, ?bfe, ?bfi, ?popc, ?clz, ?ctz, ?brev, ?blut, sel_laneWord, ?mov,
    fun _ => ⟨rfl, rfl, rfl, rfl⟩, ?fields⟩
  case shl => exact bitWord_of (by decide) (fun _ => rfl) fun _ a b _ => shlBits_eq a b.toNat
  case shr => exact bitWord_of (by decide) (fun _ => rfl) fun _ a b _ => shrBits_eq a b.toNat
  case sar => exact bitWord_of (by decide) (fun _ => rfl) fun _ a b _ => sarBits_eq a b.toNat
  case fshf => exact bitWord_of (by decide) (fun _ => rfl) fun _ a b c => fshfBits_eq _ _ a b c
  case bfe => exact bitWord_of (by decide) (fun _ => rfl) fun _ a b _ => bfeBits_eq _ a b
  case bfi => exact bitWord_of (by decide) (fun _ => rfl) fun _ a b c => bfiBits_eq a b c
  case popc => exact bitWord_of (by decide) (fun _ => rfl) fun _ _ _ _ => rfl
  case clz => exact bitWord_of (by decide) (fun _ => rfl) fun _ _ _ _ => rfl
  case ctz => exact bitWord_of (by decide) (fun _ => rfl) fun _ _ _ _ => rfl
  case brev => exact bitWord_of (by decide) (fun _ => rfl) fun _ a _ _ => brevBits_eq a
  case blut => exact bitWord_of (by decide) (fun _ => rfl) fun w a b c => blutBits_eq w.sub a b c
  case mov => exact bitWord_of (by decide) (fun _ => rfl) fun _ _ _ _ => rfl
  case fields =>
    intro mk hmk w s v ex h
    simp only [List.mem_cons, List.not_mem_nil, or_false] at hmk
    obtain rfl | rfl | rfl | rfl := hmk
    · exact unary_fields_zero h rfl
    · exact unary_fields_zero h rfl
    · exact unary_fields_zero h rfl
    · exact unary_fields_zero h rfl

end Sys2Proof.Machine
end

section
/-! PROOFS. O4: compares, predicate lookups, votes and scalar compares (R176, R178, R190, R197). -/

namespace Sys2Proof.Machine

/-- The predicates that a P-format word writes are those of the statements. -/
theorem predResult_eq (v : View) (ex : Mask) (w : WordP) (t : Nat → Bool) : predResult v ex w t = predsAfter v ex w t := rfl

/-- A condition code 0 to 5 on integers (Table 7.4); the codes above 5 read as 5. -/
theorem condInt_eq (k : Nat) (a b : Int) :
    condInt k a b = (match k with
      | 0 => decide (a = b) | 1 => decide (a ≠ b) | 2 => decide (a < b)
      | 3 => decide (a ≤ b) | 4 => decide (b < a) | _ => decide (b ≤ a)) := by
  match k with
  | 0 => rfl
  | 1 => simp [condInt, condOrd]
  | 2 => rfl
  | 3 => simp [condInt, condOrd, Int.le_iff_lt_or_eq]
  | 4 =>
    have hgt : b < a ↔ ¬ (a < b ∨ a = b) := by omega
    simp only [condInt, condOrd, hgt, decide_not, Bool.decide_or]
  | _ + 5 => simp only [condInt, condOrd, ← Int.not_lt, decide_not]

/-- A compare word tests with `f` where its job computes `f`. -/
theorem compareWord_of {mk : WordP → Instr} {fp : Bool} {f : View → WordP → W32 → W32 → Bool × Flags} {opc : BitVec 8}
    {types : List Nat} {conds : Nat} {g : WordP → View → W32 → W32 → Bool × Flags}
    (hj : ∀ w, wordJob (mk w) = some (cmpJob opc w fp types conds (g w))) (hg : ∀ w v a b, g w v a b = f v w a b) :
    CompareWord mk fp f := by
  intro w s v ex ents h hp
  refine goes_of (hj w) h ?_
  simp only [cmpJob, hp, hg, predResult_eq]

/-- PLUT looks its table up at the index that three predicates give (R178). -/
theorem plut_goes (w : WordP) (s : State) (v : View) (ex : Mask) (h : Runs (.plut w) s v ex) :
    let bit (b : Bool) : Nat := if b then 1 else 0
    let test (l : Nat) : Bool := w.sub.getLsbD (bit (predFieldOf v.w w.a l) + 2 * bit (predFieldOf v.w w.b l) +
      4 * bit (predOf v.w w.pc.toNat l != w.pcn))
    Goes (.plut w) s v (v.put v.d (predsAfter v ex w fun l => if w.u || v.uni then test v.lane0 else test l)) :=
  goes_of (j := jobPlut w) rfl h rfl

/-- VOTE asks whether all, any, or all or none of the executing lanes hold the predicate (R190). -/
theorem vote_goes (w : WordP) (s : State) (v : View) (ex : Mask) (h : Runs (.vote w) s v ex) :
    let yes := (lanesOf v.width ex).filter fun l => predFieldOf v.w w.a l
    let all := decide (maskOf yes = ex)
    let t := match w.sub.toNat with | 0 => all | 1 => decide (maskOf yes ≠ 0) | _ => all || decide (maskOf yes = 0)
    Goes (.vote w) s v (v.put v.d (predsAfter v ex w fun _ => t)) :=
  goes_of (j := jobVote w) rfl h rfl

/-- SCMP tests once (R197). -/
theorem scmp_goes (w : WordP) (s : State) (v : View) (ex : Mask) (h : Runs (.scmp w) s v ex) :
    Goes (.scmp w) s v (v.put v.d (predsAfter v ex w fun _ =>
      condInt (w.sub.toNat / 16) (scalarVal (w.sub.toNat % 16) (src64 v w.a)) (scalarVal (w.sub.toNat % 16) (src64 v w.b)))) :=
  goes_of (j := jobScmp w) rfl h rfl

/-- SCMP has a condition from 0 to 5 and a scalar type (R197). -/
theorem scmp_fields (w : WordP) (s : State) (v : View) (ex : Mask) (h : Runs (.scmp w) s v ex) :
    w.sub.toNat / 16 ≤ 5 ∧
      (w.sub.toNat % 16 = 2 ∨ w.sub.toNat % 16 = 3 ∨ w.sub.toNat % 16 = 6 ∨ w.sub.toNat % 16 = 7) := by
  have htype := h.passes (j := jobScmp w) rfl (c := c14 (!([2, 3, 6, 7].contains (subLo w.sub))) 11) (by simp [jobScmp])
  have hcond := h.passes (j := jobScmp w) rfl (c := c14 (decide (6 ≤ subHi w.sub)) 15) (by simp [jobScmp])
  have hcond : ¬ 6 ≤ w.sub.toNat / 16 := of_decide_eq_false hcond
  simp only [c14, subLo, Bool.not_eq_false', List.contains_eq_mem, List.mem_cons, List.not_mem_nil, or_false,
    decide_eq_true_eq] at htype
  exact ⟨by omega, htype⟩

/-- Settles O4: every such word writes its predicates through the shared form, and SCMP runs once in the active lanes. -/
theorem predicateResults : Obligations.PredicateResults := by
  unfold Obligations.PredicateResults
  refine ⟨?icmp, ?fcmp, plut_goes, vote_goes, ?scmp, fun _ => rfl⟩
  case icmp =>
    exact compareWord_of (fun _ => rfl) fun w _ a b => congrArg (·, (0 : Flags)) (condInt_eq _ _ _)
  case fcmp => exact compareWord_of (fun _ => rfl) fun _ _ _ _ => rfl
  case scmp =>
    intro w s v ex h
    refine ⟨?_, h.exec_once (j := jobScmp w) rfl rfl, scmp_fields w s v ex h⟩
    have hgoes := scmp_goes w s v ex h
    rwa [condInt_eq] at hgoes

end Sys2Proof.Machine
end

section
/-! PROOFS. O11: the scalar words (R194 to R196, R198, R199). -/

namespace Sys2Proof.Machine

/-- A typed scalar word gives `f` where its job computes `f`. -/
theorem scalarIntWord_of {mk : WordA → Instr} {f : Nat → Int → Int → Int → Int} {opc : BitVec 8} {n : Nat} {sat : Bool}
    (hj : ∀ w, wordJob (mk w) = some (scalarInt opc w n sat f)) : ScalarIntWord mk f :=
  scalarWord_of hj fun _ _ _ _ => rfl

/-- A scalar shift gives `f` where its job's shift of a value cut to the type's width is `f`. -/
theorem scalarShiftWord_of {mk : WordA → Instr} {f : Nat → W64 → Nat → Int} {opc : BitVec 8}
    {g : (n : Nat) → BitVec n → Nat → BitVec n} (hj : ∀ w, wordJob (mk w) = some (scalarShift opc w g))
    (hg : ∀ n a k, g n (a.setWidth n) k = wrap n (f n a k)) : ScalarShiftWord mk f := by
  refine scalarWord_of hj fun w a b _ => ?_
  have hwrap (n : Nat) (x : BitVec n) : wrap n (x.toNat : Int) = x := by simp [wrap]
  simp only [scalarExt, hwrap, hg, BitVec.toNat_setWidth]
  rfl

/-- A left shift of a value cut to `n` bits (R195). -/
theorem shlBits_setWidth (n : Nat) (a : W64) (k : Nat) :
    shlBits (a.setWidth n) k = wrap n (if k < n then ((a.toNat * 2 ^ k : Nat) : Int) else 0) := by
  rw [shlBits_eq, BitVec.toNat_setWidth]
  split
  · rw [wrap, BitVec.ofInt_natCast]
    exact BitVec.eq_of_toNat_eq (by simp [Nat.mul_mod])
  · simp [wrap]

/-- A logical right shift of a value cut to `n` bits (R195). -/
theorem shrBits_setWidth (n : Nat) (a : W64) (k : Nat) :
    shrBits (a.setWidth n) k = wrap n (if k < n then ((a.toNat % 2 ^ n / 2 ^ k : Nat) : Int) else 0) := by
  rw [shrBits_eq, BitVec.toNat_setWidth]
  split
  · exact (BitVec.ofInt_natCast _ _).symm
  · simp [wrap]

/-- A left shift multiplies by a power of two. -/
theorem shiftLeft_eq_mul_ofNat (b : W64) (k : Nat) : b <<< k = b * BitVec.ofNat 64 (2 ^ k) :=
  BitVec.eq_of_toNat_eq (by simp [Nat.shiftLeft_eq])

/-- SMOVH puts IMM above the low half (R196). -/
theorem append_setWidth_eq (i : W32) (d : W64) :
    (i ++ d.setWidth 32 : W64) = BitVec.ofNat 64 (i.toNat * 2 ^ 32 + d.toNat % 2 ^ 32) := by
  refine BitVec.eq_of_toNat_eq ?_
  rw [BitVec.toNat_append, BitVec.toNat_setWidth, ← Nat.shiftLeft_add_eq_or_of_lt (Nat.mod_lt _ (Nat.two_pow_pos 32)),
    Nat.shiftLeft_eq, BitVec.toNat_ofNat]
  omega

/-- An immediate scalar word gives `f` where its job computes `f`. -/
theorem scalarImmWord_of {mk : WordI → Instr} {f : View → WordI → W64} {opc : BitVec 8} {useA : Bool}
    {g : WordI → View → W64} (hj : ∀ w, wordJob (mk w) = some (scalarImm opc w useA (g w)))
    (hg : ∀ w v, g w v = f v w) : ScalarImmWord mk f := by
  intro w s v ex h
  refine goes_of (hj w) h ?_
  simp only [scalarImm, hg]

/-- A MOD field whose RM bits and top bit are zero is zero. -/
theorem md_eq_zero : ∀ m : BitVec 4, rmField m = 0 → m.getLsbD 3 = false → m = 0 := by decide

/-- An immediate scalar word that issues has MOD zero: its RM field must be zero and its uniform bit clear (R196). -/
theorem scalarImm_mod_zero {i : Instr} {s : State} {v : View} {ex : Mask} (h : Runs i s v ex) {w : WordI}
    {opc : BitVec 8} {useA : Bool} {f : View → W64} (hj : wordJob i = some (scalarImm opc w useA f)) : w.hd.md = 0 := by
  have hrm := h.passes hj (c := c14 (decide (rmField w.hd.md ≠ 0)) 50) (by simp [scalarImm, iRmZero])
  have hrm : ¬ rmField w.hd.md ≠ 0 := of_decide_eq_false hrm
  exact md_eq_zero _ (not_not.mp hrm) (h.not_uniform hj rfl)

/-- One lane's pending write of a vector register is the write of that register. -/
theorem putWrites_vWrites_one (v : View) (d : Device) (n l : Nat) (x : Nat → W32) :
    putWrites v d (vWrites v n [l] x) = vset d v.core v.w l n (x l) := by
  unfold vWrites vset
  cases hk : vword v.w l n <;> simp [putWrites, locPut, hk]

/-- READLANE gives the value of its vector register in the lane that B names (R199). -/
theorem readlane_goes (w : WordA) (s : State) (v : View) (ex : Mask) (n r : Nat) (h : Runs (.readlane w) s v ex)
    (hd : w.d = .s n) (ha : w.a = .v r) :
    Goes (.readlane w) s v (v.put v.d (sput n ((vget v.d v.core v.w ((src64 v w.b).toNat % v.width) r).setWidth 64))) := by
  refine goes_of (j := jobReadlane w) rfl h ?_
  simp only [jobReadlane, hd, ha, regNo]
  rfl

/-- WRITELANE writes its vector register in the lane that B names (R199). -/
theorem writelane_goes (w : WordA) (s : State) (v : View) (ex : Mask) (r : Nat) (h : Runs (.writelane w) s v ex)
    (hd : w.d = .v r) :
    Goes (.writelane w) s v (vset v.d v.core v.w ((src64 v w.b).toNat % v.width) r ((src64 v w.a).setWidth 32)) := by
  refine goes_of (j := jobWritelane w) rfl h ?_
  simp only [jobWritelane, hd, regNo, putWrites_vWrites_one]
  rfl

/-- Settles O11: the scalar forms follow from the jobs, and the shifts, BLUT and SMOVH from their values. -/
theorem scalarResults : Obligations.ScalarResults := by
  unfold Obligations.ScalarResults
  refine ⟨?sadd, ?ssub, ?smul, ?smulh, ?smad, ?smin, ?smax, ?sshl, ?sshr, ?ssar, ?sblut, ?smov, ?smovi, ?smovh, ?saddi,
    ?slea, readlane_goes, writelane_goes, fun _ => ⟨rfl, rfl, rfl⟩, ?fields⟩
  case sadd => exact scalarIntWord_of fun _ => rfl
  case ssub => exact scalarIntWord_of fun _ => rfl
  case smul => exact scalarIntWord_of fun _ => rfl
  case smulh => exact scalarIntWord_of fun _ => rfl
  case smad => exact scalarIntWord_of fun _ => rfl
  case smin => exact scalarIntWord_of fun _ => rfl
  case smax => exact scalarIntWord_of fun _ => rfl
  case sshl => exact scalarShiftWord_of (fun _ => rfl) shlBits_setWidth
  case sshr => exact scalarShiftWord_of (fun _ => rfl) shrBits_setWidth
  case ssar => exact scalarShiftWord_of (fun _ => rfl) fun _ _ _ => sarBits_eq _ _
  case sblut => exact scalarWord_of (fun _ => rfl) fun w a b c => congrArg (·, (0 : Flags)) (blutBits_eq w.sub a b c)
  case smov => exact scalarWord_of (fun _ => rfl) fun _ _ _ _ => rfl
  case smovi => exact scalarImmWord_of (fun _ => rfl) fun _ _ => rfl
  case smovh => exact scalarImmWord_of (fun _ => rfl) fun w v => append_setWidth_eq w.imm (src64 v w.d)
  case saddi => exact scalarImmWord_of (fun _ => rfl) fun _ _ => rfl
  case slea => exact scalarWord_of (fun _ => rfl) fun w a b c => by rw [shiftLeft_eq_mul_ofNat]
  case fields =>
    intro mk hmk w s v ex h
    simp only [List.mem_cons, List.not_mem_nil, or_false] at hmk
    obtain rfl | rfl | rfl := hmk
    · exact scalarImm_mod_zero h rfl
    · exact scalarImm_mod_zero h rfl
    · exact scalarImm_mod_zero h rfl

end Sys2Proof.Machine
end

section
/-! PROOFS. O9: the cross-lane words (R187 to R193). -/

namespace Sys2Proof.Machine

/-- SHFL's lane, with its mode as a chain of cases (R188). -/
theorem shflLane_eq (m n l : Nat) (b : W32) :
    shflLane m n l b =
      (let i := l % n
       let t : Int := if m = 0 then ((b.toNat % n : Nat) : Int) else if m = 1 then (i : Int) - (b.toNat : Int)
         else if m = 2 then (i : Int) + (b.toNat : Int) else ((i ^^^ (b.toNat % n) : Nat) : Int)
       if 0 ≤ t ∧ t < (n : Int) then l - i + t.toNat else l) := by
  match m with
  | 0 => rfl
  | 1 => rfl
  | 2 => rfl
  | _ + 3 => rfl

/-- The half of a mask that a selector bit names. -/
theorem half_offset (b : Bool) : 32 * nat1 b = if b then 32 else 0 := by cases b <;> rfl

/-- The flags of lanes that raise none. -/
theorem orFlags_map_zero (ls : List Nat) : orFlags (ls.map fun _ => 0) = 0 := by
  unfold orFlags
  induction ls with
  | nil => rfl
  | cons l ls ih => simpa using ih

/-- LPUSH gives each receiving lane the value of the highest lane that sends to it (R189, log 113). -/
theorem lpush_goes (w : WordA) (s : State) (v : View) (ex : Mask) (ents : List (List W32)) (t : Device)
    (h : Runs (.lpush w) s v ex) (hp : popWalk v [w.a, w.b] [] = (ents, none)) :
    let from' (t : Nat) : Option Nat :=
      ((lanesOf v.width ex).filter fun l => decide ((src v (ents.getD 1 []) w.b l).toNat % v.width = t)).getLast?
    let hit := maskOf ((lanesOf v.width ex).filter fun l => (from' l).isSome)
    let x (l : Nat) : W32 := src v (ents.getD 0 []) w.a ((from' l).getD l)
    let d0 := v.put (popApply v v.d [w.a, w.b]) (addFlags 0)
    (match w.d with
      | .v n => t = putWrites v d0 (dstWrites v (.v n) hit x)
      | .q j => pushEntry v d0 j (fun l => if hit.getLsbD l then x l else 0) = .done t
      | d => t = putWrites v d0 (dstWrites v d hit x)) →
    Goes (.lpush w) s v t := by
  intro from' hit x d0 hl
  have hlands : Lands v false hit w.d [w.a, w.b] (fun l => (x l, 0)) t := by
    simp only [Lands, wordFlags, Bool.false_eq_true, if_false, orFlags_map_zero]
    cases hd : w.d <;> rw [hd] at hl <;> exact hl
  refine goes_of (j := jobLpush w) rfl h ?_
  simp only [jobLpush, hp]
  exact destEffect_lands hp hlands

/-- BALLOT gives the executing lanes in which its predicate is true: whole to an s register, else the half that SUB
selects (R190, log 53). -/
theorem ballot_goes (w : WordA) (s : State) (v : View) (ex : Mask) (t : Device) (h : Runs (.ballot w) s v ex) :
    let m := maskOf ((lanesOf v.width ex).filter fun l => predFieldOf v.w w.a l)
    (match w.d with
      | .s n => t = putWrites v v.d [(.sreg n, m)]
      | d => Lands v false ex d [] (fun _ => (m.extractLsb' (if w.sub.getLsbD 0 then 32 else 0) 32, 0)) t) →
    Goes (.ballot w) s v t := by
  intro m hl
  refine goes_of (j := jobBallot w) rfl h ?_
  simp only [jobBallot, half_offset]
  cases hd : w.d with
  | s n =>
    rw [hd] at hl
    exact congrArg (Eff.done · .onward) hl.symm
  | _ =>
    rw [hd] at hl
    exact destEffect_lands (ents := []) rfl hl

/-- A reduction's job combines as the statement's form says. -/
theorem reduceWord_of {mk : WordA → Instr} {opc : BitVec 8} {scan : Bool}
    (hj : ∀ w, wordJob (mk w) = some (reduceJob opc w scan)) : ReduceWord mk scan := by
  intro w s v ex ents t h hp hl
  refine goes_of (hj w) h ?_
  simp only [reduceJob, reduceLanes]
  exact destEffect_lands hp hl

/-- The byte that BSEL's selector `i` chooses of a, b, a constant or the byte below (R193). -/
def bselByte (a b c : W32) (i prev : Nat) : Nat :=
  let k := c.toNat / 16 ^ i % 16
  if k < 4 then a.toNat / 256 ^ k % 256
  else if k < 8 then b.toNat / 256 ^ (k - 4) % 256
  else if k = 9 then 255
  else if k = 10 then (if 128 ≤ prev then 255 else 0)
  else if k = 11 then prev else 0

/-- Byte `k` of a 64-bit value is one of its low or of its high half. -/
theorem byte_append (b a : W32) (k : Nat) :
    (b ++ a : W64).toNat / 2 ^ (8 * k) % 256 =
      if k < 4 then a.toNat / 256 ^ k % 256 else b.toNat / 256 ^ (k - 4) % 256 := by
  have h256 (n : Nat) : 256 ^ n = 2 ^ (8 * n) := by rw [Nat.pow_mul]
  have happ : (b ++ a : W64).toNat = 2 ^ 32 * b.toNat + a.toNat := by
    rw [BitVec.toNat_append, ← Nat.shiftLeft_add_eq_or_of_lt a.isLt, Nat.shiftLeft_eq, Nat.mul_comm]
  rw [happ, h256, h256]
  split
  next hk =>
    have h32 : 2 ^ 32 * b.toNat = 2 ^ (8 * k) * (256 * (2 ^ (24 - 8 * k) * b.toNat)) := by
      rw [← Nat.mul_assoc, ← Nat.mul_assoc, show 256 = 2 ^ 8 from rfl, ← Nat.pow_add, ← Nat.pow_add]
      congr 2
      omega
    rw [h32, Nat.mul_add_div (Nat.two_pow_pos _), Nat.mul_add_mod]
  next hk =>
    have hpow : 2 ^ (8 * k) = 2 ^ 32 * 2 ^ (8 * (k - 4)) := by rw [← Nat.pow_add]; congr 1; omega
    rw [hpow, ← Nat.div_div_eq_div_mul, Nat.mul_add_div (Nat.two_pow_pos 32), Nat.div_eq_of_lt a.isLt, Nat.add_zero]

/-- BSEL's bytes, one after another (R193). -/
theorem bselBytes_succ (a b c : W32) (n i prev : Nat) :
    bselBytes (b ++ a) c (n + 1) i prev =
      BitVec.ofNat 8 (bselByte a b c i prev) :: bselBytes (b ++ a) c n (i + 1) (bselByte a b c i prev) := by
  have hk : c.toNat / 2 ^ (4 * i) % 16 = c.toNat / 16 ^ i % 16 := by rw [Nat.pow_mul]
  simp only [bselBytes, bselByte, hk, byte_append]
  generalize c.toNat / 16 ^ i % 16 = k
  by_cases h4 : k < 4
  · simp only [h4, h4.trans (by decide : 4 < 8), if_true]
  · simp only [h4, if_false]

/-- No byte is left. -/
theorem bselBytes_zero (x : W64) (c : W32) (i prev : Nat) : bselBytes x c 0 i prev = [] := rfl

/-- A byte that BSEL chooses is a byte. -/
theorem bselByte_lt (a b c : W32) (i : Nat) {prev : Nat} (h : prev < 256) : bselByte a b c i prev < 256 := by
  unfold bselByte
  dsimp only
  split_ifs <;> omega

/-- BSEL's result as the sum of its four bytes (R193). -/
theorem leNat_bselBytes (a b c : W32) :
    leNat (bselBytes (b ++ a) c 4 0 0) =
      (let y0 := bselByte a b c 0 0
       let y1 := bselByte a b c 1 y0
       let y2 := bselByte a b c 2 y1
       let y3 := bselByte a b c 3 y2
       y0 + 256 * y1 + 65536 * y2 + 16777216 * y3) := by
  have h0 := bselByte_lt a b c 0 (prev := 0) (by decide)
  have h1 := bselByte_lt a b c 1 h0
  have h2 := bselByte_lt a b c 2 h1
  have h3 := bselByte_lt a b c 3 h2
  simp only [bselBytes_succ, bselBytes_zero, leNat, BitVec.toNat_ofNat, Nat.reduceAdd]
  omega

/-- MATCH's destination is a vector register (R192). -/
theorem matchLanes_dst (w : WordA) (s : State) (v : View) (ex : Mask) (h : Runs (.matchLanes w) s v ex) :
    ∃ n, w.d = .v n := by
  have hd := h.passes (j := jobMatchLanes w) rfl (c := c13 (!isV w.d) 47) (by simp [jobMatchLanes, crossJob])
  cases hw : w.d with
  | v n => exact ⟨n, rfl⟩
  | _ => simp [c13, isV, hw] at hd

/-- Settles O9: the cross-lane form follows from the jobs, with SHFL's lane and BSEL's bytes computed; LPUSH and BALLOT
have effects of their own. -/
theorem crossLaneResults : Obligations.CrossLaneResults := by
  unfold Obligations.CrossLaneResults
  refine ⟨?shfl, lpush_goes, ballot_goes, ?wred, ?wscan, ?bcast, ?matchLanes, ?bsel, fun _ => ⟨rfl, rfl, rfl⟩,
    matchLanes_dst⟩
  case shfl =>
    refine crossWord_of (fun w => by simp only [wordJob, jobShfl]; rfl) fun _ _ _ _ => funext fun _ => ?_
    rw [shflLane_eq]
  case wred => exact reduceWord_of (opc := 0x74) fun _ => rfl
  case wscan => exact reduceWord_of (opc := 0x75) fun _ => rfl
  case bcast => exact crossWord_of (fun _ => rfl) fun _ _ _ _ => rfl
  case matchLanes =>
    refine crossWord_of (fun _ => rfl) fun _ _ _ _ => ?_
    simp only [half_offset]
  case bsel =>
    refine crossWord_of (fun _ => rfl) fun _ _ _ _ => ?_
    simp only [leNat_bselBytes]
    rfl

end Sys2Proof.Machine
end

section
/-! PROOFS. O49, O50, O51: a word and the instruction that it decodes to determine each other (R146, R147, Tables 3.3, 7.1 to
7.3). Each format is read field by field: a field of the word's bits is the field that stands there. -/

namespace Sys2Proof
open BitVec

/-! ### Operands and bits -/

/-- An operand is read back from its code (Table 3.3). -/
theorem operandOf_operandCode {o : Operand} (h : o.wf = true) : operandOf (operandCode o) = o := by
  cases o with
  | v n => revert n; simp only [Operand.wf, decide_eq_true_eq]; decide
  | s n => revert n; simp only [Operand.wf, decide_eq_true_eq]; decide
  | b n => revert n; simp only [Operand.wf, decide_eq_true_eq]; decide
  | pos n => revert n; simp only [Operand.wf, decide_eq_true_eq, ← Nat.lt_succ_iff]; decide
  | neg n =>
    simp only [Operand.wf, decide_eq_true_eq] at h
    obtain ⟨hlo, hhi⟩ := h
    interval_cases n <;> rfl
  | fp n => revert n; simp only [Operand.wf, decide_eq_true_eq]; decide
  | reserved n => revert n; simp only [Operand.wf, decide_eq_true_eq]; decide
  | q n => revert n; simp only [Operand.wf, decide_eq_true_eq]; decide
  | _ => rfl

/-- Every code is that of the operand that it names. -/
theorem operandCode_operandOf (c : BitVec 8) : operandCode (operandOf c) = c := by revert c; decide

/-- The operand of a code is well-formed. -/
theorem operandOf_wf (c : BitVec 8) : (operandOf c).wf = true := by revert c; decide

/-- A bit of a word is a field of one bit. -/
theorem bitAt_eq (w : W64) (i : Nat) : bitAt w i = (w.extractLsb' i 1).getLsbD 0 := by simp [bitAt]

/-- A truth value is read back from its bit. -/
theorem getLsbD_bit1 (b : Bool) : (bit1 b).getLsbD 0 = b := by cases b <;> rfl

/-- A field of one bit is the bit of its truth value. -/
theorem bit1_getLsbD (x : BitVec 1) : bit1 (x.getLsbD 0) = x := by revert x; decide

/-! ### The fields that formats share (Tables 7.2 and 7.3) -/

/-- A field of the head, by the fields that stand one after another. -/
theorem extract_headBits (opc : BitVec 8) (h : WordHead) (k n : Nat) :
    (headBits opc h).extractLsb' k n = (opc ++ bit1 h.g.neg ++ h.g.p ++ h.md).extractLsb' k n := rfl

/-- The head's opcode. -/
theorem opc_headBits (opc : BitVec 8) (h : WordHead) : (headBits opc h).extractLsb' 8 8 = opc := by
  simp (disch := decide) only [extract_headBits, extractLsb'_append_eq_of_le, Nat.reduceSub, extractLsb'_eq_self]

/-- The sign of the head's guard. -/
theorem neg_headBits (opc : BitVec 8) (h : WordHead) : ((headBits opc h).extractLsb' 7 1).getLsbD 0 = h.g.neg := by
  simp (disch := decide) only [extract_headBits, extractLsb'_append_eq_of_le, extractLsb'_append_eq_of_add_le,
    Nat.reduceSub, extractLsb'_eq_self, getLsbD_bit1]

/-- The predicate of the head's guard. -/
theorem p_headBits (opc : BitVec 8) (h : WordHead) : (headBits opc h).extractLsb' 4 3 = h.g.p := by
  simp (disch := decide) only [extract_headBits, extractLsb'_append_eq_of_le, extractLsb'_append_eq_of_add_le,
    Nat.reduceSub, extractLsb'_eq_self]

/-- The head's MOD field. -/
theorem md_headBits (opc : BitVec 8) (h : WordHead) : (headBits opc h).extractLsb' 0 4 = h.md := by
  simp (disch := decide) only [extract_headBits, extractLsb'_append_eq_of_add_le, extractLsb'_eq_self]

/-- A field of the tail of memory words, by the fields that stand one after another. -/
theorem extract_memTailBits (t : MemTail) (k n : Nat) :
    (memTailBits t).extractLsb' k n = (t.ord ++ t.sco ++ bit1 t.u ++ t.ch).extractLsb' k n := rfl

/-- The tail's ORD field. -/
theorem ord_memTailBits (t : MemTail) : (memTailBits t).extractLsb' 6 2 = t.ord := by
  simp (disch := decide) only [extract_memTailBits, extractLsb'_append_eq_of_le, Nat.reduceSub, extractLsb'_eq_self]

/-- The tail's SCO field. -/
theorem sco_memTailBits (t : MemTail) : (memTailBits t).extractLsb' 3 3 = t.sco := by
  simp (disch := decide) only [extract_memTailBits, extractLsb'_append_eq_of_le, extractLsb'_append_eq_of_add_le,
    Nat.reduceSub, extractLsb'_eq_self]

/-- The tail's uniform bit. -/
theorem u_memTailBits (t : MemTail) : ((memTailBits t).extractLsb' 2 1).getLsbD 0 = t.u := by
  simp (disch := decide) only [extract_memTailBits, extractLsb'_append_eq_of_le, extractLsb'_append_eq_of_add_le,
    Nat.reduceSub, extractLsb'_eq_self, getLsbD_bit1]

/-- The tail's CH field. -/
theorem ch_memTailBits (t : MemTail) : (memTailBits t).extractLsb' 0 2 = t.ch := by
  simp (disch := decide) only [extract_memTailBits, extractLsb'_append_eq_of_add_le, extractLsb'_eq_self]

/-! ### Format A -/

/-- A field of a word of format A, by the fields that stand one after another (Table 7.3). -/
theorem WordA.extract_toBits (w : WordA) (opc : BitVec 8) (k n : Nat) :
    (w.toBits opc).extractLsb' k n = (headBits opc w.hd ++ operandCode w.d ++ operandCode w.a ++
      operandCode w.b ++ operandCode w.c ++ w.sub ++ bit1 w.u ++ w.neg ++ w.abs ++ bit1 w.low).extractLsb' k n := rfl

/-- The opcode of a word of format A. -/
theorem WordA.opc_toBits (w : WordA) (opc : BitVec 8) : (w.toBits opc).extractLsb' 56 8 = opc := by
  simp (disch := decide) only [extract_toBits, extractLsb'_append_eq_of_le, Nat.reduceSub, opc_headBits]

/-- Format A is read back from its word. -/
theorem WordA.ofBits_toBits {w : WordA} (opc : BitVec 8) (h : w.wf = true) :
    WordA.ofBits (w.toBits opc) = w := by
  simp only [WordA.wf, Bool.and_eq_true] at h
  obtain ⟨⟨⟨hd, ha⟩, hb⟩, hc⟩ := h
  simp (disch := decide) only [WordA.ofBits, headOf, operandAt, bitAt_eq, extract_toBits,
    extractLsb'_append_eq_of_le, extractLsb'_append_eq_of_add_le, extractLsb'_eq_self, Nat.reduceSub,
    neg_headBits, p_headBits, md_headBits, getLsbD_bit1, operandOf_operandCode hd, operandOf_operandCode ha,
    operandOf_operandCode hb, operandOf_operandCode hc]

/-- A word read in format A is the word of its fields. -/
theorem WordA.toBits_ofBits {w : W64} {opc : BitVec 8} (h : w.extractLsb' 56 8 = opc) :
    (WordA.ofBits w).toBits opc = w := by
  subst h
  simp (disch := decide) only [WordA.ofBits, WordA.toBits, headBits, headOf, operandAt, operandCode_operandOf, bitAt_eq,
    bit1_getLsbD, extractLsb'_append_extractLsb'_eq_extractLsb']
  exact extractLsb'_eq_self

/-- The operands of a word read in format A are well-formed. -/
theorem WordA.wf_ofBits (w : W64) : (WordA.ofBits w).wf = true := by
  simp only [WordA.wf, WordA.ofBits, operandAt, operandOf_wf, Bool.and_self]

/-! ### Format I -/

/-- A field of a word of format I, by the fields that stand one after another (Table 7.3). -/
theorem WordI.extract_toBits (w : WordI) (opc : BitVec 8) (k n : Nat) :
    (w.toBits opc).extractLsb' k n = (headBits opc w.hd ++ operandCode w.d ++ operandCode w.a ++
      w.imm).extractLsb' k n := rfl

/-- The opcode of a word of format I. -/
theorem WordI.opc_toBits (w : WordI) (opc : BitVec 8) : (w.toBits opc).extractLsb' 56 8 = opc := by
  simp (disch := decide) only [extract_toBits, extractLsb'_append_eq_of_le, Nat.reduceSub, opc_headBits]

/-- Format I is read back from its word. -/
theorem WordI.ofBits_toBits {w : WordI} (opc : BitVec 8) (h : w.wf = true) :
    WordI.ofBits (w.toBits opc) = w := by
  simp only [WordI.wf, Bool.and_eq_true] at h
  obtain ⟨hd, ha⟩ := h
  simp (disch := decide) only [WordI.ofBits, headOf, operandAt, bitAt_eq, extract_toBits,
    extractLsb'_append_eq_of_le, extractLsb'_append_eq_of_add_le, extractLsb'_eq_self, Nat.reduceSub,
    neg_headBits, p_headBits, md_headBits, operandOf_operandCode hd, operandOf_operandCode ha]

/-- A word read in format I is the word of its fields. -/
theorem WordI.toBits_ofBits {w : W64} {opc : BitVec 8} (h : w.extractLsb' 56 8 = opc) :
    (WordI.ofBits w).toBits opc = w := by
  subst h
  simp (disch := decide) only [WordI.ofBits, WordI.toBits, headBits, headOf, operandAt, operandCode_operandOf, bitAt_eq,
    bit1_getLsbD, extractLsb'_append_extractLsb'_eq_extractLsb']
  exact extractLsb'_eq_self

/-- The operands of a word read in format I are well-formed. -/
theorem WordI.wf_ofBits (w : W64) : (WordI.ofBits w).wf = true := by
  simp only [WordI.wf, WordI.ofBits, operandAt, operandOf_wf, Bool.and_self]

/-! ### Format P -/

/-- A field of a word of format P, by the fields that stand one after another (Table 7.3). -/
theorem WordP.extract_toBits (w : WordP) (opc : BitVec 8) (k n : Nat) :
    (w.toBits opc).extractLsb' k n = (headBits opc w.hd ++ w.pd ++ w.pe ++ w.cmb ++
      operandCode w.a ++ operandCode w.b ++ w.pc ++ bit1 w.pcn ++ w.res ++ w.sub ++ bit1 w.u ++ w.low).extractLsb' k n := rfl

/-- The opcode of a word of format P. -/
theorem WordP.opc_toBits (w : WordP) (opc : BitVec 8) : (w.toBits opc).extractLsb' 56 8 = opc := by
  simp (disch := decide) only [extract_toBits, extractLsb'_append_eq_of_le, Nat.reduceSub, opc_headBits]

/-- Format P is read back from its word. -/
theorem WordP.ofBits_toBits {w : WordP} (opc : BitVec 8) (h : w.wf = true) :
    WordP.ofBits (w.toBits opc) = w := by
  simp only [WordP.wf, Bool.and_eq_true] at h
  obtain ⟨ha, hb⟩ := h
  simp (disch := decide) only [WordP.ofBits, headOf, operandAt, bitAt_eq, extract_toBits,
    extractLsb'_append_eq_of_le, extractLsb'_append_eq_of_add_le, extractLsb'_eq_self, Nat.reduceSub,
    neg_headBits, p_headBits, md_headBits, getLsbD_bit1, operandOf_operandCode ha, operandOf_operandCode hb]

/-- A word read in format P is the word of its fields. -/
theorem WordP.toBits_ofBits {w : W64} {opc : BitVec 8} (h : w.extractLsb' 56 8 = opc) :
    (WordP.ofBits w).toBits opc = w := by
  subst h
  simp (disch := decide) only [WordP.ofBits, WordP.toBits, headBits, headOf, operandAt, operandCode_operandOf, bitAt_eq,
    bit1_getLsbD, extractLsb'_append_extractLsb'_eq_extractLsb']
  exact extractLsb'_eq_self

/-- The operands of a word read in format P are well-formed. -/
theorem WordP.wf_ofBits (w : W64) : (WordP.ofBits w).wf = true := by
  simp only [WordP.wf, WordP.ofBits, operandAt, operandOf_wf, Bool.and_self]

/-! ### Format M -/

/-- A field of a word of format M, by the fields that stand one after another (Table 7.3). -/
theorem WordM.extract_toBits (w : WordM) (opc : BitVec 8) (k n : Nat) :
    (w.toBits opc).extractLsb' k n = (headBits opc w.hd ++ operandCode w.d ++ operandCode w.a ++
      operandCode w.b ++ w.off ++ w.sz ++ bit1 w.sx ++ memTailBits w.tl).extractLsb' k n := rfl

/-- The opcode of a word of format M. -/
theorem WordM.opc_toBits (w : WordM) (opc : BitVec 8) : (w.toBits opc).extractLsb' 56 8 = opc := by
  simp (disch := decide) only [extract_toBits, extractLsb'_append_eq_of_le, Nat.reduceSub, opc_headBits]

/-- Format M is read back from its word. -/
theorem WordM.ofBits_toBits {w : WordM} (opc : BitVec 8) (h : w.wf = true) :
    WordM.ofBits (w.toBits opc) = w := by
  simp only [WordM.wf, Bool.and_eq_true] at h
  obtain ⟨⟨hd, ha⟩, hb⟩ := h
  simp (disch := decide) only [WordM.ofBits, headOf, operandAt, memTailOf, bitAt_eq, extract_toBits,
    extractLsb'_append_eq_of_le, extractLsb'_append_eq_of_add_le, extractLsb'_eq_self, Nat.reduceSub,
    neg_headBits, p_headBits, md_headBits, getLsbD_bit1, ord_memTailBits, sco_memTailBits, u_memTailBits,
    ch_memTailBits,
    operandOf_operandCode hd, operandOf_operandCode ha, operandOf_operandCode hb]

/-- A word read in format M is the word of its fields. -/
theorem WordM.toBits_ofBits {w : W64} {opc : BitVec 8} (h : w.extractLsb' 56 8 = opc) :
    (WordM.ofBits w).toBits opc = w := by
  subst h
  simp (disch := decide) only [WordM.ofBits, WordM.toBits, headBits, headOf, operandAt, memTailOf, memTailBits,
    operandCode_operandOf, bitAt_eq,
    bit1_getLsbD, extractLsb'_append_extractLsb'_eq_extractLsb']
  exact extractLsb'_eq_self

/-- The operands of a word read in format M are well-formed. -/
theorem WordM.wf_ofBits (w : W64) : (WordM.ofBits w).wf = true := by
  simp only [WordM.wf, WordM.ofBits, operandAt, operandOf_wf, Bool.and_self]

/-! ### Format MA -/

/-- A field of a word of format MA, by the fields that stand one after another (Table 7.3). -/
theorem WordMA.extract_toBits (w : WordMA) (opc : BitVec 8) (k n : Nat) :
    (w.toBits opc).extractLsb' k n = (headBits opc w.hd ++ operandCode w.d ++ operandCode w.a ++
      operandCode w.b ++ operandCode w.c ++ w.aop ++ w.sz ++ bit1 w.sg ++ memTailBits w.tl).extractLsb' k n := rfl

/-- The opcode of a word of format MA. -/
theorem WordMA.opc_toBits (w : WordMA) (opc : BitVec 8) : (w.toBits opc).extractLsb' 56 8 = opc := by
  simp (disch := decide) only [extract_toBits, extractLsb'_append_eq_of_le, Nat.reduceSub, opc_headBits]

/-- Format MA is read back from its word. -/
theorem WordMA.ofBits_toBits {w : WordMA} (opc : BitVec 8) (h : w.wf = true) :
    WordMA.ofBits (w.toBits opc) = w := by
  simp only [WordMA.wf, Bool.and_eq_true] at h
  obtain ⟨⟨⟨hd, ha⟩, hb⟩, hc⟩ := h
  simp (disch := decide) only [WordMA.ofBits, headOf, operandAt, memTailOf, bitAt_eq, extract_toBits,
    extractLsb'_append_eq_of_le, extractLsb'_append_eq_of_add_le, extractLsb'_eq_self, Nat.reduceSub,
    neg_headBits, p_headBits, md_headBits, getLsbD_bit1, ord_memTailBits, sco_memTailBits, u_memTailBits,
    ch_memTailBits,
    operandOf_operandCode hd, operandOf_operandCode ha, operandOf_operandCode hb, operandOf_operandCode hc]

/-- A word read in format MA is the word of its fields. -/
theorem WordMA.toBits_ofBits {w : W64} {opc : BitVec 8} (h : w.extractLsb' 56 8 = opc) :
    (WordMA.ofBits w).toBits opc = w := by
  subst h
  simp (disch := decide) only [WordMA.ofBits, WordMA.toBits, headBits, headOf, operandAt, memTailOf, memTailBits,
    operandCode_operandOf, bitAt_eq,
    bit1_getLsbD, extractLsb'_append_extractLsb'_eq_extractLsb']
  exact extractLsb'_eq_self

/-- The operands of a word read in format MA are well-formed. -/
theorem WordMA.wf_ofBits (w : W64) : (WordMA.ofBits w).wf = true := by
  simp only [WordMA.wf, WordMA.ofBits, operandAt, operandOf_wf, Bool.and_self]

/-! ### Format B -/

/-- A field of a word of format B, by the fields that stand one after another (Table 7.3). -/
theorem WordB.extract_toBits (w : WordB) (opc : BitVec 8) (k n : Nat) :
    (w.toBits opc).extractLsb' k n = (headBits opc w.hd ++ operandCode w.d ++ operandCode w.a ++
      w.rc ++ w.cm ++ w.am ++ w.sub ++ memTailBits w.tl).extractLsb' k n := rfl

/-- The opcode of a word of format B. -/
theorem WordB.opc_toBits (w : WordB) (opc : BitVec 8) : (w.toBits opc).extractLsb' 56 8 = opc := by
  simp (disch := decide) only [extract_toBits, extractLsb'_append_eq_of_le, Nat.reduceSub, opc_headBits]

/-- Format B is read back from its word. -/
theorem WordB.ofBits_toBits {w : WordB} (opc : BitVec 8) (h : w.wf = true) :
    WordB.ofBits (w.toBits opc) = w := by
  simp only [WordB.wf, Bool.and_eq_true] at h
  obtain ⟨hd, ha⟩ := h
  simp (disch := decide) only [WordB.ofBits, headOf, operandAt, memTailOf, bitAt_eq, extract_toBits,
    extractLsb'_append_eq_of_le, extractLsb'_append_eq_of_add_le, extractLsb'_eq_self, Nat.reduceSub,
    neg_headBits, p_headBits, md_headBits, ord_memTailBits, sco_memTailBits, u_memTailBits,
    ch_memTailBits,
    operandOf_operandCode hd, operandOf_operandCode ha]

/-- A word read in format B is the word of its fields. -/
theorem WordB.toBits_ofBits {w : W64} {opc : BitVec 8} (h : w.extractLsb' 56 8 = opc) :
    (WordB.ofBits w).toBits opc = w := by
  subst h
  simp (disch := decide) only [WordB.ofBits, WordB.toBits, headBits, headOf, operandAt, memTailOf, memTailBits,
    operandCode_operandOf, bitAt_eq,
    bit1_getLsbD, extractLsb'_append_extractLsb'_eq_extractLsb']
  exact extractLsb'_eq_self

/-- The operands of a word read in format B are well-formed. -/
theorem WordB.wf_ofBits (w : W64) : (WordB.ofBits w).wf = true := by
  simp only [WordB.wf, WordB.ofBits, operandAt, operandOf_wf, Bool.and_self]

/-! ### Format E -/

/-- A field of a word of format E, by the fields that stand one after another (Table 7.3). -/
theorem WordE.extract_toBits (w : WordE) (opc : BitVec 8) (k n : Nat) :
    (w.toBits opc).extractLsb' k n = (headBits opc w.hd ++ operandCode w.x ++ operandCode w.y ++
      operandCode w.z ++ operandCode w.w ++ w.tok ++ bit1 w.te ++ w.sub ++ w.sco ++ bit1 w.u).extractLsb' k n := rfl

/-- The opcode of a word of format E. -/
theorem WordE.opc_toBits (w : WordE) (opc : BitVec 8) : (w.toBits opc).extractLsb' 56 8 = opc := by
  simp (disch := decide) only [extract_toBits, extractLsb'_append_eq_of_le, Nat.reduceSub, opc_headBits]

/-- Format E is read back from its word. -/
theorem WordE.ofBits_toBits {w : WordE} (opc : BitVec 8) (h : w.wf = true) :
    WordE.ofBits (w.toBits opc) = w := by
  simp only [WordE.wf, Bool.and_eq_true] at h
  obtain ⟨⟨⟨hx, hy⟩, hz⟩, hw⟩ := h
  simp (disch := decide) only [WordE.ofBits, headOf, operandAt, bitAt_eq, extract_toBits,
    extractLsb'_append_eq_of_le, extractLsb'_append_eq_of_add_le, extractLsb'_eq_self, Nat.reduceSub,
    neg_headBits, p_headBits, md_headBits, getLsbD_bit1, operandOf_operandCode hx, operandOf_operandCode hy,
    operandOf_operandCode hz, operandOf_operandCode hw]

/-- A word read in format E is the word of its fields. -/
theorem WordE.toBits_ofBits {w : W64} {opc : BitVec 8} (h : w.extractLsb' 56 8 = opc) :
    (WordE.ofBits w).toBits opc = w := by
  subst h
  simp (disch := decide) only [WordE.ofBits, WordE.toBits, headBits, headOf, operandAt, operandCode_operandOf, bitAt_eq,
    bit1_getLsbD, extractLsb'_append_extractLsb'_eq_extractLsb']
  exact extractLsb'_eq_self

/-- The operands of a word read in format E are well-formed. -/
theorem WordE.wf_ofBits (w : W64) : (WordE.ofBits w).wf = true := by
  simp only [WordE.wf, WordE.ofBits, operandAt, operandOf_wf, Bool.and_self]

/-! ### Format X -/

/-- A field of a word of format X, by the fields that stand one after another (Table 7.3). -/
theorem WordX.extract_toBits (w : WordX) (opc : BitVec 8) (k n : Nat) :
    (w.toBits opc).extractLsb' k n = (headBits opc w.hd ++ w.mt ++ w.mt2 ++ operandCode w.a ++
      operandCode w.b ++ operandCode w.c ++ w.tok ++ w.cm ++ w.sub ++ w.src).extractLsb' k n := rfl

/-- The opcode of a word of format X. -/
theorem WordX.opc_toBits (w : WordX) (opc : BitVec 8) : (w.toBits opc).extractLsb' 56 8 = opc := by
  simp (disch := decide) only [extract_toBits, extractLsb'_append_eq_of_le, Nat.reduceSub, opc_headBits]

/-- Format X is read back from its word. -/
theorem WordX.ofBits_toBits {w : WordX} (opc : BitVec 8) (h : w.wf = true) :
    WordX.ofBits (w.toBits opc) = w := by
  simp only [WordX.wf, Bool.and_eq_true] at h
  obtain ⟨⟨ha, hb⟩, hc⟩ := h
  simp (disch := decide) only [WordX.ofBits, headOf, operandAt, bitAt_eq, extract_toBits,
    extractLsb'_append_eq_of_le, extractLsb'_append_eq_of_add_le, extractLsb'_eq_self, Nat.reduceSub,
    neg_headBits, p_headBits, md_headBits, operandOf_operandCode ha, operandOf_operandCode hb,
    operandOf_operandCode hc]

/-- A word read in format X is the word of its fields. -/
theorem WordX.toBits_ofBits {w : W64} {opc : BitVec 8} (h : w.extractLsb' 56 8 = opc) :
    (WordX.ofBits w).toBits opc = w := by
  subst h
  simp (disch := decide) only [WordX.ofBits, WordX.toBits, headBits, headOf, operandAt, operandCode_operandOf, bitAt_eq,
    bit1_getLsbD, extractLsb'_append_extractLsb'_eq_extractLsb']
  exact extractLsb'_eq_self

/-- The operands of a word read in format X are well-formed. -/
theorem WordX.wf_ofBits (w : W64) : (WordX.ofBits w).wf = true := by
  simp only [WordX.wf, WordX.ofBits, operandAt, operandOf_wf, Bool.and_self]

/-! ### Format N -/

/-- A field of a word of format N, by the fields that stand one after another (Table 7.3). -/
theorem WordN.extract_toBits (w : WordN) (opc : BitVec 8) (k n : Nat) :
    (w.toBits opc).extractLsb' k n = (headBits opc w.hd ++ operandCode w.h ++ operandCode w.inp ++
      operandCode w.out ++ w.ni ++ w.no ++ w.tok ++ w.low).extractLsb' k n := rfl

/-- The opcode of a word of format N. -/
theorem WordN.opc_toBits (w : WordN) (opc : BitVec 8) : (w.toBits opc).extractLsb' 56 8 = opc := by
  simp (disch := decide) only [extract_toBits, extractLsb'_append_eq_of_le, Nat.reduceSub, opc_headBits]

/-- Format N is read back from its word. -/
theorem WordN.ofBits_toBits {w : WordN} (opc : BitVec 8) (h : w.wf = true) :
    WordN.ofBits (w.toBits opc) = w := by
  simp only [WordN.wf, Bool.and_eq_true] at h
  obtain ⟨⟨hh, hinp⟩, hout⟩ := h
  simp (disch := decide) only [WordN.ofBits, headOf, operandAt, bitAt_eq, extract_toBits,
    extractLsb'_append_eq_of_le, extractLsb'_append_eq_of_add_le, extractLsb'_eq_self, Nat.reduceSub,
    neg_headBits, p_headBits, md_headBits, operandOf_operandCode hh, operandOf_operandCode hinp,
    operandOf_operandCode hout]

/-- A word read in format N is the word of its fields. -/
theorem WordN.toBits_ofBits {w : W64} {opc : BitVec 8} (h : w.extractLsb' 56 8 = opc) :
    (WordN.ofBits w).toBits opc = w := by
  subst h
  simp (disch := decide) only [WordN.ofBits, WordN.toBits, headBits, headOf, operandAt, operandCode_operandOf, bitAt_eq,
    bit1_getLsbD, extractLsb'_append_extractLsb'_eq_extractLsb']
  exact extractLsb'_eq_self

/-- The operands of a word read in format N are well-formed. -/
theorem WordN.wf_ofBits (w : W64) : (WordN.ofBits w).wf = true := by
  simp only [WordN.wf, WordN.ofBits, operandAt, operandOf_wf, Bool.and_self]

/-! ### Format K -/

/-- A field of a word of format K, by the fields that stand one after another (Table 7.3). -/
theorem WordK.extract_toBits (w : WordK) (opc : BitVec 8) (k n : Nat) :
    (w.toBits opc).extractLsb' k n = (headBits opc w.hd ++ operandCode w.a ++ operandCode w.b ++
      w.off).extractLsb' k n := rfl

/-- The opcode of a word of format K. -/
theorem WordK.opc_toBits (w : WordK) (opc : BitVec 8) : (w.toBits opc).extractLsb' 56 8 = opc := by
  simp (disch := decide) only [extract_toBits, extractLsb'_append_eq_of_le, Nat.reduceSub, opc_headBits]

/-- Format K is read back from its word. -/
theorem WordK.ofBits_toBits {w : WordK} (opc : BitVec 8) (h : w.wf = true) :
    WordK.ofBits (w.toBits opc) = w := by
  simp only [WordK.wf, Bool.and_eq_true] at h
  obtain ⟨ha, hb⟩ := h
  simp (disch := decide) only [WordK.ofBits, headOf, operandAt, bitAt_eq, extract_toBits,
    extractLsb'_append_eq_of_le, extractLsb'_append_eq_of_add_le, extractLsb'_eq_self, Nat.reduceSub,
    neg_headBits, p_headBits, md_headBits, operandOf_operandCode ha, operandOf_operandCode hb]

/-- A word read in format K is the word of its fields. -/
theorem WordK.toBits_ofBits {w : W64} {opc : BitVec 8} (h : w.extractLsb' 56 8 = opc) :
    (WordK.ofBits w).toBits opc = w := by
  subst h
  simp (disch := decide) only [WordK.ofBits, WordK.toBits, headBits, headOf, operandAt, operandCode_operandOf, bitAt_eq,
    bit1_getLsbD, extractLsb'_append_extractLsb'_eq_extractLsb']
  exact extractLsb'_eq_self

/-- The operands of a word read in format K are well-formed. -/
theorem WordK.wf_ofBits (w : W64) : (WordK.ofBits w).wf = true := by
  simp only [WordK.wf, WordK.ofBits, operandAt, operandOf_wf, Bool.and_self]

/-! ### PAIR words and clause headers -/

/-- A half-operation is read back from the 32 bits that hold it (R151). -/
theorem halfOf_eq {w : W64} {lo : Nat} {h : HalfOp} (ha : h.a.wf = true) (hb : h.b.wf = true)
    (hw : w.extractLsb' lo 32 = halfBits h) : halfOf w lo = h := by
  have field (k n : Nat) (hk : k + n ≤ 32) : w.extractLsb' (lo + k) n =
      (h.hop ++ h.d ++ operandCode h.a ++ operandCode h.b ++ h.g).extractLsb' k n := by
    change _ = (halfBits h).extractLsb' k n
    rw [← hw]
    refine eq_of_getLsbD_eq fun i hi => ?_
    simp only [getLsbD_extractLsb', hi, decide_true, Bool.true_and, Nat.add_assoc, show k + i < 32 by omega]
  have hg := field 0 3 (by decide)
  rw [Nat.add_zero] at hg
  simp (disch := decide) only [halfOf, operandAt, field, hg, extractLsb'_append_eq_of_le,
    extractLsb'_append_eq_of_add_le, extractLsb'_eq_self, Nat.reduceSub, operandOf_operandCode ha, operandOf_operandCode hb]

/-- The 32 bits of a half-operation are those that it is read from (R151). -/
theorem halfBits_halfOf (w : W64) (lo : Nat) : halfBits (halfOf w lo) = w.extractLsb' lo 32 := by
  simp (disch := omega) only [halfOf, halfBits, operandAt, operandCode_operandOf,
    extractLsb'_append_extractLsb'_eq_extractLsb']

/-- A PAIR is read back from its word (R151). -/
theorem WordPair.ofBits_toBits {w : WordPair} (h : w.wf = true) : WordPair.ofBits w.toBits = w := by
  simp only [WordPair.wf, Bool.and_eq_true] at h
  obtain ⟨⟨⟨h1a, h1b⟩, h2a⟩, h2b⟩ := h
  have h1 : halfOf w.toBits 32 = w.h1 := halfOf_eq h1a h1b extractLsb'_append_eq_left
  have h2 : halfOf w.toBits 0 = w.h2 := halfOf_eq h2a h2b extractLsb'_append_eq_right
  rw [WordPair.ofBits, h1, h2]

/-- A word read as a PAIR is the word of its halves (R151). -/
theorem WordPair.toBits_ofBits (w : W64) : (WordPair.ofBits w).toBits = w := by
  simp only [WordPair.ofBits, WordPair.toBits, halfBits_halfOf]
  rw [extractLsb'_append_extractLsb'_eq_extractLsb' (show 32 = 0 + 32 from rfl)]
  exact extractLsb'_eq_self

/-- The operands of a word read as a PAIR are well-formed. -/
theorem WordPair.wf_ofBits (w : W64) : (WordPair.ofBits w).wf = true := by
  simp only [WordPair.wf, WordPair.ofBits, halfOf, operandAt, operandOf_wf, Bool.and_self]

/-- A field of a clause header, by the fields that stand one after another (Table 7.1). -/
theorem Header.extract_toBits (h : Header) (k n : Nat) :
    h.toBits.extractLsb' k n = (h.cls ++ h.count ++ h.waitk ++ h.waitld ++ h.waitst ++ bit1 h.waitar ++ bit1 h.yld ++
      bit1 h.uni ++ h.res).extractLsb' k n := rfl

/-- A clause header is read back from its bits (Table 7.1). -/
theorem Header.ofBits_toBits (h : Header) : Header.ofBits h.toBits = h := by
  simp (disch := decide) only [Header.ofBits, bitAt_eq, extract_toBits, extractLsb'_append_eq_of_le,
    extractLsb'_append_eq_of_add_le, extractLsb'_eq_self, Nat.reduceSub, getLsbD_bit1]

/-- No bit of a clause header is dropped (Table 7.1). -/
theorem Header.toBits_ofBits (w : W64) : (Header.ofBits w).toBits = w := by
  simp (disch := decide) only [Header.ofBits, Header.toBits, bitAt_eq, bit1_getLsbD,
    extractLsb'_append_extractLsb'_eq_extractLsb']
  exact extractLsb'_eq_self

/-! ### From the instruction to its word and back -/

/-- The instruction that a class and an opcode name in a word (Tables 7.7 to 7.13). -/
def decodeOpc (c : BitVec 4) (opc : BitVec 8) (w : W64) : Except DecodeError Instr :=
  let listed (o : Option Instr) : Except DecodeError Instr :=
    match o with
    | some i => .ok i
    | none => .error (.reservedOpcode c opc)
  match c.toNat with
  | 0 => listed (decodeAlu opc.toNat w)
  | 1 => .ok (.pair (WordPair.ofBits w))
  | 2 => listed (decodeScalar opc.toNat w)
  | 3 => listed (decodeMem opc.toNat w)
  | 4 => listed (decodeMatrix opc.toNat w)
  | 5 => listed (decodeGraphics opc.toNat w)
  | 6 => listed (decodeControl opc.toNat w)
  | 7 => listed (decodeSystem opc.toNat w)
  | _ => .error (.reservedClass c)

/-- A word decodes by the opcode that stands in it. -/
theorem decodeWord_opc {c : BitVec 4} {opc : BitVec 8} {w : W64} (h : w.extractLsb' 56 8 = opc) :
    decodeWord c w = decodeOpc c opc w := by
  subst h
  rfl

/-- A word of format A decodes to its instruction where its class and opcode name that. -/
theorem WordA.decodes {mk : WordA → Instr} {c : BitVec 4} {opc : BitVec 8} {w : WordA} (hw : w.wf = true)
    (hd : ∀ x : W64, x.extractLsb' 56 8 = opc → decodeWord c x = .ok (mk (WordA.ofBits x))) :
    decodeWord c (w.toBits opc) = .ok (mk w) := by
  rw [hd _ (w.opc_toBits opc), ofBits_toBits opc hw]

/-- A word of format P decodes to its instruction where its class and opcode name that. -/
theorem WordP.decodes {mk : WordP → Instr} {c : BitVec 4} {opc : BitVec 8} {w : WordP} (hw : w.wf = true)
    (hd : ∀ x : W64, x.extractLsb' 56 8 = opc → decodeWord c x = .ok (mk (WordP.ofBits x))) :
    decodeWord c (w.toBits opc) = .ok (mk w) := by
  rw [hd _ (w.opc_toBits opc), ofBits_toBits opc hw]

/-- A word of format I decodes to its instruction where its class and opcode name that. -/
theorem WordI.decodes {mk : WordI → Instr} {c : BitVec 4} {opc : BitVec 8} {w : WordI} (hw : w.wf = true)
    (hd : ∀ x : W64, x.extractLsb' 56 8 = opc → decodeWord c x = .ok (mk (WordI.ofBits x))) :
    decodeWord c (w.toBits opc) = .ok (mk w) := by
  rw [hd _ (w.opc_toBits opc), ofBits_toBits opc hw]

/-- A word of format M decodes to its instruction where its class and opcode name that. -/
theorem WordM.decodes {mk : WordM → Instr} {c : BitVec 4} {opc : BitVec 8} {w : WordM} (hw : w.wf = true)
    (hd : ∀ x : W64, x.extractLsb' 56 8 = opc → decodeWord c x = .ok (mk (WordM.ofBits x))) :
    decodeWord c (w.toBits opc) = .ok (mk w) := by
  rw [hd _ (w.opc_toBits opc), ofBits_toBits opc hw]

/-- A word of format B decodes to its instruction where its class and opcode name that. -/
theorem WordB.decodes {mk : WordB → Instr} {c : BitVec 4} {opc : BitVec 8} {w : WordB} (hw : w.wf = true)
    (hd : ∀ x : W64, x.extractLsb' 56 8 = opc → decodeWord c x = .ok (mk (WordB.ofBits x))) :
    decodeWord c (w.toBits opc) = .ok (mk w) := by
  rw [hd _ (w.opc_toBits opc), ofBits_toBits opc hw]

/-- A word of format MA decodes to its instruction where its class and opcode name that. -/
theorem WordMA.decodes {mk : WordMA → Instr} {c : BitVec 4} {opc : BitVec 8} {w : WordMA} (hw : w.wf = true)
    (hd : ∀ x : W64, x.extractLsb' 56 8 = opc → decodeWord c x = .ok (mk (WordMA.ofBits x))) :
    decodeWord c (w.toBits opc) = .ok (mk w) := by
  rw [hd _ (w.opc_toBits opc), ofBits_toBits opc hw]

/-- A word of format E decodes to its instruction where its class and opcode name that. -/
theorem WordE.decodes {mk : WordE → Instr} {c : BitVec 4} {opc : BitVec 8} {w : WordE} (hw : w.wf = true)
    (hd : ∀ x : W64, x.extractLsb' 56 8 = opc → decodeWord c x = .ok (mk (WordE.ofBits x))) :
    decodeWord c (w.toBits opc) = .ok (mk w) := by
  rw [hd _ (w.opc_toBits opc), ofBits_toBits opc hw]

/-- A word of format X decodes to its instruction where its class and opcode name that. -/
theorem WordX.decodes {mk : WordX → Instr} {c : BitVec 4} {opc : BitVec 8} {w : WordX} (hw : w.wf = true)
    (hd : ∀ x : W64, x.extractLsb' 56 8 = opc → decodeWord c x = .ok (mk (WordX.ofBits x))) :
    decodeWord c (w.toBits opc) = .ok (mk w) := by
  rw [hd _ (w.opc_toBits opc), ofBits_toBits opc hw]

/-- A word of format N decodes to its instruction where its class and opcode name that. -/
theorem WordN.decodes {mk : WordN → Instr} {c : BitVec 4} {opc : BitVec 8} {w : WordN} (hw : w.wf = true)
    (hd : ∀ x : W64, x.extractLsb' 56 8 = opc → decodeWord c x = .ok (mk (WordN.ofBits x))) :
    decodeWord c (w.toBits opc) = .ok (mk w) := by
  rw [hd _ (w.opc_toBits opc), ofBits_toBits opc hw]

/-- A word of format K decodes to its instruction where its class and opcode name that. -/
theorem WordK.decodes {mk : WordK → Instr} {c : BitVec 4} {opc : BitVec 8} {w : WordK} (hw : w.wf = true)
    (hd : ∀ x : W64, x.extractLsb' 56 8 = opc → decodeWord c x = .ok (mk (WordK.ofBits x))) :
    decodeWord c (w.toBits opc) = .ok (mk w) := by
  rw [hd _ (w.opc_toBits opc), ofBits_toBits opc hw]

/-- A well-formed word decodes to its instruction. -/
theorem decodeWord_encode {i : Instr} {c : BitVec 4} {w : W64} (hwf : i.wf = true) (h : encode i = some (c, w)) :
    decodeWord c w = .ok i := by
  cases i
  case iadd w | isub w | imul w | imulh w | imad w | idp4 w | imin w | imax w | shl w | shr w | sar w | fshf w |
    bfe w | bfi w | popc w | clz w | ctz w | brev w | blut w | sel w | mov w | fadd w | fmul w | ffma w | fmin w |
    fmax w | fclass w | frnd w | ffrc w | fldexp w | frcp w | frsq w | fsqrt w | fexp2 w | flog2 w | fsin w |
    fcos w | hadd2 w | hmul2 w | hfma2 w | hmin2 w | hmax2 w | hdot2 w | qdot4 w | cvt w | shfl w | lpush w |
    ballot w | wred w | wscan w | bcast w | matchLanes w | bsel w | sadd w | ssub w | smul w | smulh w | smad w |
    smin w | smax w | sshl w | sshr w | ssar w | sblut w | smov w | slea w | readlane w | writelane w | fmtd w |
    rtget w | rtaccept w | interp w | ddx w | ddy w | expc w | expz w | discard w | emitv w | emitp w | perfc w =>
    cases h
    exact WordA.decodes hwf fun _ => decodeWord_opc
  case icmp w | fcmp w | plut w | vote w | scmp w =>
    cases h
    exact WordP.decodes hwf fun _ => decodeWord_opc
  case movi w | iaddi w | imuli w | andi w | ori w | xori w | faddi w | fmuli w | smovi w | smovh w | saddi w |
    rdsr w | wrsr w | rdcnt w =>
    cases h
    exact WordI.decodes hwf fun _ => decodeWord_opc
  case ld w | st w | lds w | sts w | sld w | ldc w | ldrsv w | fence w | pref w | cwb w | cinv w =>
    cases h
    exact WordM.decodes hwf fun _ => decodeWord_opc
  case ldb w | stb w | tex w | texld w | texq w =>
    cases h
    exact WordB.decodes hwf fun _ => decodeWord_opc
  case atom w | atoms w | red w | stcnd w =>
    cases h
    exact WordMA.decodes hwf fun _ => decodeWord_opc
  case arinit w | arrive w | arwait w | qgath w | qscat w | qflush w | qstat w | alcmake w | alcatt w | alcseal w |
    alcrel w | alcevict w | alcqry w | launch w | wpin w | wpref w | wunpin w | wstat w | cpy w | cpyr w | cpyf w |
    cpyx w | signal w | rtrace w | csload w | tlbinv w | ctxsave w | ctxrest w =>
    cases h
    exact WordE.decodes hwf fun _ => decodeWord_opc
  case mma w | mmas w | mmad w | mzero w | mld w | mst w | mscl w | mdload w | mprune w | mdecomp w =>
    cases h
    exact WordX.decodes hwf fun _ => decodeWord_opc
  case ncall w =>
    cases h
    exact WordN.decodes hwf fun _ => decodeWord_opc
  case bra w | brv w | jmp w | jmpi w | call w | calli w | ret w | exit w | yield w | nop w | waitk w | trap w |
    eret w | bkpt w | halt w =>
    cases h
    exact WordK.decodes hwf fun _ => decodeWord_opc
  case pair w =>
    cases h
    exact congrArg (fun x => Except.ok (Instr.pair x)) (WordPair.ofBits_toBits hwf)
  all_goals exact nomatch h

/-! ### From the word to its instruction and back -/

/-- The instruction is well-formed, and its encoding is that word in that class. -/
def Exact (c : BitVec 4) (w : W64) (i : Instr) : Prop := i.wf = true ∧ encode i = some (c, w)

/-- A word of class 0 is that of its instruction (Table 7.7). -/
theorem decodeAlu_exact {w : W64} {i : Instr} (h : decodeAlu (w.extractLsb' 56 8).toNat w = some i) :
    Exact 0 w i := by
  unfold decodeAlu at h
  split at h
  all_goals cases h
  all_goals
    rename_i hopc
    have hw := congrArg (BitVec.ofNat 8) hopc
    rw [ofNat_toNat, setWidth_eq] at hw
    exact ⟨by simp only [Instr.wf, WordA.wf_ofBits, WordP.wf_ofBits, WordI.wf_ofBits],
      by simp only [encode, ofNat_eq_ofNat, WordA.toBits_ofBits hw, WordP.toBits_ofBits hw, WordI.toBits_ofBits hw]⟩

/-- A word of class 2 is that of its instruction (Table 7.8). -/
theorem decodeScalar_exact {w : W64} {i : Instr} (h : decodeScalar (w.extractLsb' 56 8).toNat w = some i) :
    Exact 2 w i := by
  unfold decodeScalar at h
  split at h
  all_goals cases h
  all_goals
    rename_i hopc
    have hw := congrArg (BitVec.ofNat 8) hopc
    rw [ofNat_toNat, setWidth_eq] at hw
    exact ⟨by simp only [Instr.wf, WordA.wf_ofBits, WordP.wf_ofBits, WordI.wf_ofBits],
      by simp only [encode, ofNat_eq_ofNat, WordA.toBits_ofBits hw, WordP.toBits_ofBits hw, WordI.toBits_ofBits hw]⟩

/-- A word of class 3 is that of its instruction (Table 7.9). -/
theorem decodeMem_exact {w : W64} {i : Instr} (h : decodeMem (w.extractLsb' 56 8).toNat w = some i) :
    Exact 3 w i := by
  unfold decodeMem at h
  split at h
  all_goals cases h
  all_goals
    rename_i hopc
    have hw := congrArg (BitVec.ofNat 8) hopc
    rw [ofNat_toNat, setWidth_eq] at hw
    exact ⟨by simp only [Instr.wf, WordM.wf_ofBits, WordB.wf_ofBits, WordMA.wf_ofBits, WordE.wf_ofBits],
      by simp only [encode, ofNat_eq_ofNat, WordM.toBits_ofBits hw, WordB.toBits_ofBits hw, WordMA.toBits_ofBits hw, WordE.toBits_ofBits hw]⟩

/-- A word of class 4 is that of its instruction (Table 7.10). -/
theorem decodeMatrix_exact {w : W64} {i : Instr} (h : decodeMatrix (w.extractLsb' 56 8).toNat w = some i) :
    Exact 4 w i := by
  unfold decodeMatrix at h
  split at h
  all_goals cases h
  all_goals
    rename_i hopc
    have hw := congrArg (BitVec.ofNat 8) hopc
    rw [ofNat_toNat, setWidth_eq] at hw
    exact ⟨by simp only [Instr.wf, WordA.wf_ofBits, WordE.wf_ofBits, WordX.wf_ofBits, WordN.wf_ofBits],
      by simp only [encode, ofNat_eq_ofNat, WordA.toBits_ofBits hw, WordE.toBits_ofBits hw, WordX.toBits_ofBits hw, WordN.toBits_ofBits hw]⟩

/-- A word of class 5 is that of its instruction (Table 7.11). -/
theorem decodeGraphics_exact {w : W64} {i : Instr} (h : decodeGraphics (w.extractLsb' 56 8).toNat w = some i) :
    Exact 5 w i := by
  unfold decodeGraphics at h
  split at h
  all_goals cases h
  all_goals
    rename_i hopc
    have hw := congrArg (BitVec.ofNat 8) hopc
    rw [ofNat_toNat, setWidth_eq] at hw
    exact ⟨by simp only [Instr.wf, WordA.wf_ofBits, WordB.wf_ofBits, WordE.wf_ofBits],
      by simp only [encode, ofNat_eq_ofNat, WordA.toBits_ofBits hw, WordB.toBits_ofBits hw, WordE.toBits_ofBits hw]⟩

/-- A word of class 6 is that of its instruction (Table 7.12). -/
theorem decodeControl_exact {w : W64} {i : Instr} (h : decodeControl (w.extractLsb' 56 8).toNat w = some i) :
    Exact 6 w i := by
  unfold decodeControl at h
  split at h
  all_goals cases h
  all_goals
    rename_i hopc
    have hw := congrArg (BitVec.ofNat 8) hopc
    rw [ofNat_toNat, setWidth_eq] at hw
    exact ⟨by simp only [Instr.wf, WordK.wf_ofBits],
      by simp only [encode, ofNat_eq_ofNat, WordK.toBits_ofBits hw]⟩

/-- A word of class 7 is that of its instruction (Table 7.13). -/
theorem decodeSystem_exact {w : W64} {i : Instr} (h : decodeSystem (w.extractLsb' 56 8).toNat w = some i) :
    Exact 7 w i := by
  unfold decodeSystem at h
  split at h
  all_goals cases h
  all_goals
    rename_i hopc
    have hw := congrArg (BitVec.ofNat 8) hopc
    rw [ofNat_toNat, setWidth_eq] at hw
    exact ⟨by simp only [Instr.wf, WordA.wf_ofBits, WordE.wf_ofBits, WordK.wf_ofBits],
      by simp only [encode, ofNat_eq_ofNat, WordA.toBits_ofBits hw, WordE.toBits_ofBits hw, WordK.toBits_ofBits hw]⟩

/-- A table's entry that decodes is listed. -/
theorem listed_ok {o : Option Instr} {e : DecodeError} {i : Instr}
    (h : (match o with | some i => .ok i | none => .error e : Except DecodeError Instr) = .ok i) : o = some i := by
  cases o with
  | none => cases h
  | some _ => cases h; rfl

/-- A word that decodes is that of its instruction. -/
theorem decodeWord_exact {c : BitVec 4} {w : W64} {i : Instr} (h : decodeWord c w = .ok i) : Exact c w i := by
  obtain ⟨n, rfl⟩ : ∃ n : Fin 16, c = BitVec.ofFin n := ⟨c.toFin, rfl⟩
  match n with
  | 0 => exact decodeAlu_exact (listed_ok h)
  | 1 =>
    cases h
    exact ⟨WordPair.wf_ofBits w, congrArg (fun x => some (1, x)) (WordPair.toBits_ofBits w)⟩
  | 2 => exact decodeScalar_exact (listed_ok h)
  | 3 => exact decodeMem_exact (listed_ok h)
  | 4 => exact decodeMatrix_exact (listed_ok h)
  | 5 => exact decodeGraphics_exact (listed_ok h)
  | 6 => exact decodeControl_exact (listed_ok h)
  | 7 => exact decodeSystem_exact (listed_ok h)
  | ⟨_ + 8, _⟩ => exact nomatch h

/-- Settles O49: every format is read back field by field from its word, and the opcode names the instruction. -/
theorem wordsRoundTrip : Obligations.WordsRoundTrip :=
  ⟨fun _ _ _ => decodeWord_encode, Header.ofBits_toBits⟩

/-- Settles O50: every format's fields, one after another, are the word that they were read from. -/
theorem decodedWordsAreExact : Obligations.DecodedWordsAreExact :=
  ⟨fun _ _ _ => decodeWord_exact, Header.toBits_ofBits⟩

/-- Settles O51: the decoder evaluates on each word. -/
theorem sampleWordsDecode : Obligations.SampleWordsDecode := by
  unfold Obligations.SampleWordsDecode
  exact ⟨⟨_, rfl, rfl, rfl, rfl⟩, ⟨_, rfl, rfl, rfl, rfl⟩, ⟨_, rfl, rfl, rfl, rfl, rfl⟩, ⟨_, rfl, rfl, by decide⟩,
    ⟨_, rfl, rfl, rfl⟩, rfl, rfl, rfl⟩

end Sys2Proof
end

section
/-! PROOFS. O57, O56, O55: what every step keeps of the plant (R342, R355, R443), and what reset leaves. A move changes the plant
only through the operations below; each keeps the invariant, and so does every move. -/

namespace Sys2Proof.Machine

/-! ### Measurement (R355) -/

/-- A state of Keccak given lane by lane has 25 lanes. -/
theorem length_lanes5 (f : Nat → Nat → W64) : (lanes5 f).length = 25 := by simp [lanes5]

/-- The rounds of Keccak keep 25 lanes. -/
theorem length_keccakF {a : List W64} (h : a.length = 25) : (keccakF a).length = 25 :=
  List.foldlRecOn (motive := fun b => b.length = 25) keccakRc keccakRound h fun _ _ _ _ => by
    unfold keccakRound
    exact length_lanes5 _

/-- A state of Keccak that has absorbed a block has 25 lanes. -/
theorem length_absorb (a : List W64) (bs : List Byte) : (absorb a bs).length = 25 :=
  length_keccakF ((List.length_map _).trans List.length_range)

/-- A state of Keccak that has absorbed a message has 25 lanes. -/
theorem length_absorbAll (n : Nat) : ∀ (a : List W64) (bs : List Byte), a.length = 25 → (absorbAll n a bs).length = 25 := by
  induction n with
  | zero => exact fun _ _ h => h
  | succ n ih =>
    intro a bs _
    unfold absorbAll
    split
    · exact length_absorb _ _
    · exact ih _ _ (length_absorb _ _)

/-- SHAKE256 gives as many bytes as are asked for, up to 136. -/
theorem length_shake256 (bs : List Byte) {n : Nat} (hn : n ≤ 136) : (shake256 bs n).length = n := by
  have h := length_absorbAll (bs.length / 136 + 1) (List.replicate 25 0) bs (List.length_replicate ..)
  have hbytes (w : W64) : (leBytes 8 w.toNat).length = 8 := by simp [leBytes]
  simp only [shake256, List.length_take, List.length_flatMap, hbytes, List.map_const', List.sum_replicate, h]
  exact Nat.min_eq_left (hn.trans (by decide))

/-- The measurement register stays 64 bytes (R355). -/
theorem length_extendM (m image : List Byte) : (extendM m image).length = 64 := length_shake256 _ (by decide)

/-! ### Zones (R342) -/

/-- A changed zone reads as changed. -/
@[simp] theorem zoneOf_modZone_same (pl : Plant) (z : Nat) (f : Zone → Zone) : zoneOf (modZone pl z f) z = f (zoneOf pl z) := by
  simp [zoneOf, modZone]

/-- The other zones are left alone. -/
theorem zoneOf_modZone_ne (pl : Plant) {z y : Nat} (f : Zone → Zone) (h : y ≠ z) :
    zoneOf (modZone pl z f) y = zoneOf pl y := by simp [zoneOf, modZone, tblGet_tblSet_ne _ _ _ h]

/-- A sum over a range with one term set apart. -/
theorem sum_range_apart (g : Nat → Nat) (z a n : Nat) :
    ((List.range n).map fun y => if y = z then a else g y).sum =
      ((List.range n).map fun y => if y = z then 0 else g y).sum + if z < n then a else 0 := by
  induction n with
  | zero => rfl
  | succ n ih =>
    simp only [List.range_succ, List.map_append, List.sum_append, ih, List.map_cons, List.map_nil, List.sum_singleton]
    by_cases h : n = z
    · simp [h]
    · have hlt : z < n + 1 ↔ z < n := by omega
      simp only [h, if_false, hlt]
      omega

/-- The coolant granted is that of the other zones and that of one. -/
theorem grantSum_eq (pl : Plant) (z : Nat) :
    grantSum pl = otherGrants pl z + if z < 36 then (zoneOf pl z).grant.toNat else 0 := by
  rw [otherGrants, ← sum_range_apart, grantSum]
  refine congrArg List.sum (List.map_congr_left fun y _ => ?_)
  split
  · rename_i h; rw [h]
  · rfl

/-- A change of one zone leaves what is granted to the others. -/
theorem otherGrants_modZone (pl : Plant) (z : Nat) (f : Zone → Zone) : otherGrants (modZone pl z f) z = otherGrants pl z := by
  refine congrArg List.sum (List.map_congr_left fun y _ => ?_)
  split
  · rfl
  · rename_i h; rw [zoneOf_modZone_ne pl f h]

/-- A change of a zone whose new grant fits beside the others keeps the invariant (R342). -/
theorem modZone_inv {pl : Plant} {z : Nat} {f : Zone → Zone}
    (hf : z < 36 → otherGrants pl z + (f (zoneOf pl z)).grant.toNat ≤ 375) (h : pl.Inv) : (modZone pl z f).Inv := by
  obtain ⟨hgrant, hmeasure, hports⟩ := h
  refine ⟨?_, hmeasure, hports⟩
  rw [grantSum_eq _ z] at hgrant ⊢
  rw [otherGrants_modZone, zoneOf_modZone_same]
  split
  next hz => have := hf hz; omega
  next => omega

/-- A change of a zone that leaves its grant keeps the invariant. -/
theorem modZone_inv_of_grant {pl : Plant} {z : Nat} {f : Zone → Zone} (hf : ∀ x, (f x).grant = x.grant) (h : pl.Inv) :
    (modZone pl z f).Inv := by
  refine modZone_inv (fun hz => ?_) h
  have hsum := h.1
  rw [grantSum_eq _ z, if_pos hz] at hsum
  rw [hf]
  omega

/-- The grant that a write stores fits beside the others (R342). -/
theorem clampGrant_toNat (pl : Plant) (z : Nat) (written min' : BitVec 4) :
    (clampGrant pl z written min').toNat = min (max written.toNat min'.toNat) (375 - otherGrants pl z) := by
  have hlt : min (max written.toNat min'.toNat) (375 - otherGrants pl z) < 2 ^ 4 :=
    (Nat.min_le_left _ _).trans_lt (max_lt written.isLt min'.isLt)
  rw [clampGrant, BitVec.toNat_ofNat, Nat.mod_eq_of_lt hlt]

/-! ### Ports (R443) -/

/-- A width that a port may run on. -/
def PortLegal (p : Port) : Prop := p.lanes = 4 ∨ p.lanes = 2 ∨ p.lanes = 1

/-- A port that a table names, or a blank one, is legal where all that are listed are. -/
theorem tblGet_portLegal {t : Tbl Port} (h : ∀ e ∈ t, PortLegal e.2) (p : Nat) : PortLegal (tblGet blankPort t p) := by
  induction t with
  | nil => exact Or.inl rfl
  | cons e t ih =>
    simp only [tblGet]
    split
    · exact h e List.mem_cons_self
    · exact ih fun e he => h e (List.mem_cons_of_mem _ he)

/-- What a table holds after a write: what was written, or what it held. -/
theorem mem_tblSet {β : Type} {t : Tbl β} {k : Nat} {v : β} {e : Nat × β} (h : e ∈ tblSet t k v) : e = (k, v) ∨ e ∈ t := by
  induction t with
  | nil => exact Or.inl (List.mem_singleton.mp h)
  | cons a t ih =>
    simp only [tblSet] at h
    split at h
    · exact List.mem_cons.mp h
    · split at h
      · exact (List.mem_cons.mp h).imp_right (List.mem_cons_of_mem _)
      · obtain rfl | h := List.mem_cons.mp h
        · exact Or.inr List.mem_cons_self
        · exact (ih h).imp_right (List.mem_cons_of_mem _)

/-- A change of a port to a legal width keeps the invariant. -/
theorem modPort_inv {p : Nat} {f : Port → Port} {s : State} (hf : PortLegal (f (portOf s.plant p))) (h : s.plant.Inv) :
    (modPort p f s).plant.Inv := by
  obtain ⟨hgrant, hmeasure, hports⟩ := h
  refine ⟨hgrant, hmeasure, fun e he => ?_⟩
  obtain rfl | he := mem_tblSet he
  · exact hf
  · exact hports e he

/-- Slow ports keep their widths (R438). -/
theorem slowPorts_inv {pl : Plant} (slow : Bool) (h : pl.Inv) : (slowPorts slow pl).Inv := by
  obtain ⟨hgrant, hmeasure, hports⟩ := h
  refine ⟨hgrant, hmeasure, fun e he => ?_⟩
  obtain ⟨p, -, rfl⟩ := List.mem_map.mp he
  exact tblGet_portLegal hports p

/-! ### The operations that change the plant -/

/-- The invariant speaks of zones, measurement and ports only. -/
theorem inv_of_measure {pl : Plant} {portOut : List (List Byte)} {bootStage : Nat} {loaded updates : List SignedImage}
    {apcUp : Bool} {measure : List Byte} {versions : List W32} {apcOut : List (Nat × Option W64)}
    {mgmtOut mgmtIn : List (List Byte)} (hm : measure.length = 64) (h : pl.Inv) :
    Plant.Inv ⟨pl.zones, pl.ports, portOut, bootStage, loaded, apcUp, updates, measure, versions, apcOut, mgmtOut, mgmtIn⟩ :=
  ⟨h.1, hm, h.2.2⟩

/-- A state with a plant that meets the invariant. -/
theorem inv_mk {d : Device} {pl : Plant} {moves : List Move} (h : pl.Inv) : (State.mk d pl moves).plant.Inv := h

/-- What both branches keep is kept. -/
theorem ite_inv {c : Prop} [Decidable c] {s s' : State} (h : s.plant.Inv) (h' : s'.plant.Inv) :
    (if c then s else s').plant.Inv := by
  split
  · exact h
  · exact h'

/-- A coolant grant keeps the invariant (R342). -/
theorem grantWrite_inv (z : Nat) (value : W64) {s : State} (h : s.plant.Inv) : (grantWrite z value s).plant.Inv := by
  refine modZone_inv (fun hz => ?_) h
  have hsum := h.1
  rw [grantSum_eq _ z, if_pos hz] at hsum
  rw [clampGrant_toNat]
  omega

/-- A zone with what its sensors read keeps its grant (R437). -/
theorem readZone_grant (r : ZoneReading) (x : Zone) : (readZone r x).grant = x.grant := by
  unfold readZone
  split <;> rfl

/-- A valve step leaves the grant (R342). -/
theorem stepValve_grant (x : Zone) : (stepValve x).grant = x.grant := by
  unfold stepValve
  split_ifs <;> rfl

/-- A sensor reading keeps the invariant (R437). -/
theorem senseZone_inv (z : Nat) (r : ZoneReading) {s : State} (h : s.plant.Inv) : (senseZone z r s).plant.Inv :=
  modZone_inv_of_grant (readZone_grant r) h

/-- An evacuation keeps the invariant (R438). -/
theorem evacuate_inv (z : Nat) {s : State} (h : s.plant.Inv) : (evacuate z s).plant.Inv := by
  have hzone : (modZone s.plant z fun x =>
      { x with evacuating := true, tbud := 0, valve := if z < 32 then 15 else x.valve }).Inv :=
    modZone_inv_of_grant (fun _ => rfl) h
  simp only [evacuate]
  split
  · exact slowPorts_inv true hzone
  · exact hzone

/-- The end of an evacuation keeps the invariant (R438). -/
theorem endEvacuation_inv (z : Nat) (r : ZoneReading) {s : State} (h : s.plant.Inv) : (endEvacuation z r s).plant.Inv := by
  have hsense := senseZone_inv z r h
  have hend := modZone_inv_of_grant (z := z) (f := fun y => { y with evacuating := false }) (fun _ => rfl) hsense
  simp only [endEvacuation]
  split
  · dsimp only
    split
    · exact hsense
    · split
      · exact slowPorts_inv false hend
      · exact hend
  · split
    · exact hend
    · exact modZone_inv_of_grant (fun _ => rfl) hsense

/-- An overheat stop keeps the invariant (R439). -/
theorem overheat_inv (z : Nat) {s : State} (h : s.plant.Inv) : (overheat z s).plant.Inv := by
  simp only [overheat]
  split
  · exact modZone_inv_of_grant (fun _ => rfl) h
  · exact h

/-- The zones' budgets at a boundary keep the invariant (R338). -/
theorem zoneBoundary_inv {pl : Plant} (h : pl.Inv) : (zoneBoundary pl).Inv :=
  List.foldlRecOn _ _ h fun _ hpl _ _ => modZone_inv_of_grant (fun _ => rfl) hpl

/-- Boot keeps the invariant (R355). -/
theorem bootImages_inv (rs : List Nat) : ∀ (is : List SignedImage) {pl : Plant}, pl.Inv → (bootImages rs is pl).Inv := by
  induction rs with
  | nil => exact fun _ _ h => inv_of_measure h.2.1 h
  | cons r rs ih =>
    intro is pl h
    unfold bootImages
    cases is with
    | nil => exact inv_of_measure h.2.1 h
    | cons i is =>
      dsimp only
      split
      · exact ih is (inv_of_measure (length_extendM _ _) h)
      · exact inv_of_measure h.2.1 h

/-- An image that is measured keeps the invariant (R354). -/
theorem takeUpdate_inv (i : SignedImage) {s : State} (h : s.plant.Inv) : (takeUpdate s i).plant.Inv := by
  unfold takeUpdate
  exact ite_inv h (inv_mk (inv_of_measure (length_extendM _ _) h))

/-- The end of a CSLOAD keeps the invariant (R310). -/
theorem csloadEnd_inv (core slot op : Nat) (o : LongOp) {s : State} (h : s.plant.Inv) :
    (csloadEnd core slot op o s).plant.Inv := by
  unfold csloadEnd
  exact ite_inv (inv_mk (inv_of_measure (length_extendM _ _) h)) (inv_mk h)

/-- A write of a control register keeps the invariant (R6). -/
theorem writeReg_inv (apc : Nat) (r : Reg) (x : W64) {s : State} (h : s.plant.Inv) : (writeReg apc s r x).plant.Inv := by
  cases r with
  | coolant z w =>
    simp only [writeReg]
    split
    · exact modZone_inv_of_grant (fun _ => rfl) h
    · split
      · exact grantWrite_inv z x h
      · exact h
  | _ => exact h

/-- A write through a window keeps the invariant (R77). -/
theorem windowStore_inv (a : ApcAccess) (x : W64) {s : State} (h : s.plant.Inv) : (windowStore a x s).plant.Inv := by
  unfold windowStore
  generalize (if regionOf a.addr = .ctrl then regAt (a.addr - ctrlBase) else none) = r
  cases r with
  | none => exact inv_mk h
  | some r => exact writeReg_inv a.apc r x h

/-- An access to a window keeps the invariant (R77). -/
theorem windowAccess_inv (a : ApcAccess) {s : State} (h : s.plant.Inv) : (windowAccess a s).plant.Inv := by
  unfold windowAccess
  split
  · exact h
  · split
    · exact windowStore_inv a _ h
    · exact h

/-- A request of another module changes only what the ports send (R351). -/
theorem remoteServe_inv (r : RemoteAccess) {s : State} (h : s.plant.Inv) : (remoteServe s r).plant.Inv := by
  have hout (d : Device) (out : List (List Byte)) : State.plant ⟨d, { s.plant with portOut := out }, s.moves⟩ |>.Inv :=
    inv_mk (inv_of_measure h.2.1 h)
  cases r with
  | read addr len => exact ite_inv (hout _ _) h
  | write addr bs => exact ite_inv (hout _ _) h
  | add addr x => exact ite_inv (hout _ _) h
  | atom op size addr x y => exact ite_inv (hout _ _) h
  | update form addr x => exact ite_inv (hout _ _) h

/-- A checkpoint leaves the plant (R357). -/
theorem execCheckpoint_plant {seq : W64} {tier : TierWrites} {s s' : State} (h : execCheckpoint seq tier s = .next s') :
    s'.plant = s.plant := by
  have hite {c : Prop} [Decidable c] {a b : State} (ha : a.plant = s.plant) (hb : b.plant = s.plant) :
      (if c then a else b).plant = s.plant := by
    split
    · exact ha
    · exact hb
  cases h
  exact hite rfl (hite rfl (hite rfl rfl))

/-- A frame sent to the management port keeps the invariant. -/
theorem mgmt_inv (bs : List Byte) {pl : Plant} (h : pl.Inv) : (mgmt bs pl).Inv := inv_of_measure h.2.1 h

/-- A bin flush of a hall whose callers are all held keeps the invariant (R289). -/
theorem flushStalled_inv (hall : Nat) {s : State} (h : s.plant.Inv) : (flushStalled s hall).plant.Inv := by
  unfold flushStalled
  exact ite_inv (inv_mk h) h

/-- A port event keeps the invariant that the port's change keeps. -/
theorem portEntry_inv (port code : Nat) {s : State} (h : s.plant.Inv) : (portEntry port code s).plant.Inv := by
  unfold portEntry
  exact inv_mk h

/-! ### Instructions -/

/-- A step of the die alone keeps the plant. -/
theorem onDevice_inv {f : Device → Out Device} {s s' : State} (h : onDevice f s = .next s') (hi : s.plant.Inv) :
    s'.plant.Inv := by
  unfold onDevice at h
  split at h
  · cases h; exact inv_mk hi
  · cases h
  · cases h

/-- An agent's step on the die keeps the plant. -/
theorem runDevice_inv {f : Device → Device} {s s' : State} (h : runDevice f s = .next s') (hi : s.plant.Inv) :
    s'.plant.Inv := onDevice_inv h hi

/-- A step that is sure to be taken keeps what its state keeps. -/
theorem next_inv {s1 s' : State} (h : Host.Outcome.next s1 = (.next s' : Out State)) (h1 : s1.plant.Inv) : s'.plant.Inv := by
  cases h
  exact h1

/-- A step that happens or does not keeps what its happening keeps. -/
theorem next_ite_inv {c : Prop} [Decidable c] {s s1 s' : State} (h : Host.Outcome.next (if c then s1 else s) =
    (.next s' : Out State)) (h1 : c → s1.plant.Inv) (hi : s.plant.Inv) : s'.plant.Inv := by
  cases h
  split
  · exact h1 ‹_›
  · exact hi

/-- REGISTER_WRITE keeps the invariant. -/
theorem execRegisterWrite_inv {a : Nat} {x : W64} {s s' : State} (h : execRegisterWrite a x s = .next s') (hi : s.plant.Inv) :
    s'.plant.Inv := by
  refine next_inv h (ite_inv hi ?_)
  generalize regAt (a - ctrlBase) = r
  cases r with
  | none => exact hi
  | some r => exact writeReg_inv 0 r x hi

/-- CSLOAD_COMPLETE keeps the invariant. -/
theorem execCsloadComplete_inv {core slot op : Nat} {s s' : State} (h : execCsloadComplete core slot op s = .next s')
    (hi : s.plant.Inv) : s'.plant.Inv := by
  refine next_inv h ?_
  split
  · exact hi
  · exact ite_inv (csloadEnd_inv core slot op _ hi) hi

/-- CHECKPOINT_RESTORE keeps the invariant. -/
theorem execCheckpointRestore_inv {s s' : State} (h : execCheckpointRestore s = .next s') (hi : s.plant.Inv) :
    s'.plant.Inv := by
  refine next_inv h ?_
  split
  · exact inv_mk (mgmt_inv _ hi)
  · exact inv_mk hi

/-- PORT_TRAINED keeps the invariant: the width is one of Table 20's (R443). -/
theorem execPortTrained_inv {port lanes : Nat} {s s' : State} (h : execPortTrained port lanes s = .next s')
    (hi : s.plant.Inv) : s'.plant.Inv := by
  refine next_ite_inv h (fun hc => portEntry_inv port 2 (modPort_inv ?_ hi)) hi
  have hwidth := hc.2
  simp only [portWidth, Bool.or_eq_true, decide_eq_true_eq, or_assoc] at hwidth
  exact hwidth

/-- A port that keeps its width is legal. -/
theorem portOf_legal {s : State} (hi : s.plant.Inv) (port : Nat) : PortLegal (portOf s.plant port) :=
  tblGet_portLegal hi.2.2 port

/-! Each agent's step that may change the plant keeps the invariant. -/

/-- VALVE_STEP keeps the invariant. -/
theorem execValveStep_inv {z : Nat} {r : ZoneReading} {s s' : State} (h : execValveStep z r s = .next s')
    (hi : s.plant.Inv) : s'.plant.Inv := by
  unfold execValveStep at h
  exact next_ite_inv h (fun _ => inv_mk (modZone_inv_of_grant stepValve_grant (senseZone_inv z r hi))) hi

/-- COOLANT_GRANT_WRITE keeps the invariant. -/
theorem execCoolantGrantWrite_inv {z : Nat} {x : W64} {s s' : State} (h : execCoolantGrantWrite z x s = .next s')
    (hi : s.plant.Inv) : s'.plant.Inv := by
  unfold execCoolantGrantWrite at h
  exact next_ite_inv h (fun _ => grantWrite_inv z x hi) hi

/-- COOLANT_EVENT keeps the invariant. -/
theorem execCoolantEvent_inv {z : Nat} {r : ZoneReading} {s s' : State} (h : execCoolantEvent z r s = .next s')
    (hi : s.plant.Inv) : s'.plant.Inv := by
  unfold execCoolantEvent at h
  exact next_ite_inv h (fun _ => senseZone_inv z r hi) hi

/-- COOLANT_EVACUATION keeps the invariant. -/
theorem execCoolantEvacuation_inv {z : Nat} {s s' : State} (h : execCoolantEvacuation z s = .next s')
    (hi : s.plant.Inv) : s'.plant.Inv := by
  unfold execCoolantEvacuation at h
  exact next_ite_inv h (fun _ => evacuate_inv z hi) hi

/-- EVACUATION_END keeps the invariant. -/
theorem execEvacuationEnd_inv {z : Nat} {r : ZoneReading} {s s' : State} (h : execEvacuationEnd z r s = .next s')
    (hi : s.plant.Inv) : s'.plant.Inv := by
  unfold execEvacuationEnd at h
  exact next_ite_inv h (fun _ => endEvacuation_inv z r hi) hi

/-- OVERHEAT_STOP keeps the invariant. -/
theorem execOverheatStop_inv {z : Nat} {s s' : State} (h : execOverheatStop z s = .next s')
    (hi : s.plant.Inv) : s'.plant.Inv := by
  unfold execOverheatStop at h
  exact next_ite_inv h (fun _ => overheat_inv z hi) hi

/-- WINDOW_ACCESS keeps the invariant. -/
theorem execWindowAccess_inv {a : ApcAccess} {s s' : State} (h : execWindowAccess a s = .next s')
    (hi : s.plant.Inv) : s'.plant.Inv := by
  unfold execWindowAccess at h
  exact next_ite_inv h (fun _ => windowAccess_inv a hi) hi

/-- MODULE_BOOT keeps the invariant. -/
theorem execModuleBoot_inv {is : List SignedImage} {s s' : State} (h : execModuleBoot is s = .next s')
    (hi : s.plant.Inv) : s'.plant.Inv := by
  unfold execModuleBoot at h
  exact next_ite_inv h (fun _ => inv_mk (bootImages_inv _ is hi)) hi

/-- ATTESTATION_REQUEST keeps the invariant. -/
theorem execAttestationRequest_inv {nonce : List Byte} {s s' : State} (h : execAttestationRequest nonce s = .next s')
    (hi : s.plant.Inv) : s'.plant.Inv := by
  unfold execAttestationRequest at h
  exact next_ite_inv h (fun _ => inv_mk (mgmt_inv _ hi)) hi

/-- CAPTURE_READ keeps the invariant. -/
theorem execCaptureRead_inv {a n : Nat} {s s' : State} (h : execCaptureRead a n s = .next s')
    (hi : s.plant.Inv) : s'.plant.Inv := by
  unfold execCaptureRead at h
  exact next_ite_inv h (fun _ => inv_mk (mgmt_inv _ hi)) hi

/-- FLIT_CRC_REPLAY keeps the invariant. -/
theorem execFlitCrcReplay_inv {p n : Nat} {s s' : State} (h : execFlitCrcReplay p n s = .next s')
    (hi : s.plant.Inv) : s'.plant.Inv := by
  unfold execFlitCrcReplay at h
  exact next_ite_inv h (fun _ => modPort_inv (portOf_legal hi p) hi) hi

/-- PORT_RETRAIN keeps the invariant. -/
theorem execPortRetrain_inv {p n : Nat} {s s' : State} (h : execPortRetrain p n s = .next s')
    (hi : s.plant.Inv) : s'.plant.Inv := by
  unfold execPortRetrain at h
  exact next_ite_inv h (fun _ => portEntry_inv p 1 (modPort_inv (portOf_legal hi p) hi)) hi

/-- PORT_REMOVE keeps the invariant. -/
theorem execPortRemove_inv {p : Nat} {s s' : State} (h : execPortRemove p s = .next s')
    (hi : s.plant.Inv) : s'.plant.Inv := by
  unfold execPortRemove at h
  exact next_ite_inv h (fun _ => portEntry_inv p 3 (inv_mk (modPort_inv (portOf_legal hi p) hi))) hi

/-- CONTROL_INTERVAL_BOUNDARY keeps the invariant. -/
theorem execControlIntervalBoundary_inv {samples : List HallSample} {outside : W32} {s s' : State}
    (h : execControlIntervalBoundary samples outside s = .next s') (hi : s.plant.Inv) : s'.plant.Inv := by
  unfold execControlIntervalBoundary at h
  exact next_inv h (inv_mk (zoneBoundary_inv hi))

/-- MODULE_NUMBER_ASSIGN leaves the plant. -/
theorem execModuleNumberAssign_inv {n : Nat} {s s' : State} (h : execModuleNumberAssign n s = .next s') (hi : s.plant.Inv) :
    s'.plant.Inv := by
  unfold execModuleNumberAssign at h
  exact next_inv h (inv_mk hi)

/-- Every instruction and every agent's step keeps the invariant. -/
theorem exec_inv (i : Instr) {s s' : State} (h : exec i s = .next s') (hi : s.plant.Inv) : s'.plant.Inv := by
  unfold exec at h
  cases i
  case valveStep => exact execValveStep_inv h hi
  case coolantGrantWrite => exact execCoolantGrantWrite_inv h hi
  case coolantEvent => exact execCoolantEvent_inv h hi
  case coolantEvacuation => exact execCoolantEvacuation_inv h hi
  case evacuationEnd => exact execEvacuationEnd_inv h hi
  case overheatStop => exact execOverheatStop_inv h hi
  case windowAccess => exact execWindowAccess_inv h hi
  case moduleBoot => exact execModuleBoot_inv h hi
  case attestationRequest => exact execAttestationRequest_inv h hi
  case captureRead => exact execCaptureRead_inv h hi
  case flitCrcReplay => exact execFlitCrcReplay_inv h hi
  case portRetrain => exact execPortRetrain_inv h hi
  case portRemove => exact execPortRemove_inv h hi
  case registerWrite => exact execRegisterWrite_inv h hi
  case csloadComplete => exact execCsloadComplete_inv h hi
  case checkpointRestore => exact execCheckpointRestore_inv h hi
  case portTrained => exact execPortTrained_inv h hi
  case controlIntervalBoundary => exact execControlIntervalBoundary_inv h hi
  case moduleNumberAssign => exact execModuleNumberAssign_inv h hi
  case binFlushStall hall => exact next_inv (s1 := flushStalled s hall) h (flushStalled_inv hall hi)
  case remoteRequest r => exact next_inv (s1 := remoteServe s r) h (remoteServe_inv r hi)
  case checkpoint => exact (execCheckpoint_plant h).symm ▸ hi
  case longAluComplete | loadComplete | storeAck | queueGatherFetch | alcattComplete | alcoveEvictDone | alcoveRefillDone |
    copyOpStart | copyUnitLand | copyOpComplete | signalPerform | matrixGrant | matrixEntryComplete | binFlushAge |
    regroupEntryPost | regroupPassComplete | rayQueryStop | rasterTriangle | fragmentProcess | drawFlush | unitImageSwitch |
    fairnessTimer | reservationDeferExpire | progressWatchdog | perfcComplete | weightFillComplete | queryComplete |
    contextRecordDone | unitReloadEnd | tlbinvComplete | pageWalkComplete | gridDispatchBegin | blockPlace | blockRetire |
    gridComplete | streamWaitCheck | dfeAccessRetry | starvedGridReport | launchEnqueue | queueReset | preemptRequest |
    preemptHalt | preemptSave | contextResume | blockRestore | hallOwnerWrite | hallOwnerChange | fresume | waveResume |
    ibudWrite | voltageSlewEnd | clockHop | clockHopEnd | landingSample | droopDetect | droopClear | ageingReplan |
    matrixEngineHang | matrixEngineRestart | copyQueueReset | unitReload | decoderWatchdog | remoteTimeout | scrub =>
    exact runDevice_inv h hi
  all_goals exact onDevice_inv h hi

/-! ### Turns of cores -/

/-- A meaning of instructions that keeps the invariant. -/
def Keeps (ex : Instr → State → Out State) : Prop := ∀ i s s', ex i s = .next s' → s.plant.Inv → s'.plant.Inv

/-- A wave's next instruction keeps the invariant. -/
theorem runNext_inv {ex : Instr → State → Out State} (hex : Keeps ex) {s s' : State} (h : runNext ex s = .next s')
    (hi : s.plant.Inv) : s'.plant.Inv := by
  unfold runNext at h
  split at h
  · cases h
  · split at h
    · exact hex _ _ _ h hi
    · exact hex _ _ _ h hi
    · cases h; exact hi
    · cases h; exact hi

/-- A wave tried keeps the invariant. -/
theorem tryWave_inv {ex : Instr → State → Out State} (hex : Keeps ex) {core slot : Nat} {s : State} {r : State × Bool}
    (h : tryWave ex core slot s = .next r) (hi : s.plant.Inv) : r.1.plant.Inv := by
  unfold tryWave at h
  split at h
  next hrun =>
    have hnext := runNext_inv hex hrun hi
    split at h <;> cases h <;> exact hnext
  next => cases h
  next => cases h

/-- What a pair's word comes to meets the invariant. -/
def PairTry.Inv : PairTry → Prop
  | .issued s => s.plant.Inv
  | .unready s => s.plant.Inv
  | .stop r => ∀ s', r = .next s' → s'.plant.Inv

/-- What both branches meet is met. -/
theorem pairTry_ite_inv {c : Prop} [Decidable c] {a b : PairTry} (ha : a.Inv) (hb : b.Inv) : (if c then a else b).Inv := by
  split
  · exact ha
  · exact hb

/-- A pair's word keeps the invariant (R29). -/
theorem pairWord_inv {ex : Instr → State → Out State} (hex : Keeps ex) (core : Nat) (p : Nat × Nat) {s : State}
    (hi : s.plant.Inv) : (pairWord ex core p s).Inv := by
  unfold pairWord
  dsimp only
  split
  next s1 h1 =>
    have hi1 : s1.plant.Inv := runNext_inv hex h1 (inv_mk hi)
    refine pairTry_ite_inv (inv_mk hi1) ?_
    split
    · next s3 h3 =>
        have hi3 : s3.plant.Inv := runNext_inv hex h3 (inv_mk hi1)
        exact pairTry_ite_inv (inv_mk hi) (inv_mk hi3)
    · next hstop => exact fun s' h => (hstop s' h).elim
  next hstop => exact fun s' h => (hstop s' h).elim

/-- Waves tried in order keep the invariant (R41). -/
theorem tryWaves_inv {ex : Instr → State → Out State} (hex : Keeps ex) (core : Nat) (ws : List Nat) :
    ∀ {s s' : State}, tryWaves ex core ws s = .next s' → s.plant.Inv → s'.plant.Inv := by
  induction ws with
  | nil => exact fun h hi => next_inv h hi
  | cons k ws ih =>
    intro s s' h hi
    have halone {s1 : State} (hi1 : s1.plant.Inv) (h : (match tryWave ex core k s1 with
        | .next r => if r.2 then .next r.1 else tryWaves ex core ws r.1
        | .fault r => .fault r
        | .refused r => .refused r) = (.next s' : Out State)) : s'.plant.Inv := by
      split at h
      next r hr =>
        have hr := tryWave_inv hex hr hi1
        split at h
        · exact next_inv h hr
        · exact ih h hr
      next => cases h
      next => cases h
    unfold tryWaves at h
    dsimp only at h
    split at h
    next p hp =>
      have hpair := pairWord_inv hex core p hi
      split at h
      next s1 hs1 => rw [hs1] at hpair; exact next_inv h hpair
      next s1 hs1 =>
        rw [hs1] at hpair
        split at h
        · exact next_inv h hpair
        · exact halone hpair h
      next r hr => rw [hr] at hpair; exact hpair s' h
    next => exact halone hi h

/-! ### Time, application cores and moves -/

/-- Time of a hall leaves the plant. -/
theorem hallTime_inv (ex : Instr → State → Out State) (h n : Nat) {s : State} (hi : s.plant.Inv) :
    (hallTime ex s h n).plant.Inv := by
  unfold hallTime
  exact ite_inv hi (inv_mk hi)

/-- A core's turn keeps the invariant (R41). -/
theorem coreTurn_inv {ex : Instr → State → Out State} (hex : Keeps ex) {core : Nat} {s s' : State}
    (h : coreTurn ex core s = .next s') (hi : s.plant.Inv) : s'.plant.Inv := by
  unfold coreTurn at h
  split at h
  · exact tryWaves_inv hex core _ h (hallTime_inv ex _ _ hi)
  · exact next_inv h hi

/-- An RV64GC instruction's outcome whose state meets the invariant. -/
def RvKeeps (r : RvOut) : Prop := ∀ s1 k1, r = .ok (s1, k1) → s1.plant.Inv

/-- A result over a state that meets the invariant. -/
theorem rvKeeps_ok {s : State} {k : ApcCore} (h : s.plant.Inv) : RvKeeps (.ok (s, k)) := by
  intro s1 k1 h1
  cases h1
  exact h

/-- An exception leaves no state of its own. -/
theorem rvKeeps_error (t : RvTrap) : RvKeeps (.error t) := nofun

/-- What both branches keep is kept. -/
theorem rvKeeps_ite {c : Prop} [Decidable c] {a b : RvOut} (ha : RvKeeps a) (hb : RvKeeps b) : RvKeeps (if c then a else b) := by
  split
  · exact ha
  · exact hb

/-- A result computed without a change of state. -/
theorem rvKeeps_map {β : Type} {a : Except RvTrap β} {f : β → State × ApcCore} (hf : ∀ v, (f v).1.plant.Inv) :
    RvKeeps (a.map f) := by
  cases a with
  | error t => exact rvKeeps_error t
  | ok v => exact rvKeeps_ok (hf v)

/-- A store through a window keeps the invariant. -/
theorem rvWrite_inv {s s1 : State} {c pa size : Nat} {x : W64} (h : rvWrite s c pa size x = some s1) (hi : s.plant.Inv) :
    s1.plant.Inv := by
  obtain ⟨a, -, rfl⟩ := Option.map_eq_some_iff.mp h
  exact windowStore_inv a x hi

/-- A store keeps the invariant. -/
theorem rvStore_keeps {s : State} {c : Nat} {k : ApcCore} {va : W64} {size : Nat} {x : W64} (hi : s.plant.Inv) :
    RvKeeps (rvStore s c k va size x) := by
  unfold rvStore
  refine rvKeeps_ite (rvKeeps_error _) ?_
  split
  · exact rvKeeps_error _
  · split
    next hw => exact rvKeeps_ok (rvWrite_inv hw hi)
    next => exact rvKeeps_error _

/-- LR keeps the invariant. -/
theorem rvLr_keeps {s : State} {c : Nat} {k : ApcCore} {size rd : Nat} {va : W64} (hi : s.plant.Inv) :
    RvKeeps (rvLr s c k size rd va) := by
  unfold rvLr
  refine rvKeeps_ite (rvKeeps_error _) ?_
  split
  · exact rvKeeps_error _
  · split
    · exact rvKeeps_ok hi
    · exact rvKeeps_error _

/-- SC keeps the invariant. -/
theorem rvSc_keeps {s : State} {c : Nat} {k : ApcCore} {size rd : Nat} {va x : W64} (hi : s.plant.Inv) :
    RvKeeps (rvSc s c k size rd va x) := by
  unfold rvSc
  refine rvKeeps_ite (rvKeeps_error _) ?_
  split
  · exact rvKeeps_error _
  · refine rvKeeps_ite (rvKeeps_error _) (rvKeeps_ite ?_ (rvKeeps_ok hi))
    split
    next hw => exact rvKeeps_ok (rvWrite_inv hw hi)
    next => exact rvKeeps_error _

/-- An atomic access keeps the invariant. -/
theorem rvAmoExec_keeps {s : State} {c : Nat} {k : ApcCore} {f : RvAmo} {size rd : Nat} {va x : W64} (hi : s.plant.Inv) :
    RvKeeps (rvAmoExec s c k f size rd va x) := by
  unfold rvAmoExec
  refine rvKeeps_ite (rvKeeps_error _) ?_
  split
  · exact rvKeeps_error _
  · split
    · exact rvKeeps_error _
    · split
      next hw => exact rvKeeps_ok (rvWrite_inv hw hi)
      next => exact rvKeeps_error _

/-- A CSR instruction keeps the invariant. -/
theorem rvCsrExec_keeps {s : State} {c : Nat} {k : ApcCore} {w : Nat} {f : RvCsrOp} {rd : Nat} {src : RvCsrSrc} {a : Nat}
    (hi : s.plant.Inv) : RvKeeps (rvCsrExec s c k w f rd src a) := by
  unfold rvCsrExec
  dsimp only
  split
  · exact rvKeeps_error _
  · exact rvKeeps_ite (rvKeeps_error _) (rvKeeps_ok hi)

/-- Every RV64GC instruction keeps the invariant: only stores write, through the windows. -/
theorem rvExec_keeps {s : State} (hi : s.plant.Inv) (c : Nat) (k : ApcCore) (here : W64) (w : Nat) (op : RvOp) :
    RvKeeps (rvExec s c k here w op) := by
  have hfp {a : RvOut} (h : RvKeeps a) : RvKeeps (if rvFs k = 0 then rvIllegal w else a) := rvKeeps_ite (rvKeeps_error _) h
  have hrounded {rm : Nat} {a : RvRm → RvOut} (h : ∀ m, RvKeeps (a m)) :
      RvKeeps (if rvFs k = 0 then rvIllegal w else match rvMode k rm with | some m => a m | none => rvIllegal w) := by
    refine hfp ?_
    split
    · exact h _
    · exact rvKeeps_error _
  unfold rvExec
  cases op
  case load => exact rvKeeps_map fun _ => hi
  case store => exact rvStore_keeps hi
  case ecall => exact rvKeeps_error _
  case ebreak => exact rvKeeps_error _
  case mret | sret | sfenceVma => exact rvKeeps_ite (rvKeeps_ok hi) (rvKeeps_error _)
  case wfi => exact rvKeeps_ite (rvKeeps_error _) (rvKeeps_ok hi)
  case csr => exact rvCsrExec_keeps hi
  case lr => exact rvLr_keeps hi
  case sc => exact rvSc_keeps hi
  case amo => exact rvAmoExec_keeps hi
  case fload => exact hfp (rvKeeps_map fun _ => hi)
  case fstore => exact hfp (rvStore_keeps hi)
  case fma | fbin | fsqrt | fcvtFmt | fcvtToInt | fcvtFromInt => exact hrounded fun _ => rvKeeps_ok hi
  case fsgn | fminmax | fcmp | fclass | fmvToInt | fmvFromInt => exact hfp (rvKeeps_ok hi)
  all_goals exact rvKeeps_ok hi

/-- An instruction of an application core keeps the invariant. -/
theorem rvInstr_inv {s : State} (hi : s.plant.Inv) (c : Nat) (k : ApcCore) : (rvInstr s c k).plant.Inv := by
  unfold rvInstr
  split
  · exact inv_mk hi
  · split
    · exact inv_mk hi
    · split
      · exact inv_mk hi
      next h1 => exact inv_mk (rvExec_keeps hi _ _ _ _ _ _ _ h1)

/-- A step of an application core keeps the invariant (R345). -/
theorem apcStep_inv {s : State} (hi : s.plant.Inv) (c : Nat) : (apcStep c s).plant.Inv := by
  unfold apcStep
  refine ite_inv ?_ hi
  split
  · exact inv_mk hi
  · exact rvInstr_inv hi c _

/-- Every move keeps the invariant. -/
theorem moveStep_inv {ex : Instr → State → Out State} (hex : Keeps ex) (m : Move) {s s' : State}
    (h : moveStep ex m s = .next s') (hi : s.plant.Inv) : s'.plant.Inv := by
  cases m with
  | core c => exact coreTurn_inv hex h hi
  | event i =>
    unfold moveStep at h
    dsimp only at h
    split at h
    · exact hex i s s' h hi
    · exact next_inv h hi
  | hallTime g n => exact next_inv h (hallTime_inv ex g n hi)
  | fabricTime n => exact next_inv h (inv_mk hi)
  | l2Evict line => exact next_inv h (inv_mk hi)
  | pack c a b => exact next_inv h (inv_mk hi)
  | mgmtUpdate i => exact next_inv h (takeUpdate_inv i hi)
  | peer a bs bad => exact next_inv h (inv_mk hi)
  | tileAnswer g op => exact next_inv h (inv_mk hi)
  | apc c => exact next_inv h (apcStep_inv hi c)
  | mgmtFrame bs => exact next_inv h (inv_mk (inv_of_measure hi.2.1 hi))

/-- Settles O57: a step is one move, of the input or of the die's own round, and every move keeps the invariant. -/
theorem stepKeepsPlantInvariant : Obligations.StepKeepsPlantInvariant := by
  intro s s' hi h
  have hmove {m : Move} {t : List Move} (h : moveStep exec m { s with moves := t } = .next s') : s'.plant.Inv :=
    moveStep_inv (fun i _ _ => exec_inv i) m h (inv_mk hi)
  unfold step at h
  split at h
  · exact hmove h
  · split at h
    · exact hmove h
    · exact next_inv h hi

/-- Settles O56: 32 zones of 176 gill and four of 80, 64 zero bytes, and no port listed. -/
theorem plantInvariantAtReset : Obligations.PlantInvariantAtReset := by
  refine ⟨?_, rfl, ?_⟩
  · decide +kernel
  · exact fun e he => absurd he List.not_mem_nil

/-- Settles O55: the tables of the state at reset are empty, so each part reads as blank. -/
theorem resetState : Obligations.ResetState := by
  exact ⟨rfl, rfl, rfl, rfl, fun q => ⟨rfl, rfl, rfl⟩, fun h => ⟨rfl, rfl, rfl, rfl, rfl, rfl, rfl, rfl⟩, fun i => rfl,
    fun z hz => ⟨rfl, rfl, rfl⟩, rfl⟩

end Sys2Proof.Machine
end

section
/-! PROOFS. O1, O3, O5, O7: integer, immediate, FP32 and packed arithmetic (R168 to R170, R177, R179 to R184). -/

namespace Sys2Proof.Machine

/-! ### Integers -/

/-- A word of integer type gives `f` where its job computes `f`. -/
theorem intWord_of {mk : WordA → Instr} {n : Nat} {f : Int → Int → Int → Int} {opc : BitVec 8} {sat : Bool}
    (hn : n ≤ 3) (hj : ∀ w, wordJob (mk w) = some (intJob opc w n sat f)) : IntWord mk n f :=
  laneWord_of hj hn fun _ _ _ => rfl

/-- Byte `i` of a value, its place as a power of 256. -/
theorem byteOf_eq (x : W32) (i : Nat) : byteOf x i = x.toNat / 256 ^ i % 256 := by rw [byteOf, Nat.pow_mul]

/-- The dot product of four bytes, written out (R169). -/
theorem idp4Sum_eq (sa sb : Bool) (a b c : W32) :
    idp4Sum sa sb a b c =
      (let p (i : Nat) : Int := intOf 8 sa (a.toNat / 256 ^ i % 256) * intOf 8 sb (b.toNat / 256 ^ i % 256)
       intOf 32 true c.toNat + p 0 + p 1 + p 2 + p 3) := by
  simp only [← byteOf_eq]
  rfl

/-- Settles O1: each word's job computes the exact value; IDP4's sum is written out byte by byte. -/
theorem integerArithmeticResults : Obligations.IntegerArithmeticResults := by
  unfold Obligations.IntegerArithmeticResults
  refine ⟨?iadd, ?isub, ?imul, ?imulh, ?imad, ?imin, ?imax, ?idp4⟩
  case iadd => exact intWord_of (by decide) fun _ => rfl
  case isub => exact intWord_of (by decide) fun _ => rfl
  case imul => exact intWord_of (by decide) fun _ => rfl
  case imulh => exact intWord_of (opc := 0x04) (sat := false) (by decide) fun _ => rfl
  case imad => exact intWord_of (by decide) fun _ => rfl
  case imin => exact intWord_of (by decide) fun _ => rfl
  case imax => exact intWord_of (by decide) fun _ => rfl
  case idp4 =>
    refine laneWord_of (j := jobIdp4) (fun _ => rfl) (by decide) fun w v ex => ?_
    simp only [jobIdp4, aluJob, idp4Sum_eq]
    rfl

/-! ### Immediates -/

/-- An I-format word gives `f` where its job computes `f`. -/
theorem immWord_of {mk : WordI → Instr} {fp : Bool} {f : View → WordI → W32 → W32 × Flags} {opc : BitVec 8}
    {legal : WordI → List Check} (hj : ∀ w, wordJob (mk w) = some (immJob opc w true fp (legal w) fun v => f v w)) :
    ImmWord mk fp f := by
  intro w s v ex ents t h hp hl
  exact goes_of (hj w) h (destEffect_lands hp hl)

/-- MOVI gives IMM (R177). -/
theorem movi_goes (w : WordI) (s : State) (v : View) (ex : Mask) (t : Device) (h : Runs (.movi w) s v ex)
    (hl : Lands v (w.hd.md.getLsbD 3 || v.uni) ex w.d [] (fun _ => (w.imm, 0)) t) : Goes (.movi w) s v t := by
  have hres : aluResult v (iUni w || v.uni) [] [] (fun _ _ => (w.imm, (0 : Flags))) = fun _ => (w.imm, 0) := by
    funext l
    exact ite_self _
  exact goes_of (j := jobMovi w) rfl h (destEffect_lands (ops := []) (ents := [])
    (res := fun ents => aluResult v (iUni w || v.uni) ents [] fun _ _ => (w.imm, 0)) rfl (hres ▸ hl))

/-- Settles O3: each word's job computes its operation on A and IMM. -/
theorem immediateResults : Obligations.ImmediateResults := by
  unfold Obligations.ImmediateResults
  refine ⟨?iaddi, ?imuli, ?andi, ?ori, ?xori, ?faddi, ?fmuli, movi_goes⟩
  case iaddi => exact immWord_of fun _ => rfl
  case imuli => exact immWord_of fun _ => rfl
  case andi => exact immWord_of fun _ => rfl
  case ori => exact immWord_of fun _ => rfl
  case xori => exact immWord_of fun _ => rfl
  case faddi => exact immWord_of fun _ => rfl
  case fmuli => exact immWord_of fun _ => rfl

/-! ### FP32 and packed values -/

/-- A source among the values that a list of sources is read as. -/
theorem fx_map_zip (g : Nat → W32 → FVal) (xs : List W32) (i : Nat) :
    fx (((List.range xs.length).zip xs).map fun e => g e.1 e.2) i =
      if i < xs.length then g i (xs.getD i 0) else .num false 0 := by
  by_cases h : i < xs.length
  · simp [fx, List.getD_eq_getElem?_getD, h]
  · simp [fx, List.getD_eq_getElem?_getD, h]

/-- An FP32 word gives `f` where its job computes `f` of its first three sources. -/
theorem fpWord_of {mk : WordA → Instr} {n : Nat} {f : Rm → FVal → FVal → FVal → FVal × Flags} {opc : BitVec 8} {rmHi : Nat}
    {g : WordA → View → List FVal → FVal × Flags} (hn : n ≤ 3) (hj : ∀ w, wordJob (mk w) = some (fpJob opc w n rmHi (g w)))
    (hg : ∀ w v xs, g w v xs = f (aRm v w) (fx xs 0) (fx xs 1) (fx xs 2)) : FpWord mk n f := by
  refine laneWord_of hj hn fun w v ex => ?_
  simp only [fpJob, aluJob, hg, fx_map_zip (aFsrc v w)]
  rfl

/-- A packed word gives `f` where its job computes `f` of its first three sources. -/
theorem packWord_of {mk : WordA → Instr} {n : Nat} {f : Fmt → Rm → FVal → FVal → FVal → FVal × Flags} {opc : BitVec 8}
    {rmHi : Nat} {g : Fmt → Rm → List FVal → FVal × Flags} (hn : n ≤ 3)
    (hj : ∀ w, wordJob (mk w) = some (packJob opc w n rmHi g))
    (hg : ∀ t m xs, g t m xs = f t m (fx xs 0) (fx xs 1) (fx xs 2)) : PackWord mk n f := by
  refine laneWord_of hj hn fun w v ex => ?_
  simp only [packJob, aluJob, hg]
  refine congrArg (aluEffect v _ ex w.d none _) (funext fun _ => funext fun xs => congrArg (packHalves _) (funext fun i => ?_))
  simp only [fx_map_zip fun k x => halfOf (packFmt (subLo w.sub)) (negOf w k) (absOf w k) x i]
  rfl

/-- Settles O5: FADD to FLDEXP compute their exact results rounded once. -/
theorem floatArithmeticResults : Obligations.FloatArithmeticResults := by
  unfold Obligations.FloatArithmeticResults
  refine ⟨?fadd, ?fmul, ?ffma, ?fmin, ?fmax, ?fclass, ?frnd, ?ffrc, ?fldexp⟩
  case fadd => exact fpWord_of (by decide) (fun _ => rfl) fun _ _ _ => rfl
  case fmul => exact fpWord_of (by decide) (fun _ => rfl) fun _ _ _ => rfl
  case ffma => exact fpWord_of (by decide) (fun _ => rfl) fun _ _ _ => rfl
  case fmin => exact fpWord_of (by decide) (fun _ => rfl) fun _ _ _ => rfl
  case fmax => exact fpWord_of (by decide) (fun _ => rfl) fun _ _ _ => rfl
  case fclass => exact laneWord_of (j := jobFclass) (fun _ => rfl) (by decide) fun _ _ _ => rfl
  case frnd => exact fpWord_of (by decide) (fun _ => rfl) fun _ _ _ => rfl
  case ffrc => exact fpWord_of (by decide) (fun _ => rfl) fun _ _ _ => rfl
  case fldexp => exact laneWord_of (j := jobFldexp) (fun _ => rfl) (by decide) fun _ _ _ => rfl

/-- A packed element without NEG and ABS is the 16 bits at its place. -/
theorem halfOf_plain (t : Fmt) (x : W32) (i : Nat) :
    halfOf t false false x i = decodeF t (x.toNat / 65536 ^ i % 65536) := by
  have hpow : 65536 ^ i = 2 ^ (16 * i) := by rw [Nat.pow_mul]
  simp [halfOf, BitVec.extractLsb'_toNat, Nat.shiftRight_eq_div_pow, hpow]

/-- Settles O7: both elements alike, and dot products rounded once. -/
theorem packedArithmeticResults : Obligations.PackedArithmeticResults := by
  unfold Obligations.PackedArithmeticResults
  refine ⟨?hadd2, ?hmul2, ?hfma2, ?hmin2, ?hmax2, ?hdot2, ?qdot4⟩
  case hadd2 => exact packWord_of (by decide) (fun _ => rfl) fun _ _ _ => rfl
  case hmul2 => exact packWord_of (by decide) (fun _ => rfl) fun _ _ _ => rfl
  case hfma2 => exact packWord_of (by decide) (fun _ => rfl) fun _ _ _ => rfl
  case hmin2 => exact packWord_of (by decide) (fun _ => rfl) fun _ _ _ => rfl
  case hmax2 => exact packWord_of (by decide) (fun _ => rfl) fun _ _ _ => rfl
  case hdot2 =>
    refine laneWord_of (j := jobHdot2) (fun _ => rfl) (by decide) fun w v ex => ?_
    simp only [jobHdot2, aluJob, halfOf_plain]
    rfl
  case qdot4 =>
    refine laneWord_of (j := jobQdot4) (fun _ => rfl) (by decide) fun w v ex => ?_
    simp only [jobQdot4, aluJob, byteOf_eq]
    rfl

end Sys2Proof.Machine
end

section
/-! PROOFS. O6: the approximate functions (R116, R182). -/

namespace Sys2Proof.Machine

/-- The effect of a long-latency ALU word whose sources pop no bad entry, where its results are pending. -/
theorem destEffect_landsLater {v : View} {once : Bool} {ex : Mask} {d : Operand} {la : BitVec 4} {ops : List Operand}
    {res : List (List W32) → Nat → W32 × Flags} {ents : List (List W32)} {t : Device}
    (h : popWalk v ops [] = (ents, none)) (hl : LandsLater v once ex d la ops (res ents) t) :
    destEffect v once ex d (some la) ops res = .done t .onward := by
  unfold destEffect
  unfold LandsLater wordFlags at hl
  simp only [h]
  cases d <;> simp only at hl ⊢ <;> rw [hl]

/-- A long-latency word's results land, a queue's where it takes the entry. -/
theorem landsLater_of_push (v : View) (once : Bool) (ex : Mask) {d : Operand} (la : BitVec 4) (pops : List Operand)
    (res : Nat → W32 × Flags)
    (hq : ∀ j, d = .q j → ∃ t, pushEntry v (v.put (popApply v v.d pops) (addFlags (wordFlags v once ex res))) j
      (fun l => if ex.getLsbD l then (res l).1 else 0) = .done t) : ∃ t, LandsLater v once ex d la pops res t := by
  by_cases h : ∃ j, d = .q j
  · obtain ⟨j, rfl⟩ := h
    exact hq j rfl
  · exact landsLater_some v once ex la pops res fun q hd => h ⟨q, hd⟩

/-- An approximate function's word computes what the table admits where its function of the bits does. -/
theorem approxWord_of {mk : WordA → Instr} {table : FVal → FVal × Flags → Prop} {opc : BitVec 8}
    {f : W32 → FVal → FVal × Flags} (hj : ∀ w, wordJob (mk w) = some (approxJob opc w f)) (hf : ∀ b a, table a (f b a)) :
    ApproxWord mk table := by
  refine ⟨fun a => f (f32Bits a) a, fun a => hf _ a, fun w s v ex ents h hp hq => ?_⟩
  obtain ⟨t, ht⟩ := landsLater_of_push v (w.u || v.uni) ex w.hd.md [w.a] _ hq
  exact ⟨t, ht, goes_of (hj w) h (destEffect_landsLater hp ht)⟩

/-- A candidate that is taken only within a bound, else a value within it, is within it. -/
theorem within_of {P : FVal → Prop} {ok : FVal → Bool} {c : W32} {e : FVal} (hok : ∀ x, ok x = true → P x) (he : P e) :
    P (within ok c e) := by
  unfold within
  split
  · exact hok _ ‹_›
  · exact he

/-- A candidate that is taken only as a number with a property, else a value of its own. -/
theorem within_num {neg : Bool} {Q : Rat → Prop} {ok : FVal → Bool} {c : W32} {e : FVal}
    (hok : ∀ x, ok x = true → x = e ∨ ∃ z, x = .num neg z ∧ Q z) :
    within ok c e = e ∨ ∃ z, within ok c e = .num neg z ∧ Q z :=
  within_of (P := fun x => x = e ∨ ∃ z, x = .num neg z ∧ Q z) hok (.inl rfl)

/-- A power of two is positive. -/
theorem pow2_pos (k : Int) : 0 < pow2 k := by
  unfold pow2
  split
  · exact_mod_cast Nat.two_pow_pos _
  · rw [Rat.mkRat_eq_div]
    positivity

/-- The FP32 spacing is positive. -/
theorem ulpAt_pos (a : Rat) : 0 < ulpAt a := pow2_pos _

/-- A value near an exact one, or the nearest to it, lies within the bound (Table 5.3). -/
theorem inexact_within (y : Rat) {bound : Rat} (hb : 0 ≤ bound) (c : W32) :
    Inexact y bound (within (nearTo y bound) c (nearest y), flInexact) := by
  refine ⟨rfl, within_of (P := fun x => x = nearest y ∨ ∃ n z, x = .num n z ∧ ratAbs (z - y) ≤ bound) ?_ (.inl rfl)⟩
  intro x hx
  cases x with
  | nan => cases hx
  | inf => cases hx
  | num n z =>
    have hslack : 0 ≤ bound * pow2 (-100) := mul_nonneg hb (pow2_pos _).le
    have hx : ratAbs (z - y) + bound * pow2 (-100) ≤ bound := of_decide_eq_true hx
    exact .inr ⟨n, z, rfl, by linarith⟩

/-- FRCP is as Table 5.3 has it. -/
theorem rcpSays_rcpF (b : W32) (a : FVal) : rcpSays a (rcpF b a) := by
  cases a with
  | nan => rfl
  | inf => rfl
  | num n x =>
    unfold rcpSays rcpF
    dsimp only
    by_cases hx : x = 0
    · simp only [hx, if_true]
    by_cases hr : (roundTo fp32 .rne n (1 / x)).2 = 0
    · simp only [hx, hr, if_true, if_false]
    simp only [hx, hr, if_false]
    split
    next hbig => exact ⟨rfl, fun h => absurd h (not_le.mpr hbig)⟩
    next =>
      refine ⟨rfl, fun _ => ?_⟩
      dsimp only
      refine within_num fun c hc => ?_
      cases c with
      | num k z =>
        simp only [Bool.or_eq_true, decide_eq_true_eq, Bool.and_eq_true] at hc
        exact hc.imp_right fun ⟨hk, hz⟩ => ⟨z, by rw [hk], hz⟩
      | _ => exact .inl (by simpa using hc)

/-- FSQRT is as Table 5.3 has it. -/
theorem sqrtSays_sqrtF (b : W32) (a : FVal) : sqrtSays a (sqrtF b a) := by
  cases a with
  | nan => rfl
  | inf => rfl
  | num n x =>
    unfold sqrtSays sqrtF
    dsimp only
    by_cases hx : x = 0
    · simp only [hx, if_true]
    cases n with
    | true => simp only [hx, if_true, if_false]
    | false =>
      simp only [hx, if_false, Bool.false_eq_true]
      split
      · rfl
      refine ⟨rfl, ?_⟩
      dsimp only
      refine within_num fun c hc => ?_
      match c, hc with
      | .num false z, hc =>
        simp only [Bool.or_eq_true, decide_eq_true_eq, Bool.and_eq_true] at hc
        exact .inr ⟨z, rfl, hc⟩

/-- FRSQ is as Table 5.3 has it. -/
theorem rsqSays_rsqF (b : W32) (a : FVal) : rsqSays a (rsqF b a) := by
  cases a with
  | nan => rfl
  | inf => rfl
  | num n x =>
    unfold rsqSays rsqF
    dsimp only
    by_cases hx : x = 0
    · simp only [hx, if_true]
    cases n with
    | true => simp only [hx, if_true, if_false]
    | false =>
      simp only [hx, if_false, Bool.false_eq_true]
      refine ⟨trivial, within_num fun c hc => ?_⟩
      match c, hc with
      | .num false z, hc =>
        simp only [Bool.or_eq_true, decide_eq_true_eq, Bool.and_eq_true] at hc
        exact .inr ⟨z, rfl, hc⟩

/-- FEXP2 is as Table 5.3 has it. -/
theorem exp2Says_exp2F (b : W32) (a : FVal) : exp2Says a (exp2F b a) := by
  cases a with
  | nan => rfl
  | inf => rfl
  | num n x =>
    unfold exp2Says exp2F
    dsimp only
    split
    · rfl
    · split
      · rfl
      · exact inexact_within _ (mul_nonneg zero_le_two (ulpAt_pos _).le) _

/-- FLOG2 is as Table 5.3 has it. -/
theorem log2Says_log2F (b : W32) (a : FVal) : log2Says a (log2F b a) := by
  cases a with
  | nan => rfl
  | inf => rfl
  | num n x =>
    unfold log2Says log2F
    dsimp only
    split
    · rfl
    · split
      · rfl
      · split
        · rfl
        · refine inexact_within _ ?_ _
          split
          · exact (pow2_pos _).le
          · exact mul_nonneg zero_le_two (ulpAt_pos _).le

/-- FSIN is as Table 5.3 has it. -/
theorem sinSays_sinF (b : W32) (a : FVal) : sinSays a (sinF b a) := by
  cases a with
  | nan => rfl
  | inf => rfl
  | num n x =>
    unfold sinSays sinF
    dsimp only
    split
    · rfl
    · split
      · split <;> simp_all
      · exact inexact_within _ (pow2_pos _).le _

/-- FCOS is as Table 5.3 has it. -/
theorem cosSays_cosF (b : W32) (a : FVal) : cosSays a (cosF b a) := by
  cases a with
  | nan => rfl
  | inf => rfl
  | num n x =>
    unfold cosSays cosF
    dsimp only
    split
    · rfl
    · split
      · rfl
      · split
        · rfl
        · exact inexact_within _ (pow2_pos _).le _

/-- Settles O6: each function takes the hardware's candidate only within its bound, and a value within it otherwise. -/
theorem approximateFunctionResults : Obligations.ApproximateFunctionResults := by
  unfold Obligations.ApproximateFunctionResults
  refine ⟨?frcp, ?frsq, ?fsqrt, ?fexp2, ?flog2, ?fsin, ?fcos⟩
  case frcp => exact approxWord_of (fun _ => rfl) rcpSays_rcpF
  case frsq => exact approxWord_of (fun _ => rfl) rsqSays_rsqF
  case fsqrt => exact approxWord_of (fun _ => rfl) sqrtSays_sqrtF
  case fexp2 => exact approxWord_of (fun _ => rfl) exp2Says_exp2F
  case flog2 => exact approxWord_of (fun _ => rfl) log2Says_log2F
  case fsin => exact approxWord_of (fun _ => rfl) sinSays_sinF
  case fcos => exact approxWord_of (fun _ => rfl) cosSays_cosF

end Sys2Proof.Machine
end

section
/-! PROOFS. O8: CVT (R115, R185, R186). -/

namespace Sys2Proof.Machine

/-- CVT gives each executing lane the conversion of its source, and steps the generators of those lanes in stochastic mode
(R185). -/
theorem cvt_goes (w : WordA) (s : State) (v : View) (ex : Mask) (ents : List (List W32)) (t : Device)
    (h : Runs (.cvt w) s v ex) (hp : popWalk v (cvtSrcs w) [] = (ents, none)) :
    let once := w.u || v.uni
    let res (l : Nat) : W64 × Flags × W32 :=
      if once then cvtLane v w ents v.lane0 0 (tblGet 0#32 v.w.lfsr 0) else cvtLane v w ents l l (tblGet 0#32 v.w.lfsr l)
    let ls := lanesOf v.width ex
    let gens (x : Wave) : Wave :=
      if w.hd.md.toNat % 8 = 5 then
        { x with lfsr := ls.foldl (fun t l => tblSet t (if once then 0 else l) (res l).2.2) x.lfsr }
      else x
    let d0 := v.put (popApply v v.d (cvtSrcs w)) fun x => addFlags (orFlags (ls.map fun l => (res l).2.1)) (gens x)
    (match w.d with
      | .q j => pushEntry v d0 j (fun l => if ex.getLsbD l then (res l).1.setWidth 32 else 0) = .done t
      | _ => t = putWrites v d0 (cvtWrites v w ex fun l => (res l).1)) →
    Goes (.cvt w) s v t := by
  intro once res ls gens d0 hl
  refine goes_of (j := jobCvt w) rfl h ?_
  simp only [jobCvt, hp]
  cases hd : w.d with
  | q j =>
    rw [hd] at hl
    change (match pushEntry v d0 j (fun l => if ex.getLsbD l then (res l).1.setWidth 32 else 0) with
      | .done d1 => Eff.done d1 .onward
      | .wait d1 => .hold d1
      | .trap t => .trap t) = _
    rw [hl]
  | _ =>
    rw [hd] at hl
    exact congrArg (Eff.done · .onward) hl.symm

/-- A floating-point type is no integer type (Table 7.4). -/
theorem intType_of_floatType {t : Nat} {f : Fmt} (h : floatType t = some f) : intType t = none := by
  unfold floatType at h
  split at h
  case h_7 => cases h
  all_goals rfl

/-- An integer converted to an integer type wraps, or saturates with SATURATED (R185). -/
theorem cvtElem_int {a b : Nat} {na nb : Nat} {sa sb : Bool} (sat : Bool) (m : Rm) (g : Option Nat) (x : Nat)
    (ha : intType a = some (na, sa)) (hb : intType b = some (nb, sb)) :
    cvtElem a b sat m g x = ((wrap nb (narrowInt nb sb sat (intOf na sa x)).1).toNat,
      (narrowInt nb sb sat (intOf na sa x)).2) := by
  simp only [cvtElem, ha, hb]

/-- A floating-point value converted to a floating-point type is rounded once from its exact value (R185). -/
theorem cvtElem_float {a b : Nat} {f g : Fmt} (sat : Bool) (m : Rm) (x : Nat) (ha : floatType a = some f)
    (hb : floatType b = some g) :
    cvtElem a b sat m none x = (encodeF g (convF g m (sat || decide (b = 13)) (decodeF f x)).1,
      (convF g m (sat || decide (b = 13)) (decodeF f x)).2 ||| sigFlag (decodeF f x)) := by
  have hia := intType_of_floatType ha
  have hib := intType_of_floatType hb
  simp [cvtElem, typeVal, ha, hb, hia, hib]

/-- Settles O8: the word's effect and the conversions of elements. -/
theorem conversionResults : Obligations.ConversionResults := by
  refine ⟨cvt_goes, fun a b sat m g x na nb sa sb ha hb => ?_, fun a b sat m x f g ha hb => cvtElem_float sat m x ha hb⟩
  rw [cvtElem_int sat m g x ha hb]
  cases sat with
  | true => simp [narrowInt, flagIf]
  | false => rfl

end Sys2Proof.Machine
end

section
/-! PROOFS. O10: PAIR words (R151 to R153). -/

namespace Sys2Proof.Machine

/-- The two's complement value of 32 bits. -/
theorem intOf_true (a : W32) : intOf 32 true a.toNat = a.toInt := by
  simp only [intOf, if_true]
  rw [signed_of_lt (by decide) a.isLt, BitVec.toInt_eq_toNat_cond]
  split <;> split <;> omega

/-- The unsigned value of 32 bits. -/
theorem intOf_false (a : W32) : intOf 32 false a.toNat = (a.toNat : Int) := by
  simp only [intOf, Bool.false_eq_true, if_false, Nat.mod_eq_of_lt a.isLt]

/-- A half-operation on signed integers wraps its exact value (R168). -/
theorem halfGives_signed {n : Nat} {f : Int → Int → Int} (hk : halfKind n = some (intHalf true f)) :
    HalfGives n fun _ a b _ => (wrap 32 (f a.toInt b.toInt), 0) :=
  ⟨_, hk, fun _ a b _ => by simp only [intHalf, intOf_true]; rfl⟩

/-- A half-operation on unsigned integers wraps its exact value (R168). -/
theorem halfGives_unsigned {n : Nat} {f : Int → Int → Int} (hk : halfKind n = some (intHalf false f)) :
    HalfGives n fun _ a b _ => (wrap 32 (f a.toNat b.toNat), 0) :=
  ⟨_, hk, fun _ a b _ => by simp only [intHalf, intOf_false]; rfl⟩

/-- An exact difference wrapped is the difference. -/
theorem wrap_toInt_sub (a b : W32) : wrap 32 (a.toInt - b.toInt) = a - b :=
  BitVec.eq_of_toInt_eq (by simp [wrap, BitVec.toInt_sub, BitVec.toInt_ofInt])

/-- A half-operation gives what its results are equal to. -/
theorem HalfGives.of_eq {n : Nat} {f g : View → W32 → W32 → W32 → W32 × Flags} (h : HalfGives n f)
    (hfg : ∀ v a b d, f v a b d = g v a b d) : HalfGives n g := by
  obtain ⟨k, hk, hf⟩ := h
  exact ⟨k, hk, fun v a b d => (hf v a b d).trans (hfg v a b d)⟩

/-- The codes that Table 7.5 leaves out are reserved. -/
theorem halfKind_reserved {n : Nat} (h : n = 15 ∨ n = 22 ∨ n = 23 ∨ 28 ≤ n) : halfKind n = none := by
  obtain rfl | rfl | rfl | h := h
  · rfl
  · rfl
  · rfl
  · obtain ⟨m, rfl⟩ := Nat.exists_eq_add_of_le' h
    rfl

/-- The results of a half whose operation is not reserved. -/
theorem halfResult_eq (v : View) (h : HalfOp) {k : HalfKind} (hk : halfKind h.hop.toNat = some k) :
    halfResult v h =
      if h.hop = 0 then ([], 0)
      else
        let ls := lanesOf v.width (v.active &&& predMask v.w h.g.toNat)
        let x (op : Operand) (l : Nat) : W32 := if k.fp then srcFp v [] op l else src v [] op l
        let r (l : Nat) : W32 × Flags := k.f v (x h.a l) (x h.b l) (vget v.d v.core v.w l h.d.toNat)
        (vWrites v h.d.toNat ls fun l => (r l).1, orFlags (ls.map fun l => (r l).2)) := by
  simp only [halfResult, hk, halfWrites, decide_eq_true_eq, ite_not]

/-- PAIR writes the results of both halves, each computed from the state before the word (R151). -/
theorem pair_goes (w : WordPair) (s : State) (v : View) (ex : Mask) (h : Runs (.pair w) s v ex) :
    ∃ k1 k2, halfKind w.h1.hop.toNat = some k1 ∧ halfKind w.h2.hop.toNat = some k2 ∧
      Goes (.pair w) s v (putWrites v (v.put v.d (addFlags ((halfResult v w.h1).2 ||| (halfResult v w.h2).2)))
        ((halfResult v w.h1).1 ++ (halfResult v w.h2).1)) := by
  have hop := h.passes (j := jobPair w) rfl
    (c := { bad := [w.h1, w.h2].any fun h => (halfKind h.hop.toNat).isNone, cause := 0x12, info := 1 }) List.mem_cons_self
  simp only [List.any_cons, List.any_nil, Bool.or_false, Bool.or_eq_false_iff, Option.isNone_eq_false_iff,
    Option.isSome_iff_exists] at hop
  obtain ⟨⟨k1, hk1⟩, k2, hk2⟩ := hop
  exact ⟨k1, k2, hk1, hk2, goes_of (j := jobPair w) rfl h rfl⟩

/-- Settles O10: the halves' results as the model computes them, and the value of each half-operation. -/
theorem pairResults : Obligations.PairResults := by
  refine ⟨?pair, ?add, ?sub, ?mul, ?min, ?max, ?umin, ?umax, ⟨_, rfl, fun _ _ _ _ => rfl⟩, ⟨_, rfl, fun _ _ _ _ => rfl⟩,
    ⟨_, rfl, fun _ _ _ _ => rfl⟩, ?shl, ?shr, ?sar, ⟨_, rfl, fun _ _ _ _ => rfl⟩,
    ⟨⟨_, rfl, fun _ _ _ _ => rfl⟩, ⟨_, rfl, fun _ _ _ _ => rfl⟩, ⟨_, rfl, fun _ _ _ _ => rfl⟩, ⟨_, rfl, fun _ _ _ _ => rfl⟩,
      ⟨_, rfl, fun _ _ _ _ => rfl⟩, ⟨_, rfl, fun _ _ _ _ => rfl⟩, ⟨_, rfl, fun _ _ _ _ => rfl⟩,
      ⟨_, rfl, fun _ _ _ _ => rfl⟩, ⟨_, rfl, fun _ _ _ _ => rfl⟩, ⟨_, rfl, fun _ _ _ _ => rfl⟩⟩,
    fun n hn => halfKind_reserved hn⟩
  case pair =>
    intro w s v ex h
    obtain ⟨k1, k2, hk1, hk2, hgoes⟩ := pair_goes w s v ex h
    refine ⟨k1, k2, hk1, hk2, ?_⟩
    rw [halfResult_eq v _ hk1, halfResult_eq v _ hk2] at hgoes
    exact hgoes
  case add => exact (halfGives_signed rfl).of_eq fun _ a b _ => by simp [wrap, BitVec.ofInt_add]
  case sub => exact (halfGives_signed rfl).of_eq fun _ a b _ => congrArg (·, (0 : Flags)) (wrap_toInt_sub a b)
  case mul => exact (halfGives_signed rfl).of_eq fun _ a b _ => by simp [wrap, BitVec.ofInt_mul]
  case min => exact halfGives_signed rfl
  case max => exact halfGives_signed rfl
  case umin => exact (halfGives_unsigned rfl).of_eq fun _ a b _ => by rw [← Nat.cast_min]; rfl
  case umax => exact (halfGives_unsigned rfl).of_eq fun _ a b _ => by rw [← Nat.cast_max]; rfl
  case shl => exact ⟨_, rfl, fun _ a b _ => congrArg (·, (0 : Flags)) (shlBits_eq a b.toNat)⟩
  case shr => exact ⟨_, rfl, fun _ a b _ => congrArg (·, (0 : Flags)) (shrBits_eq a b.toNat)⟩
  case sar => exact ⟨_, rfl, fun _ a b _ => congrArg (·, (0 : Flags)) (sarBits_eq a b.toNat)⟩

end Sys2Proof.Machine
end

section
/-! PROOFS. O12: special registers and counters (R155, R200, R201). -/

namespace Sys2Proof.Machine

/-- The value that RDSR reads: a per-lane register's, or the wave's. -/
def srValue (v : View) (code l : Nat) : W64 := if srPerLane code then (srLane v.w code l).setWidth 64 else srWave v code

/-- A code that names no per-lane register reads the wave's register. -/
theorem srValue_wave {v : View} {code l : Nat} (h : srPerLane code = false) : srValue v code l = srWave v code := by
  simp only [srValue, h, Bool.false_eq_true, if_false]

/-- Settles O12: RDSR by the kind of the register, WRSR by its code, RDCNT as the counter. -/
theorem specialRegisterResults : Obligations.SpecialRegisterResults := by
  refine ⟨fun w s v ex h => ?rdsr, fun w s v ex h => ?wrsr, fun w s v ex n h hd => ?rdcnt⟩
  case rdsr =>
    have hgoes : Goes (.rdsr w) s v (putWrites v v.d (match w.d with
      | .s n => [(.sreg n, srValue v (w.imm.toNat % 4096) 0)]
      | d => dstWrites v d ex fun l => (srValue v (w.imm.toNat % 4096) l).setWidth 32)) :=
      goes_of (j := jobRdsr w) rfl h rfl
    intro code x
    have hx : x = srValue v code := by
      funext l
      simp only [x]
      clear_value code
      split
      case h_5 =>
        cases hb : v.w.gfx.helper.getLsbD l <;> simp [srValue, srPerLane, srLane, hb, nat1]
      case h_6 _ h2 h5 h6 h7 hC1 =>
        have hcode : srPerLane code = false := by
          simp only [srPerLane, List.contains_eq_mem, List.mem_cons, List.not_mem_nil, or_false, decide_eq_false_iff_not, not_or]
          exact ⟨h2, h5, h6, h7, hC1⟩
        exact (srValue_wave hcode).symm
      all_goals rfl
    rw [hx]
    exact hgoes
  case wrsr =>
    intro value x
    refine goes_of (j := jobWrsr w) rfl h ?_
    simp only [jobWrsr]
    generalize w.imm.toNat % 4096 = code
    by_cases h2 : code = 2
    · subst h2
      rfl
    · rw [if_neg h2]
      refine congrArg (fun f => Eff.done (v.put v.d f) .onward) (funext fun y => ?_)
      unfold srPut
      split
      case h_11 => split <;> simp_all
      all_goals rfl
  case rdcnt =>
    refine goes_of (j := jobRdcnt w) rfl h ?_
    simp only [jobRdcnt, hd, scalarPut]
    rfl

end Sys2Proof.Machine
end

section
/-! PROOFS. O13, O14: loads and stores (R131, R139, R143, R218 to R226, R232, R233). -/

namespace Sys2Proof.Machine

/-! ### Lanes, and accesses whose checks pass -/

/-- The lanes that access are those whose data a word moves (R218, R220). -/
theorem accessLanes_eq_movers (v : View) (once : Bool) (ex : Mask) (store : Bool) :
    accessLanes v once ex store = movers v once ex store := by
  cases store with
  | false => simp [accessLanes, movers]
  | true => simp [accessLanes, movers]

/-- A read of global memory that nothing holds and whose lanes pass their checks goes on with their bytes. -/
theorem globalRead_ok {v : View} {once : Bool} {ex : Mask} {tl : MemTail} {r : Reader} {const fresh : Bool}
    {as : List (Nat × Nat × Nat)} {next : List RemotePart → List (Nat × List Byte) → Device → Eff}
    {ls : List (Nat × List Piece)} (hm : memHeld v tl true false = false)
    (hc : checkLanes v { rd := true, w := false, x := false } r (onceMask once ex) as = .ok ls) :
    globalRead v once ex tl r const fresh as next =
      next (lanesPorts v.d ls)
        (loadLanes v r tl.ch const ls (if fresh then dropLines v.core ls (acquired v tl) else acquired v tl)).1
        (loadLanes v r tl.ch const ls (if fresh then dropLines v.core ls (acquired v tl) else acquired v tl)).2 := by
  simp only [globalRead, hm, hc, Bool.false_eq_true, if_false]

/-- A write of global memory that nothing holds and whose lanes pass their checks stores them. -/
theorem globalWrite_ok {v : View} {once : Bool} {ex : Mask} {tl : MemTail} {r : Reader} {as : List (Nat × Nat × Nat)}
    {data : Nat → List Byte} {ls : List (Nat × List Piece)} (hm : memHeld v tl false true = false)
    (hc : checkLanes v { rd := false, w := true, x := false } r (onceMask once ex) as = .ok ls) :
    globalWrite v once ex tl r as data = storeDone v (lanesPorts v.d ls) (storeLanes v r tl.ch data ls v.d) := by
  simp only [globalWrite, hm, hc, Bool.false_eq_true, if_false]

/-- A scratchpad word that nothing holds and whose lanes pass their checks goes on, its passes counted. -/
theorem spadAccess_ok {v : View} {once : Bool} {ex : Mask} {tl : MemTail} {n : Nat} {ld st merge : Bool}
    {as : List (Nat × Nat × Nat × Nat)} {next : Device → Eff} (hm : memHeld v tl ld st = false)
    (hc : checkSpad v (isRc tl) st ld (onceMask once ex) as = none) :
    spadAccess v once ex tl n ld st merge as next = next (v.put (acquired v tl) (addPasses (corePasses n once merge as))) := by
  simp only [spadAccess, hm, hc, Bool.false_eq_true, if_false]

/-- The place of a scratchpad address: CH 1 names a core of the hall (R223). -/
theorem spadPlace_eq (v : View) (tl : MemTail) (a : Nat) : spadPlace v (isRc tl) a = spadAt v tl a := by
  simp only [spadPlace, spadAt, isRc, decide_eq_true_eq]

/-! ### Loads -/

/-- The effect of a load of global memory whose checks pass. -/
theorem loadJob_act {opc : BitVec 8} {w : WordM} {const fresh : Bool} {legal : List Check}
    {extra : View → List Nat → Device → Device} {v : View} {ex : Mask} {ls : List (Nat × List Piece)}
    (hm : memHeld v w.tl true false = false)
    (hc : checkLanes v { rd := true, w := false, x := false } .plain (if w.tl.u || v.uni then some ex else none)
      ((movers v (w.tl.u || v.uni) ex false).map fun l => (l, addrOf v w.a w.b w.off l, 2 ^ w.sz.toNat)) = .ok ls) :
    let x := loadLanes v .plain w.tl.ch const ls (if fresh then dropLines v.core ls (acquired v w.tl) else acquired v w.tl)
    (loadJob opc w const fresh legal extra).act v ex =
      .done (v.put (extra v (movers v (w.tl.u || v.uni) ex false) x.2)
        (pushOpTo (lanesPorts v.d ls) .load (windowOf (some w.hd.md))
          (loadedTo v (w.tl.u || v.uni) ex (regNo w.d) (max 1 (2 ^ w.sz.toNat / 4)) w.sx x.1) none 0 v.place)) .onward := by
  simp only [loadJob, accessLanes_eq_movers]
  exact globalRead_ok hm hc

/-- Settles O13: each load goes on from its passed checks with its lanes' bytes. -/
theorem loadResults : Obligations.LoadResults := by
  refine ⟨?ld, ?ldc, ?ldrsv, ?lds, ?sld⟩
  case ld =>
    intro w s v ex ls h once n from' hm hc
    exact goes_of (j := jobLd w) rfl h (loadJob_act hm hc)
  case ldc =>
    intro w s v ex ls h once n from' hm hc
    exact goes_of (j := jobLdc w) rfl h (loadJob_act hm hc)
  case ldrsv =>
    intro w s v ex ls h once n from' hm hc
    exact goes_of (j := jobLdrsv w) rfl h (loadJob_act hm hc)
  case lds =>
    intro w s v ex h once n at' from' hm hc
    refine goes_of (j := jobLds w) rfl h ?_
    simp only [jobLds, spadLanes, accessLanes_eq_movers, spadPlace_eq]
    refine (spadAccess_ok hm hc).trans ?_
    simp only [List.map_map]
    rfl
  case sld =>
    intro w s v ex ls h n hm hc
    refine goes_of (j := jobSld w) rfl h ?_
    simp only [jobSld]
    exact globalRead_ok (once := true) hm hc

/-! ### Stores -/

/-- Settles O14: each store goes on from its passed checks, its lanes stored in order. -/
theorem storeResults : Obligations.StoreResults := by
  refine ⟨?st, ?sts, ?stcnd⟩
  case st =>
    intro w s v ex ls h once n hm hc
    refine goes_of (j := jobSt w) rfl h ?_
    simp only [jobSt, accessLanes_eq_movers]
    exact globalWrite_ok hm hc
  case sts =>
    intro w s v ex h once n at' from' hm hc d
    refine goes_of (j := jobSts w) rfl h ?_
    simp only [jobSts, spadLanes, accessLanes_eq_movers, spadPlace_eq]
    refine (spadAccess_ok hm hc).trans ?_
    simp only [List.foldl_map]
    rfl
  case stcnd =>
    intro w s v ex ls h once n hm hc r ws
    refine goes_of (j := jobStcnd w) rfl h ?_
    simp only [jobStcnd, accessLanes_eq_movers, hm, Bool.false_eq_true, if_false]
    have hc : checkLanes v { rd := true, w := true, x := false } .plain (onceMask (w.tl.u || v.uni) ex)
        ((movers v (w.tl.u || v.uni) ex true).map fun l => (l, atomicAddr v w l, szBytes w.sz)) = .ok ls := hc
    simp only [hc]
    rfl

end Sys2Proof.Machine
end

section
/-! PROOFS. O16: atomics (R124, R220, R230, R231). -/

namespace Sys2Proof.Machine

/-- The least of two by an order, read in that order. -/
theorem apply_ite_lt_min (f : Nat → Int) (a b : Nat) : f (if f b < f a then b else a) = min (f a) (f b) := by
  split
  · omega
  · omega

/-- The greatest of two by an order, read in that order. -/
theorem apply_ite_lt_max (f : Nat → Int) (a b : Nat) : f (if f a < f b then b else a) = max (f a) (f b) := by
  split
  · omega
  · omega

/-- The subtraction of two's complement values is that of integers modulo 2^n. -/
theorem cast_add_sub_mod {n : Nat} (old : Nat) {d : Nat} (hd : d < 2 ^ n) :
    (((old + (2 ^ n - d)) % 2 ^ n : Nat) : Int) = ((old : Int) - d) % ((2 ^ n : Nat) : Int) := by
  rw [Int.natCast_mod, Nat.cast_add, Nat.cast_sub hd.le]
  rw [show (old : Int) + (((2 ^ n : Nat) : Int) - d) = (old : Int) - d + ((2 ^ n : Nat) : Int) by ring, Int.add_emod_right]

/-- An FP32 atomic on values of 32 bits (R230). -/
theorem fp32Op_eq (f : FVal → FVal → FVal × Flags) {a b : Nat} (ha : a < 2 ^ 32) (hb : b < 2 ^ 32) :
    fp32Op f a b = encodeF fp32 (f (decodeF fp32 a) (decodeF fp32 b)).1 := by
  rw [fp32Op, Nat.mod_eq_of_lt ha, Nat.mod_eq_of_lt hb]

/-- The effect of ATOM or RED whose checks pass. -/
theorem atomicJob_act {opc : BitVec 8} {w : WordMA} {red : Bool} {legal : List Check} {v : View} {ex : Mask}
    {ls : List (Nat × List Piece)} (hm : memHeld v w.tl (!red) true = false)
    (hc : checkLanes v { rd := true, w := true, x := false } .plain (if w.tl.u || v.uni then some ex else none)
      ((movers v (w.tl.u || v.uni) ex true).map fun l => (l, addrOf v w.a w.b 0 l, 2 ^ w.sz.toNat)) = .ok ls) :
    (atomicJob opc w red legal).act v ex =
      if red then storeDone v (lanesPorts v.d ls) (atomicLanes v w ls (acquired v w.tl)).2
      else atomicDone v w (w.tl.u || v.uni) ex (lanesPorts v.d ls) (atomicLanes v w ls (acquired v w.tl)).1
        (atomicLanes v w ls (acquired v w.tl)).2 := by
  have hc : checkLanes v { rd := true, w := true, x := false } .plain (onceMask (w.tl.u || v.uni) ex)
      ((movers v (w.tl.u || v.uni) ex true).map fun l => (l, atomicAddr v w l, szBytes w.sz)) = .ok ls := hc
  simp only [atomicJob, accessLanes_eq_movers, hm, hc, Bool.false_eq_true, if_false]

/-- Settles O16: each AOP's value, and the lanes' atomics from passed checks. -/
theorem atomicResults : Obligations.AtomicResults := by
  refine ⟨?aops, ?fp, ?atom, ?atoms⟩
  case aops =>
    intro n old d swap sg _ hd _
    exact ⟨rfl, cast_add_sub_mod old hd, apply_ite_lt_min (intOf n sg) old d, apply_ite_lt_max (intOf n sg) old d, rfl, rfl,
      rfl, rfl, rfl, rfl, rfl⟩
  case fp =>
    intro old d swap n sg ho hd
    exact ⟨fp32Op_eq _ ho hd, fp32Op_eq _ ho hd, fp32Op_eq _ ho hd⟩
  case atom =>
    intro w s v ex ls once as r hc
    refine ⟨fun h hm => ?_, fun h hm => ?_⟩
    · exact goes_of (j := jobAtom w) rfl h (atomicJob_act hm hc)
    · exact goes_of (j := jobRed w) rfl h (atomicJob_act hm hc)
  case atoms =>
    intro w s v ex h once n as hm hc d r
    refine goes_of (j := jobAtoms w) rfl h ?_
    simp only [jobAtoms, accessLanes_eq_movers, spadPlace_eq]
    exact spadAccess_ok hm hc

end Sys2Proof.Machine
end

section
/-! PROOFS. O17: LDB and STB (R88, R90, R91, R227 to R229). -/

namespace Sys2Proof.Machine

/-- An element has at most four channels (Table 4.7). -/
theorem channelWidths_length (fmt : Nat) : (channelWidths fmt).length ≤ 4 := by
  unfold channelWidths
  split <;> decide

/-- A component that its record gives as zero reads as zero (R90). -/
theorem componentLoad_zero {r : BufRec} {raw j : Nat} {sc : List Byte} (hs : r.swz.getD j 4 = 4) :
    componentLoad r raw j true sc = [0] := by
  have hnone : (channelWidths r.fmt)[4]? = none := List.getElem?_eq_none (channelWidths_length r.fmt)
  simp only [componentLoad, hs, hnone]
  rfl

/-- An element of a record that is not interleaved lies at its strides (R90). -/
theorem elemAt_linear {r : BufRec} {x y z : Nat} (hi : r.ilv = 0) (hf : r.fmt ≠ 13) :
    (elemAt r x y z).va = (r.base + z * r.stride2 + y * r.stride1 + x * elemBytes r.fmt) % 2 ^ 48 ∧
    ((elemAt r x y z).inside = true ↔ x < r.ext0 ∧ y ≤ r.ext1 ∧ z ≤ r.ext2) := by
  simp only [elemAt, hi, hf, if_false, vaNat, Bool.and_eq_true, decide_eq_true_eq, and_assoc, true_and]

/-- The elements that stochastic rounding does not admit: those of other widths (R115, R227). -/
theorem not_srAdmits (r : BufRec) :
    (!srAdmits r) = ([2, 3, 8, 9, 10].contains r.fmt || decide (14 ≤ r.fmt) || (decide (r.fmt = 13) && decide (r.enc < 6))) := by
  rw [Bool.eq_iff_iff]
  simp only [srAdmits, List.contains_eq_mem, List.mem_cons, List.not_mem_nil, or_false, Bool.not_eq_true', Bool.or_eq_false_iff,
    Bool.or_eq_true, Bool.and_eq_false_iff, Bool.and_eq_true, decide_eq_true_eq, decide_eq_false_iff_not]
  omega

/-- Settles O17: LDB and STB from their record and their passed checks, and where a record's elements lie. -/
theorem recordAccessResults : Obligations.RecordAccessResults := by
  refine ⟨?ldb, ?stb, fun r raw j sc _ hs => componentLoad_zero hs, fun r x y z hi hf => elemAt_linear hi hf⟩
  case ldb =>
    intro w s v ex r rps ls h once es ins hr hbad hm hc x words
    refine goes_of (j := jobLdb w) rfl h ?_
    simp only [jobLdb, ldbAct, hr, hbad, accessLanes_eq_movers]
    exact congrArg (Eff.readMoved v rps) (globalRead_ok hm hc)
  case stb =>
    intro w s v ex r rps ls sls h once elem ins live srBad hr hbad hm hc hsc scales res fl gens d
    have hbad : firstBad (recordChecks w r ++ [c14 (decide (w.sub.toNat % 8 = 5) && !srAdmits r) 10]) = none := by
      rw [not_srAdmits]
      exact hbad
    have hc : checkLanes v { rd := false, w := true, x := false } (recordReader r) (onceMask (w.tl.u || v.uni) ex)
        ((((movers v (w.tl.u || v.uni) ex false).filter fun l => (laneElem v w r l).inside).filter
          fun l => !v.helpers.getLsbD l).map fun l => (l, (laneElem v w r l).va, elemBytes r.fmt)) = .ok ls := hc
    have hsc : checkLanes v { rd := true, w := false, x := false } (recordReader r) (onceMask (w.tl.u || v.uni) ex)
        (scaleAccess r ((((movers v (w.tl.u || v.uni) ex false).filter fun l => (laneElem v w r l).inside).filter
          fun l => !v.helpers.getLsbD l).map fun l => (l, laneElem v w r l))) = .ok sls := hsc
    refine goes_of (j := jobStb w) rfl h ?_
    simp only [jobStb, stbAct, hr, hbad, hm, hc, hsc, accessLanes_eq_movers, Bool.false_eq_true, if_false]
    rfl

end Sys2Proof.Machine
end

section
/-! PROOFS. O18: FENCE, PREF, CWB and CINV (R128, R129, R234, R262 to R264). -/

namespace Sys2Proof.Machine

/-! ### Lines of L2 -/

/-- A device whose L2 alone has moved is of the same module. -/
theorem L2Moved.modno {d e : Device} (h : L2Moved d e) : e.modno = d.modno := by
  obtain ⟨c, l, rfl⟩ := h
  rfl

/-- A device whose L2 alone has moved has the same routes. -/
theorem L2Moved.routes {d e : Device} (h : L2Moved d e) : e.routes = d.routes := by
  obtain ⟨c, l, rfl⟩ := h
  rfl

/-- The reads of a walk move lines of L2 alone. -/
theorem tableReads_moved (d : Device) (ctx va : Nat) : L2Moved d (tableReads d ctx va) :=
  (foldl_moved d _ (fun d a => l2Access_moved d ctx a 8) _).trans (charge_moved _ _ _ _)

/-- A charge leaves what L2 holds. -/
theorem charge_st (d : Device) (ctx : Nat) (k : Traffic) (n : Nat) : (charge d ctx k n).st = d.st := by
  unfold charge
  split <;> rfl

/-- A line read through L2 stands in it. -/
theorem l2Line_holds (ctx : Nat) (d : Device) (line : Nat) : (tblFind (l2Line ctx d line).st.l2 line).isSome = true := by
  unfold l2Line
  split
  next l hl => rw [charge_st, hl]; rfl
  next => rw [charge_st]; simp [l2Put]

/-- One byte lies in one line. -/
theorem unitsOf_one (a : Nat) : unitsOf 128 a 1 = [a / 128] := by
  simp [unitsOf]

/-- A byte of this module read through L2 leaves its line there. -/
theorem l2Access_holds {d : Device} {ctx a : Nat} (h : isRemote d a = false) :
    (tblFind (l2Access d ctx a 1).st.l2 (a / 128)).isSome = true := by
  simp only [l2Access, h, Bool.false_eq_true, if_false, unitsOf_one, List.foldl_cons, List.foldl_nil]
  exact l2Line_holds ctx d _

/-- A line read through a core's L1 leaves the module's number. -/
theorem l1Line_modno (d : Device) (core ctx line : Nat) (stream const : Bool) :
    (l1Line d core ctx line stream const).modno = d.modno := by
  have hfill (e : Device) (f : Core → Core) (he : e = charge (l2Line ctx d line) ctx .l1Fill 1) :
      (modCore e core f).modno = d.modno :=
    he ▸ ((l2Line_moved d ctx line).trans (charge_moved _ _ _ _)).modno
  unfold l1Line
  dsimp only
  split
  · split
    · exact hfill _ _ rfl
    · exact (charge_moved d _ _ _).modno
  · exact hfill _ _ rfl

/-- Whether an address is of another module depends on the module's number alone. -/
theorem isRemote_congr {d e : Device} (h : e.modno = d.modno) (a : Nat) : isRemote e a = isRemote d a := by
  simp only [isRemote, h]

/-- What a wave reaches depends on the module's number and routes alone. -/
theorem waveReach_congr {d e : Device} (h : L2Moved d e) (a : Nat) : waveReach e a = waveReach d a := by
  simp only [waveReach, isRemote, h.modno, h.routes]

/-- A line of this module that PREF may read stands in L2 after it (R262). -/
theorem prefetch_holds {v : View} {ch : BitVec 2} {d : Device} {va leaf : Nat} {te : TlbEntry} {pte : W64}
    (hw : walkTables d v.w.ctx va = .ok te leaf pte) (hk : te.kind = 0) (hmt : te.mt ≠ 2)
    (hp : permFault te { rd := true, w := false, x := false } v.priv va = none)
    (hreach : waveReach d (te.pa + (va - te.page)) = true) (hhere : isRemote d (te.pa + (va - te.page)) = false) :
    (tblFind (prefetch v ch d va).st.l2 ((te.pa + (va - te.page)) / 128)).isSome = true := by
  unfold prefetch
  simp only [hw, hp, hk]
  generalize hd : (if (tlbLookup d v.core v.w.ctx va).isSome then d else tableReads d v.w.ctx va) = e
  have hmoved : L2Moved d e := by
    subst hd
    split
    · exact .refl d
    · exact tableReads_moved d _ _
  have hpa : Piece.pa { va := va, len := 1, te := te, hall := some v.hall } = te.pa + (va - te.page) := rfl
  simp only [hpa, waveReach_congr hmoved, hreach]
  simp only [Option.isSome_none, Bool.not_true, Bool.or_false, Bool.false_eq_true, if_false, ne_eq, not_true]
  generalize hl1 : (decide (ch = 0) && usesL1 e te.mt (te.pa + (va - te.page)) true) = l1
  generalize hd1 : (if l1 = true then l1Line e v.core v.w.ctx ((te.pa + (va - te.page)) / 128) false false else e) = d1
  have hmodno : d1.modno = d.modno := by
    subst hd1
    split
    · rw [l1Line_modno, hmoved.modno]
    · exact hmoved.modno
  split
  next hfound => exact (Bool.and_eq_true_iff.mp hfound).2
  next =>
    rw [l2AccessMt, if_neg hmt]
    exact l2Access_holds ((isRemote_congr hmodno _).trans hhere)

/-- Lines dropped one after another. -/
theorem foldl_l1Drop (lines : List Nat) : ∀ ls : List L1Line,
    lines.foldl l1Drop ls = ls.filter fun x => !lines.contains x.line := by
  induction lines with
  | nil => exact fun ls => (List.filter_true ls).symm
  | cons a lines ih =>
    intro ls
    rw [List.foldl_cons, ih, l1Drop, List.filter_filter]
    refine List.filter_congr fun x _ => ?_
    rw [Bool.eq_iff_iff]
    simp [and_comm]

/-! ### Words -/

/-- FENCE with no block register pending acquires at once, and holds its wave where it releases (R128, R129, R234). -/
theorem fence_exec (w : WordM) (s : State) (v : View) (ex : Mask) (h : Runs (.fence w) s v ex)
    (hb : ∀ o ∈ v.w.ops, ∀ n, RegLoc.breg n ∉ o.regs) :
    let wide := 2 ≤ w.tl.sco.toNat
    let d := finish v (if wide ∧ w.tl.ord ≠ 2 then l1Acquire v.d v.core else v.d) .onward
    exec (.fence w) s = .next { s with dev :=
      if wide ∧ w.tl.ord ≠ 1 then v.put d fun x => { x with fenced := some (decide (w.tl.sco = 4)) } else d } := by
  refine settled_of (j := jobFence w) rfl h ?_
  have hnone : (v.w.ops.any fun o => o.regs.any fun r => match r with | .breg _ => true | _ => false) = false := by
    rw [List.any_eq_false]
    intro o ho hany
    obtain ⟨r, hr, hr'⟩ := List.any_eq_true.mp hany
    cases r with
    | breg n => exact hb o ho n hr
    | _ => cases hr'
  have hact : (jobFence w).act v ex = (if (v.w.ops.any fun o => o.regs.any fun r => match r with | .breg _ => true | _ => false)
      then .hold v.d else _) := rfl
  rw [hact, hnone]
  simp only [Bool.false_eq_true, if_false, Bool.and_eq_true, decide_eq_true_eq, ne_eq]

/-- Settles O18: each word from its job, with the lines of L2 and L1 that it leaves. -/
theorem fenceAndCacheResults : Obligations.FenceAndCacheResults := by
  refine ⟨fence_exec, ?pref, fun v ch d va leaf te pte hw hk hmt hp hr hh => prefetch_holds hw hk hmt hp hr hh, ?lines, ?all⟩
  case pref =>
    intro w s v ex h
    refine goes_of (j := jobPref w) rfl h ?_
    simp only [jobPref, accessLanes_eq_movers]
  case lines =>
    intro w s v ex ls hc lines
    have hlines : cacheLines v w ex = .ok ls := hc
    refine ⟨fun h => ?_, fun h hch => ?_⟩
    · refine goes_of (j := jobCwb w) rfl h ?_
      simp only [jobCwb, hlines]
      rfl
    · refine goes_of (j := jobCinv w) rfl h ?_
      simp only [jobCinv, hlines, hch, decide_false, Bool.false_eq_true, if_false, foldl_l1Drop]
      rfl
  case all =>
    intro w s v ex h hch
    refine goes_of (j := jobCinv w) rfl h ?_
    simp only [jobCinv, hch, decide_true, if_true]

end Sys2Proof.Machine
end

section
/-! PROOFS. O19: ARINIT, ARRIVE, ARWAIT and the raise of an arrival word (R79, R235 to R238). -/

namespace Sys2Proof.Machine

/-! ### Words of bytes -/

/-- The bytes of a number are as many as asked for. -/
@[simp] theorem leBytes_length (n x : Nat) : (leBytes n x).length = n := by
  induction n generalizing x with
  | zero => rfl
  | succ n ih => simp [leBytes, ih]

/-- The bytes of a number give it back, as far as they hold it. -/
theorem leNat_leBytes (n x : Nat) : leNat (leBytes n x) = x % 256 ^ n := by
  induction n generalizing x with
  | zero => simp [leBytes, leNat, Nat.mod_one]
  | succ n ih =>
    have hb : (BitVec.ofNat 8 x).toNat = x % 256 := by simp
    rw [leBytes, leNat, ih, hb, Nat.pow_succ, Nat.mul_comm (256 ^ n), Nat.mod_mul]

/-- A number of `n` bytes stays below 256^n. -/
theorem leNat_lt (bs : List Byte) : leNat bs < 256 ^ bs.length := by
  induction bs with
  | nil => simp [leNat]
  | cons b bs ih =>
    have hb := b.isLt
    simp only [leNat, List.length_cons, Nat.pow_succ]
    omega

/-- Word `i` of a list of bytes (Table 4.3). -/
def wordAt (bs : List Byte) (i : Nat) : Nat := leNat ((bs.drop (4 * i)).take 4)

/-- A word of four bytes stays below 2^32. -/
theorem wordAt_lt (bs : List Byte) (i : Nat) : wordAt bs i < 2 ^ 32 := by
  refine (leNat_lt _).trans_le ?_
  refine (Nat.pow_le_pow_right (by decide) (List.length_take_le 4 _)).trans (by decide)

/-- The words of four parts of four bytes are the parts. -/
theorem wordAt_parts {a b c e : List Byte} (ha : a.length = 4) (hb : b.length = 4) (hc : c.length = 4) (he : e.length = 4) :
    wordAt (a ++ b ++ c ++ e) 0 = leNat a ∧ wordAt (a ++ b ++ c ++ e) 1 = leNat b ∧
    wordAt (a ++ b ++ c ++ e) 2 = leNat c ∧ wordAt (a ++ b ++ c ++ e) 3 = leNat e := by
  have ha8 : a.drop 8 = [] := List.drop_eq_nil_of_le (by omega)
  have ha12 : a.drop 12 = [] := List.drop_eq_nil_of_le (by omega)
  have hb8 : b.drop 8 = [] := List.drop_eq_nil_of_le (by omega)
  simp [wordAt, List.drop_append, ha, hb, hc, he, ha8, ha12, hb8, List.take_of_length_le]

/-- A raise counts, each full count advances the generation, and flags and status are collected (R79). -/
theorem raiseBytes_words {bs : List Byte} (n : Nat) (f : BitVec 7) (e : BitVec 8) (hbs : bs.length = 16) :
    let target := if wordAt bs 0 % 2 ^ 31 = 0 then 2 ^ 31 else wordAt bs 0 % 2 ^ 31
    let c := wordAt bs 1 + if 2 ^ 31 ≤ wordAt bs 0 then 1 else n
    let r := raiseBytes bs n f e
    wordAt r 0 = wordAt bs 0 ∧ wordAt r 1 = c % target ∧ wordAt r 2 = (wordAt bs 2 + c / target) % 2 ^ 32 ∧
      wordAt r 3 = wordAt bs 3 ||| f.toNat ||| (e.toNat * 256) := by
  intro target c r
  have h0 := wordAt_lt bs 0
  have h3 := wordAt_lt bs 3
  have hadd : (if wordAt bs 0 / 2 ^ 31 % 2 = 1 then 1 else n) = if 2 ^ 31 ≤ wordAt bs 0 then 1 else n :=
    if_congr (by omega) rfl rfl
  have htarget : target ≤ 2 ^ 31 ∧ 0 < target := by
    simp only [target]
    split <;> omega
  have hf : f.toNat < 2 ^ 32 := f.isLt.trans_le (by decide)
  have he : e.toNat * 256 < 2 ^ 32 := by have := e.isLt; omega
  have hr : r = bs.take 4 ++ leBytes 4 (c % target) ++ leBytes 4 (wordAt bs 2 + c / target) ++
      leBytes 4 (BitVec.ofNat 32 (wordAt bs 3) ||| BitVec.ofNat 32 f.toNat ||| BitVec.ofNat 32 (e.toNat * 256)).toNat := by
    simp only [c, ← hadd]
    rfl
  obtain ⟨r0, r1, r2, r3⟩ := wordAt_parts (a := bs.take 4) (by simp [hbs]) (leBytes_length 4 (c % target))
    (leBytes_length 4 (wordAt bs 2 + c / target)) (leBytes_length 4 (BitVec.ofNat 32 (wordAt bs 3) |||
      BitVec.ofNat 32 f.toNat ||| BitVec.ofNat 32 (e.toNat * 256)).toNat)
  rw [hr, r0, r1, r2, r3, leNat_leBytes, leNat_leBytes, leNat_leBytes]
  refine ⟨by simp [wordAt], ?_, rfl, ?_⟩
  · have := Nat.mod_lt c htarget.2
    exact Nat.mod_eq_of_lt (by omega)
  · have hlt := (BitVec.ofNat 32 (wordAt bs 3) ||| BitVec.ofNat 32 f.toNat ||| BitVec.ofNat 32 (e.toNat * 256)).isLt
    rw [Nat.mod_eq_of_lt (by omega)]
    simp only [BitVec.toNat_or, BitVec.toNat_ofNat, Nat.mod_eq_of_lt h3, Nat.mod_eq_of_lt hf, Nat.mod_eq_of_lt he]

/-- The low half of a 64-bit word. -/
theorem field_low (x : W64) : field x 0 32 = x.toNat % 2 ^ 32 := by simp [field]

/-- The high half of a 64-bit word. -/
theorem field_high (x : W64) : field x 32 32 = x.toNat / 2 ^ 32 := by
  have := x.isLt
  simp only [field, BitVec.extractLsb'_toNat, Nat.shiftRight_eq_div_pow]
  omega

/-- Settles O19: each arrival word from the place that its operand names, and the words of a raised arrival word. -/
theorem arrivalResults : Obligations.ArrivalResults := by
  refine ⟨?arinit, ?arrive, ?arwait, fun bs n f e hbs => raiseBytes_words n f e hbs⟩
  case arinit =>
    intro w s v ex loc h hroom hloc y
    refine goes_of (j := jobArinit w) rfl h ?_
    simp only [jobArinit, eJob, if_neg (Nat.not_le.mpr hroom), hloc, arInitBytes, field_low, field_high]
    rfl
  case arrive =>
    intro w s v ex loc h hloc hown hdom
    refine goes_of (j := jobArrive w) rfl h ?_
    simp only [jobArrive, eJob, hown, hdom, hloc, field_low, ne_eq, not_true, if_false]
  case arwait =>
    intro w s v ex loc h op dst hloc
    have hloc : arFind v ex (src64 v w.x) true false = .at loc := hloc
    refine ⟨fun hgen => goes_of (j := jobArwait w) rfl h ?_, fun hgen hplace => goes_of (j := jobArwait w) rfl h ?_⟩
    · simp only [jobArwait, eJob, hloc]
      exact if_pos hgen
    · have hplace : ¬ (v.w.pos.clpos = 0 ∧ 0 < field v.hdr 56 4) := by
        rintro ⟨hpos, hlen⟩
        rcases hplace with h | h
        · exact h hpos
        · omega
      simp only [jobArwait, eJob, hloc]
      exact (if_neg (not_not.mpr hgen)).trans (if_neg hplace)

end Sys2Proof.Machine
end

section
/-! PROOFS. O20: QGATH, QSCAT, QFLUSH and QSTAT (R97, R239 to R242). -/

namespace Sys2Proof.Machine

/-- A queue that is free or the wave's own is not taken (R239). -/
theorem queueTaken_eq_false {v : View} {j : Nat}
    (h : (apqOf v.d v.core j).slot = none ∨ (apqOf v.d v.core j).slot = some v.slot) : queueTaken v j = false := by
  rcases h with h | h <;> simp [queueTaken, h]

/-- Settles O20: each queue word's binding, unbinding or status. -/
theorem queueResults : Obligations.QueueResults := by
  refine ⟨?bind, ?qflush, ?qstat⟩
  case bind =>
    intro w s v ex j old q offs hfree
    have hfree : queueTaken v (qNum w) = false := queueTaken_eq_false hfree
    refine ⟨fun h => goes_of (j := jobQgath w) rfl h ?_, fun h => goes_of (j := jobQscat w) rfl h ?_⟩
    · simp only [jobQgath, eJob, hfree, Bool.false_eq_true, if_false]
      rfl
    · simp only [jobQscat, eJob, hfree, Bool.false_eq_true, if_false]
      rfl
  case qflush =>
    intro w s v ex h j d
    refine goes_of (j := jobQflush w) rfl h ?_
    have hstart (x : Wave) : (if (w.te && decide (storesOut x ≠ 0)) = true then
          eStart w (pushOp .flush none [] (some w.tok.toNat) 0 [] x) else x) =
        if w.te = true ∧ storesOut x ≠ 0 then tokStart w.tok (pushOp .flush none [] (some w.tok.toNat) 0 [] x) else x := by
      by_cases hte : w.te = true <;> by_cases hout : storesOut x = 0 <;> simp [hte, hout, eStart]
    simp only [jobQflush, eJob, hstart]
    rfl
  case qstat =>
    intro w s v ex h q rem bit x
    exact goes_of (j := jobQstat w) rfl h rfl

end Sys2Proof.Machine
end

section
/-! PROOFS. O21: the alcove words (R83, R84, R254 to R260). -/

namespace Sys2Proof.Machine

/-- Settles O21: each alcove word in the case that its clause names. -/
theorem alcoveResults : Obligations.AlcoveResults := by
  refine ⟨?make, ?att, ?seals, ?rel, ?evict, ?qry⟩
  case make =>
    intro w s v ex i h hatt t gs hfind hfree hroom howns d
    have howns : (gs.any fun g => !ownsGranule v.blk g) = false := by
      simpa [List.any_eq_false] using howns
    have hfits : ¬ (v.blk.ngran ≤ t.2.2.2 + t.2.2.1 ∨ (gs.any fun g => !ownsGranule v.blk g) = true) := by
      rw [howns]
      rintro (h | h)
      · omega
      · exact Bool.false_ne_true h
    refine goes_of (j := jobAlcmake w) rfl h ?_
    simp only [jobAlcmake, eJob, alcMake, hatt, hfind, hfree, Bool.false_eq_true, if_false]
    exact if_neg hfits
  case att =>
    intro w s v ex d x h hatt
    refine ⟨fun htry => goes_of (j := jobAlcatt w) rfl h ?_, fun htry => goes_of (j := jobAlcatt w) rfl h ?_⟩
    · simp only [jobAlcatt, eJob, hatt, htry, Bool.false_eq_true, if_false]
    · simp only [jobAlcatt, eJob, hatt, htry, Bool.false_eq_true, if_false]
  case seals =>
    intro w s v ex i h hatt hfind hheld hbusy
    refine goes_of (j := jobAlcseal w) rfl h ?_
    simp only [jobAlcseal, eJob, hatt, hfind, hheld, hbusy, Bool.not_true, Bool.false_eq_true, if_false]
  case rel =>
    intro w s v ex h hatt
    split
    next hfind =>
      refine goes_of (j := jobAlcrel w) rfl h ?_
      simp only [jobAlcrel, eJob, hatt, hfind, Bool.false_eq_true, if_false]
    next i hfind =>
      intro hbusy d1 d2 a
      refine goes_of (j := jobAlcrel w) rfl h ?_
      simp only [jobAlcrel, eJob, hatt, hfind, hbusy, Bool.false_eq_true, if_false]
      rfl
  case evict =>
    intro w s v ex h hatt
    split
    next hfind =>
      refine goes_of (j := jobAlcevict w) rfl h ?_
      simp only [jobAlcevict, eJob, hatt, hfind, Bool.false_eq_true, if_false]
    next i hfind =>
      intro hbusy
      refine ⟨fun hout => goes_of (j := jobAlcevict w) rfl h ?_, fun hin hnone => goes_of (j := jobAlcevict w) rfl h ?_⟩
      · simp only [jobAlcevict, eJob, hatt, hfind, hbusy, hout, Bool.false_eq_true, if_false, if_true]
      · have hstart (x : Wave) : (if w.te = true then
              eStart w (pushOp .evict none [] (some w.tok.toNat) 0 [src64 v w.x] x) else x) =
            if w.te = true then tokStart w.tok (pushOp .evict none [] (some w.tok.toNat) 0 [src64 v w.x] x) else x := by
          by_cases hte : w.te = true <;> simp [hte, eStart]
        simp only [jobAlcevict, eJob, hatt, hfind, hbusy, hin, hnone, hstart, ne_eq, not_true, Bool.false_eq_true, if_false]
  case qry =>
    intro w s v ex h hatt x
    refine goes_of (j := jobAlcqry w) rfl h ?_
    simp only [jobAlcqry, eJob, hatt, Bool.false_eq_true, if_false]
    rfl

end Sys2Proof.Machine
end

section
/-! PROOFS. O22: the copy words (R132, R243 to R246, R248 to R252). -/

namespace Sys2Proof.Machine

/-- A copy word of no bad shape, with room, whose spans are sound, reachable and locked by no other queue joins its queue. -/
theorem issueCopy_done {v : View} {opc : BitVec 8} {w : WordE} {ex : Mask} {clear : List Byte} {spans : List Span}
    (hspans : ∀ x ∈ spans, spanBad x.at' x.last = false) (hroom : (cqOf (hallOf v.d v.hall) (cpQueue w)).length < 16)
    (hlocks : lockRoom (hallOf v.d v.hall) spans.length = true) (hrange : firstFault (spanRange v) spans = none)
    (hbreach : firstFault (spanBreach v fun l => decide (l.queue = some (cpQueue w))) spans = none) :
    issueCopy v opc w ex 0 clear spans =
      .done (v.put (queueCopy v v.d (newCopy v opc w clear) spans) fun x => if w.te then tokStart w.tok x else x) .onward := by
  have hany : (spans.any fun s => spanBad s.at' s.last) = false := by simpa [List.any_eq_false] using hspans
  simp only [issueCopy, hany, Nat.not_le.mpr hroom, hlocks, hrange, hbreach, orFault, ne_eq, not_true, Bool.not_true,
    Bool.false_eq_true, or_self, if_false]
  rfl

/-- A word whose effect is a copy of no bad shape is a copy word. -/
theorem copyWord_of {mk : WordE → Instr} {opc : BitVec 8} {bad : View → WordE → Bool} {job : WordE → Job}
    (hj : ∀ w, wordJob (mk w) = some (job w))
    (ha : ∀ w v ex, bad v w = false → (job w).act v ex = issueCopy v opc w ex 0 [] (copySpans v opc w)) :
    CopyWord mk opc bad := by
  intro w s v ex h hbad spans q hspans hroom hlocks hrange hbreach o d
  exact goes_of (hj w) h ((ha w v ex hbad).trans (issueCopy_done hspans hroom hlocks hrange hbreach))

/-- Settles O22: CPY, CPYR and CPYF by their shapes, CPYX with its record, and SIGNAL. -/
theorem copyResults : Obligations.CopyResults := by
  refine ⟨copyWord_of (job := jobCpy) (fun _ => rfl) ?cpy, copyWord_of (job := jobCpyr) (fun _ => rfl) ?cpyr,
    copyWord_of (job := jobCpyf) (fun _ => rfl) ?cpyf, ?cpyx, ?signal⟩
  case cpy =>
    intro w v ex hbad
    simp only [Bool.or_eq_false_iff, Bool.and_eq_false_iff, decide_eq_false_iff_not] at hbad
    obtain ⟨hlen, hsize⟩ := hbad
    have hsize : ¬ (0 < cpVar w ∧ shLen (cpSh0 v w) % cpVar w ≠ 0) := by tauto
    simp only [jobCpy, eJob, if_neg hlen, if_neg hsize]
  case cpyr =>
    intro w v ex hbad
    simp only [Bool.or_eq_false_iff] at hbad
    obtain ⟨⟨hlen, hsrc⟩, hdst⟩ := hbad
    simp only [jobCpyr, eJob, hsrc, hdst, if_neg (of_decide_eq_false hlen), Bool.or_self, Bool.false_eq_true, if_false]
  case cpyf =>
    intro w v ex hbad
    simp only [jobCpyf, eJob, if_neg (of_decide_eq_false hbad)]
  case cpyx =>
    intro w s v ex r rps h l va q spans hlen hva hl hrows hr hspans hroom hlocks hrange hbreach
    have hblocks : ¬ ((eaOf v w.x).base % 256 ≠ 0 ∨ shLen (cpSh0 v w) % 256 ≠ 0 ∨ shRows (cpSh0 v w) ≠ 1) := by
      rintro (h | h | h)
      · exact h hva
      · exact h hl
      · exact h hrows
    have hlen : ¬ shLen (cpSh0 v w) = 0 := hlen
    refine goes_of (j := jobCpyx w) rfl h ?_
    simp only [jobCpyx, eJob, if_neg hlen, if_neg hblocks, hr, ne_eq, not_true, if_false]
    exact congrArg (Eff.readMoved v rps) (issueCopy_done hspans hroom hlocks hrange hbreach)
  case signal =>
    intro w s v ex h q spans hal hspans hroom hlocks hrange hbreach
    refine goes_of (j := jobSignal w) rfl h ?_
    simp only [jobSignal, eJob, hal, ne_eq, not_true, if_false]
    exact issueCopy_done hspans hroom hlocks hrange hbreach

end Sys2Proof.Machine
end

section
/-! PROOFS. O23: LAUNCH (R47, R261). -/

namespace Sys2Proof.Machine

/-- Settles O23: the children of the mover lanes, none of them bad, are appended in lane order. -/
theorem launchResults : Obligations.LaunchResults := by
  intro w s v ex h hstores cs hgood
  have hgood : badChildren v.d [] ((movers v (w.u || v.uni) ex true).map fun l =>
      ({ lane := l, queue := (src v [] w.z l).toNat % 256
         va := vaNat ((src64 v w.x).toNat + (src v [] w.y l).toNat) } : Child)) = [] := hgood
  refine goes_of (j := jobLaunch w) rfl h ?_
  simp only [jobLaunch, accessLanes_eq_movers, hstores, hgood, ne_eq, not_true, if_false]
  rfl

end Sys2Proof.Machine
end

section
/-! PROOFS. O53: what a word comes to short of its effect (R41, R208, R385, R386, R395). -/

namespace Sys2Proof.Machine

/-! ### The first check that fails -/

/-- The least item of a list is one of it. -/
theorem leastBy_mem {β : Type} {lt : β → β → Bool} : ∀ {xs : List β} {a : β}, leastBy lt xs = some a → a ∈ xs
  | [], a, h => by cases h
  | x :: t, a, h => by
    simp only [leastBy] at h
    split at h
    · cases h
      exact List.mem_cons_self
    next y hy =>
      split at h
      · cases h
        exact List.mem_cons_of_mem _ (leastBy_mem hy)
      · cases h
        exact List.mem_cons_self

/-- An item that precedes every other is the least. -/
theorem leastBy_eq_some {β : Type} {lt : β → β → Bool} {a : β} : ∀ {xs : List β}, a ∈ xs →
    (∀ x ∈ xs, x = a ∨ (lt a x = true ∧ lt x a = false)) → leastBy lt xs = some a
  | [], h, _ => absurd h List.not_mem_nil
  | x :: t, h, hall => by
    have ht : a ∈ t → leastBy lt t = some a := fun hm =>
      leastBy_eq_some hm fun y hy => hall y (List.mem_cons_of_mem _ hy)
    simp only [leastBy]
    rcases hall x List.mem_cons_self with rfl | ⟨hlt, hge⟩
    · split
      · rfl
      next y hy =>
        rcases hall y (List.mem_cons_of_mem _ (leastBy_mem hy)) with rfl | ⟨_, hge⟩
        · split <;> rfl
        · rw [hge]
          rfl
    · have hm : a ∈ t := by
        rcases List.mem_cons.mp h with rfl | hm
        · rw [hlt] at hge
          cases hge
        · exact hm
      simp only [ht hm, hlt, if_true]

/-- A check that the use of a privileged word without privilege precedes, or that check itself (R395). -/
def AfterPrivilege (c : Check) : Prop := c = c16 true ∨ 2 < causeRank c.cause

/-- An operand's check comes after that of privilege. -/
theorem c13_afterPrivilege (bad : Bool) (pos : Nat) : AfterPrivilege (c13 bad pos) :=
  .inr (show 2 < causeRank 0x13 by decide)

/-- A field's check comes after that of privilege. -/
theorem c14_afterPrivilege (bad : Bool) (pos : Nat) : AfterPrivilege (c14 bad pos) :=
  .inr (show 2 < causeRank 0x14 by decide)

/-- The check of a uniform use comes after that of privilege. -/
theorem c18_afterPrivilege (bad : Bool) : AfterPrivilege (c18 bad) := .inr (show 2 < causeRank 0x18 by decide)

/-- The use of a privileged word without privilege comes before the checks that every word shares. -/
theorem sharedChecks_afterPrivilege (j : Job) (v : View) : ∀ c ∈ sharedChecks j v, AfterPrivilege c := by
  intro c hc
  rcases List.mem_cons.mp hc with rfl | hc
  · exact c18_afterPrivilege _
  · obtain ⟨e, _, rfl⟩ := List.mem_map.mp hc
    exact c13_afterPrivilege _ _

/-- A privileged word without privilege breaks that rule first (R395). -/
theorem firstBad_privilege {cs : List Check} (h : c16 true ∈ cs) (hall : ∀ c ∈ cs, AfterPrivilege c) :
    firstBad cs = some (c16 true) := by
  refine leastBy_eq_some (List.mem_filter.mpr ⟨h, rfl⟩) fun c hc => ?_
  rcases hall c (List.mem_filter.mp hc).1 with rfl | hrank
  · exact .inl rfl
  · have h16 : causeRank (c16 true).cause = 2 := rfl
    exact .inr ⟨decide_eq_true (by omega), decide_eq_false (by omega)⟩

/-- A word takes cause 0x16 where its first rule is that of privilege. -/
theorem privilege_trap {i : Instr} {j : Job} {s : State} {v : View} {t : List Check} (hj : wordJob i = some j)
    (hv : view s.dev = some v) (ha : v.w.arw = none) (hf : jobHeld j v = false) (hs : j.exec v ≠ 0)
    (hlegal : j.legal v = c16 true :: t) (ht : ∀ c ∈ t, AfterPrivilege c) :
    exec i s = .next { s with dev := trapHere v j.code (wordTrap v 0x16 (j.exec v) 0) } := by
  have hbad : firstBad (sharedChecks j v ++ j.legal v) = some (c16 true) := by
    rw [hlegal]
    refine firstBad_privilege (List.mem_append_right _ List.mem_cons_self) fun c hc => ?_
    rcases List.mem_append.mp hc with hc | hc
    · exact sharedChecks_afterPrivilege j v c hc
    · rcases List.mem_cons.mp hc with rfl | hc
      · exact .inl rfl
      · exact ht c hc
  rw [exec_word hj, runJob_illegal hv ha hf rfl hs hbad]
  rfl

/-- The checks of TLBINV's and the context words' fields come after that of privilege. -/
theorem eFields_afterPrivilege (w : WordE) (b : Bool) : ∀ c ∈ [sregCheck w.x 47, sregCheck w.y 39, unusedField w.z 31,
    unusedField w.w 23, eSco w, eMod w, c14 (!w.te) 11, c14 b 10], AfterPrivilege c := by
  simp only [List.forall_mem_cons, List.not_mem_nil, false_imp_iff, implies_true, and_true]
  exact ⟨c13_afterPrivilege _ _, c13_afterPrivilege _ _, c14_afterPrivilege _ _, c14_afterPrivilege _ _,
    c14_afterPrivilege _ _, c14_afterPrivilege _ _, c14_afterPrivilege _ _, c14_afterPrivilege _ _⟩

/-- The checks of HALT's fields come after that of privilege. -/
theorem kFields_afterPrivilege (w : WordK) : ∀ c ∈ kChecks w false false false ++ [kPlain w], AfterPrivilege c := by
  simp only [kChecks, Bool.false_eq_true, if_false, List.cons_append, List.nil_append, List.forall_mem_cons,
    List.not_mem_nil, false_imp_iff, implies_true, and_true]
  exact ⟨c14_afterPrivilege _ _, c14_afterPrivilege _ _, c14_afterPrivilege _ _, c14_afterPrivilege _ _⟩

/-- Settles O53: a word that is held, one without lanes, one that breaks a rule, and a privileged one without privilege. -/
theorem wordCourse : Obligations.WordCourse := by
  intro i j s v hj hv ha
  refine ⟨fun hheld => ?_, fun hf he => ?_, fun c hf hs hc => ?_, fun hword hp hf hs => ?_⟩
  · rw [exec_word hj, runJob_held hv ha hheld]
  · rw [exec_word hj, runJob_empty hv ha hf he]
  · rw [exec_word hj, runJob_illegal hv ha hf rfl hs hc]
    rfl
  · have h16 : c16 (!v.priv) = c16 true := by rw [hp]; rfl
    split at hword
    next w =>
      cases hj
      refine privilege_trap (i := .halt w) rfl hv ha hf hs ?_ (kFields_afterPrivilege w)
      exact congrArg (· :: _) h16
    next w =>
      cases hj
      exact privilege_trap (i := .tlbinv w) rfl hv ha hf hs (congrArg (· :: _) h16) (eFields_afterPrivilege w _)
    next w =>
      cases hj
      exact privilege_trap (i := .csload w) rfl hv ha hf hs (congrArg (· :: _) h16) (eFields_afterPrivilege w _)
    next w =>
      cases hj
      exact privilege_trap (i := .ctxsave w) rfl hv ha hf hs (congrArg (· :: _) h16) (eFields_afterPrivilege w _)
    next w =>
      cases hj
      exact privilege_trap (i := .ctxrest w) rfl hv ha hf hs (congrArg (· :: _) h16) (eFields_afterPrivilege w _)
    next => cases hword

end Sys2Proof.Machine
end

section
/-! PROOFS. O52: what a step runs (R41, R42, R44, R56, R141). -/

namespace Sys2Proof.Machine

/-- The first wave of a core's order, in no pair, issues where its step changes it or does not answer. -/
theorem tryWaves_issues {ex : Instr → State → Out State} {core k : Nat} {t : List Nat} {s : State} {r : Out State}
    (hpair : pairOf s.dev core k = none) (hrun : runNext ex (selectWave s core k) = r)
    (hready : ∀ s', r = .next s' → waveOf s'.dev core k ≠ waveOf (selectWave s core k).dev core k) :
    tryWaves ex core (k :: t) s = turnEnds s core k r := by
  simp only [tryWaves, hpair, tryWave, hrun]
  cases r with
  | next s' =>
    have hissued : notReady core k (selectWave s core k) s' = false := decide_eq_false (hready s' rfl)
    simp only [hissued, Bool.false_eq_true, if_false, if_true, turnEnds]
  | fault f => rfl
  | refused f => rfl

/-- A wave that stands at a word of its clause comes to the instruction that the word decodes to (R56, R141). -/
theorem nextUp_instr {v : View} {h w : W64} {i : Instr} (hh : v.w.pos.hdr = some h)
    (hy : ¬ (v.w.pos.clpos = 0 ∧ v.w.pos.yieldDue = true ∧ v.w.trap.trlvl = 0))
    (hf : fetchCode v (v.wordVa v.w.pos.clpos.toNat) = .ok w) (hd : decodeWord (h.extractLsb' 60 4) w = .ok i) :
    nextUp v = .instr i := by
  simp only [nextUp, hh, if_neg hy, hf, hd]

/-- A wave that no header is in force for comes to its clause header. -/
theorem nextUp_header {v : View} {w : W64} (hh : v.w.pos.hdr = none) (hf : fetchCode v v.p.pc = .ok w) :
    nextUp v = .header w := by
  simp only [nextUp, hh, hf]

/-- Settles O52: a core's turn, an agent's step, and a move of time. -/
theorem stepRunsDecodedWord : Obligations.StepRunsDecodedWord := by
  refine ⟨?turn, fun s i t hm ha => ?_, fun s h n t hm => ?_⟩
  case turn =>
    intro s c slot t rest v hm hclock s1 s2 horder hpair hview
    have hstep {r : Out State} (hrun : runNext exec s2 = r)
        (hready : ∀ s', r = .next s' → waveOf s'.dev c slot ≠ waveOf s2.dev c slot) :
        step s = turnEnds s1 c slot r := by
      have hissue : tryWaves exec c (issueOrder s1.dev c) s1 = turnEnds s1 c slot r := by
        rw [horder]
        exact tryWaves_issues hpair hrun hready
      simp only [step, hm, moveStep, coreTurn, hclock, if_true]
      exact hissue
    refine ⟨fun h w i hh hy hf hd hready => hstep ?_ hready, fun w hh hf hready => hstep ?_ hready⟩
    · simp only [runNext, hview, nextUp_instr hh hy hf hd]
    · simp only [runNext, hview, nextUp_header hh hf]
  · simp only [step, hm, moveStep, ha, if_true]
  · simp only [step, hm, moveStep]

end Sys2Proof.Machine
end

section
/-! PROOFS. What a read of memory leaves as it was (R72, R95, R96, R98, R123): it moves lines of L2 and of a core's L1,
units of a hall's sidecar store, and counts its traffic. -/

namespace Sys2Proof.Machine

variable {d e f : Device}

/-- A device whose caches, sidecar stores and traffic counts alone have moved. -/
structure Touched (d e : Device) : Prop where
  rest : ∃ (cs : Tbl Ctx) (ks : Tbl Core) (hs : Tbl Hall) (l : Tbl L2Line),
    e = { d with ctxs := cs, cores := ks, halls := hs, st := { d.st with l2 := l } }
  waves : ∀ c slot, waveOf e c slot = waveOf d c slot
  hall : ∀ h, ∃ x, hallOf e h = { hallOf d h with sides := x }

theorem Touched.refl (d : Device) : Touched d d :=
  ⟨⟨d.ctxs, d.cores, d.halls, d.st.l2, rfl⟩, fun _ _ => rfl, fun h => ⟨(hallOf d h).sides, rfl⟩⟩

theorem Touched.trans (h : Touched d e) (k : Touched e f) : Touched d f := by
  refine ⟨?_, fun c slot => (k.waves c slot).trans (h.waves c slot), fun i => ?_⟩
  · obtain ⟨cs, ks, hs, l, rfl⟩ := h.rest
    obtain ⟨cs2, ks2, hs2, l2, rfl⟩ := k.rest
    exact ⟨cs2, ks2, hs2, l2, rfl⟩
  · obtain ⟨x, hx⟩ := h.hall i
    obtain ⟨y, hy⟩ := k.hall i
    exact ⟨y, by rw [hy, hx]⟩

/-- Lines of L2 moved. -/
theorem L2Moved.touched (h : L2Moved d e) : Touched d e := by
  obtain ⟨c, l, rfl⟩ := h
  exact ⟨⟨c, d.cores, d.halls, l, rfl⟩, fun _ _ => rfl, fun h => ⟨(hallOf d h).sides, rfl⟩⟩

/-- A core changed, but not its waves. -/
theorem modCore_touched (d : Device) (core : Nat) {g : Core → Core} (hg : ∀ k, (g k).waves = k.waves) :
    Touched d (modCore d core g) := by
  refine ⟨⟨d.ctxs, _, d.halls, d.st.l2, rfl⟩, fun c slot => ?_, fun h => ⟨(hallOf d h).sides, rfl⟩⟩
  by_cases hc : c = core
  · subst hc
    simp only [waveOf, coreOf_modCore_same, hg]
  · simp only [waveOf, coreOf_modCore_ne d g hc]

/-- A unit used in a hall's sidecar store. -/
theorem sidePut_touched (d : Device) (hall : Nat) (u : SideUnit) : Touched d (modHall d hall (sidePut u)) := by
  refine ⟨⟨d.ctxs, d.cores, _, d.st.l2, rfl⟩, fun _ _ => rfl, fun h => ?_⟩
  by_cases hh : h = hall
  · subst hh
    exact ⟨_, hallOf_modHall_same d h _⟩
  · exact ⟨(hallOf d h).sides, hallOf_modHall_ne d _ hh⟩

/-- Steps that touch, one after another. -/
theorem foldl_touched {α : Type} {g : Device → α → Device} (hg : ∀ d x, Touched d (g d x)) :
    ∀ (xs : List α) (d : Device), Touched d (xs.foldl g d)
  | [], d => .refl d
  | x :: xs, d => (hg d x).trans (foldl_touched hg xs (g d x))

theorem l2AccessMt_touched (d : Device) (mt : BitVec 2) (ctx a n : Nat) : Touched d (l2AccessMt d mt ctx a n) := by
  unfold l2AccessMt
  split
  · exact .refl d
  · exact (l2Access_moved d ctx a n).touched

theorem sideFetch_touched (d : Device) (ctx va pa : Nat) : Touched d (sideFetch d ctx va pa) :=
  (((tableReads_moved d ctx _).trans (charge_moved _ _ _ _)).trans (l2Access_moved _ ctx pa 1)).touched

theorem sideUse_touched (d : Device) (hall : Option Nat) (ctx va : Nat) : Touched d (sideUse d hall ctx va) := by
  unfold sideUse
  dsimp only
  split
  next pa _ =>
    split
    · split
      · exact (sideFetch_touched d ctx va pa).trans (sidePut_touched _ _ _)
      · exact sidePut_touched d _ _
    · split
      · exact (sideFetch_touched d ctx va pa).trans (sidePut_touched _ _ _)
      · exact sideFetch_touched d ctx va pa
  next =>
    split
    · exact sidePut_touched d _ _
    · exact .refl d
  next pa _ => exact sideFetch_touched d ctx va pa
  next => exact .refl d

theorem blockTouch_touched (ctx : Nat) (p : Piece) (d : Device) (va : Nat) : Touched d (blockTouch ctx p d va) := by
  unfold blockTouch
  split
  · exact .refl d
  · exact (sideUse_touched d _ ctx va).trans (l2AccessMt_touched _ _ _ _ _)

theorem pieceTouch_touched (d : Device) (ctx : Nat) (p : Piece) : Touched d (pieceTouch d ctx p) := by
  unfold pieceTouch
  split
  · exact l2AccessMt_touched d _ _ _ _
  · exact foldl_touched (fun d va => blockTouch_touched ctx p d va) _ d

theorem l1Line_touched (d : Device) (core ctx line : Nat) (stream const : Bool) :
    Touched d (l1Line d core ctx line stream const) := by
  have hfill (g : Core → Core) (hg : ∀ k, (g k).waves = k.waves) :
      Touched d (modCore (charge (l2Line ctx d line) ctx .l1Fill 1) core g) :=
    ((l2Line_moved d ctx line).trans (charge_moved _ _ _ _)).touched.trans (modCore_touched _ core hg)
  unfold l1Line
  dsimp only
  split
  · split
    · exact hfill _ fun _ => rfl
    · exact (charge_moved d _ _ _).touched.trans (modCore_touched _ core fun _ => rfl)
  · exact hfill _ fun _ => rfl

theorem lineTouch_touched (core ctx : Nat) (mt : BitVec 2) (use stream const : Bool) (d : Device) (a : Nat) :
    Touched d (lineTouch core ctx mt use stream const d a) := by
  unfold lineTouch
  split
  · exact l1Line_touched d _ _ _ _ _
  · exact (l2AccessMt_touched d _ _ _ _).trans (modCore_touched _ core fun _ => rfl)

theorem loadTouch_touched (core ctx : Nat) (ch : BitVec 2) (const : Bool) (ps : List Piece) (d : Device) :
    Touched d (loadTouch core ctx ch const ps d) := by
  refine foldl_touched (fun d p => ?_) _ d
  unfold unitTouch
  split
  · exact lineTouch_touched _ _ _ _ _ _ d _
  · exact blockTouch_touched ctx p d _

/-- Loads of lanes read and touch alone. -/
theorem loadLanes_touched (v : View) (r : Reader) (ch : BitVec 2) (const : Bool) (ls : List (Nat × List Piece)) (d : Device) :
    Touched d (loadLanes v r ch const ls d).2 := loadTouch_touched _ _ _ _ _ d

/-- An acquire drops lines of a core's L1 alone (R123). -/
theorem l1Acquire_touched (d : Device) (core : Nat) : Touched d (l1Acquire d core) := modCore_touched d core fun _ => rfl

/-! ### What the checks of ranges ask of the device -/

/-- A device that is only touched meets the same range locks. -/
theorem Touched.lockHit (h : Touched d e) (hall : Nat) (exempt : RangeLock → Bool) (space ctx lo hi : Nat) (store : Bool) :
    lockHit e hall exempt space ctx lo hi store = lockHit d hall exempt space ctx lo hi store := by
  obtain ⟨x, hx⟩ := h.hall hall
  simp only [Machine.lockHit, hx]

/-- A device that is only touched is of the same module. -/
theorem Touched.modno (h : Touched d e) : e.modno = d.modno := by
  obtain ⟨cs, ks, hs, l, rfl⟩ := h.rest
  rfl

/-- A device that is only touched has the same blocks. -/
theorem Touched.blocks (h : Touched d e) : e.blocks = d.blocks := by
  obtain ⟨cs, ks, hs, l, rfl⟩ := h.rest
  rfl

/-- A device that is only touched has the same alcoves. -/
theorem Touched.alcoves (h : Touched d e) : e.alcoves = d.alcoves := by
  obtain ⟨cs, ks, hs, l, rfl⟩ := h.rest
  rfl

/-- A device that is only touched locks the same range for an address. -/
theorem Touched.lock (h : Touched d e) (a : EAddr) : a.lock e = a.lock d := by
  cases a with
  | virt va => rfl
  | spad c o => rfl
  | phys pa => simp only [EAddr.lock, isRemote_congr h.modno]

/-- A block reaches the same scratchpad in a device that is only touched. -/
theorem Touched.spadReach (h : Touched d e) (b : Block) (remote : Bool) (c off n : Nat) :
    spadReach e b remote c off n = spadReach d b remote c off n := by
  simp only [Machine.spadReach, localGranule, remoteGranule, h.blocks, h.alcoves]

/-- A view's ranges are checked alike in a device that is only touched. -/
theorem Touched.spanRange {v : View} (h : Touched v.d e) : spanRange { v with d := e } = spanRange v := by
  funext s
  unfold Machine.spanRange
  simp only [h.spadReach]

/-- A view's spans meet the same locks in a device that is only touched. -/
theorem Touched.spanBreach {v : View} (h : Touched v.d e) (exempt : RangeLock → Bool) :
    spanBreach { v with d := e } exempt = spanBreach v exempt := by
  funext s
  unfold Machine.spanBreach
  simp only [h.lock, h.lockHit]
  rfl

/-- A view's spans are locked alike in a device that is only touched. -/
theorem Touched.spanLock {v : View} (h : Touched v.d e) (id : Nat) (queue : Option Nat) :
    spanLock { v with d := e } id queue = spanLock v id queue := by
  funext s
  unfold Machine.spanLock
  simp only [h.lock]

end Sys2Proof.Machine
end

section
/-! PROOFS. O24: FMTD and the words that post entries to a hall's matrix queue (R132, R265, R268, R270 to R279, R283). -/

namespace Sys2Proof.Machine

/-- A field of a word in numbers. -/
theorem field_eq (x : W64) (lo n : Nat) : field x lo n = x.toNat / 2 ^ lo % 2 ^ n := by
  simp [field, BitVec.extractLsb'_toNat, Nat.shiftRight_eq_div_pow]

/-- The token of a matrix word is started where its completion mode names one (R268). -/
theorem xTok_start (w : WordX) (x : Wave) :
    (match xTok w with | some k => tokStart k x | none => x) = if w.cm = 0 ∨ w.cm = 2 then tokStart w.tok x else x := by
  have hcm : ∀ c : BitVec 2, (c = 1 ∨ c = 3) ↔ ¬ (c = 0 ∨ c = 2) := by decide
  by_cases h : w.cm = 0 ∨ w.cm = 2
  · simp only [xTok, hcm, not_not.mpr h, if_false, if_pos h]
  · simp only [xTok, hcm, h, not_false_iff, if_true, if_false]

/-- A device in which an entry has joined a hall's matrix queue with its range locks (R265). -/
def entryJoined (v : View) (d0 : Device) (e : MatEntry) (spans : List Span) : Device :=
  modHall { d0 with nextId := d0.nextId + 1 } v.hall fun h =>
    lockAll (spans.map (spanLock v e.id none)) { h with mat := h.mat ++ [e] }

/-- The wave of a matrix word that is taken: its token, and MDECOMP's status register, pending (R268, R279). -/
def entryStarted (opc : BitVec 8) (w : WordX) (x : Wave) : Wave :=
  let y := if w.cm = 0 ∨ w.cm = 2 then tokStart w.tok x else x
  if opc = 0x12 then pushOp .decomp (windowOf (some w.hd.md)) [(.sreg (regNo w.b + 1), 0)] none 0 [] y else y

/-- An entry that finds room, and whose spans are reachable and locked by no other block, joins the queue, in a device that the
read of its header has touched. -/
theorem postEntry_done {v : View} {ex : Mask} {opc : BitVec 8} {w : WordX} {desc : Bool} {img : List W64} {d0 : Device}
    (hd : Touched v.d d0) (hfull : matFull (hallOf v.d v.hall) (entrySpans (newEntry v opc w desc img) v.blk.acct) = false)
    (hrange : firstFault (spanRange v) (entrySpans (newEntry v opc w desc img) v.blk.acct) = none)
    (hbreach : firstFault (spanBreach v fun l => decide (l.queue = none ∧ l.block = v.w.block))
      (entrySpans (newEntry v opc w desc img) v.blk.acct) = none) :
    postEntry { v with d := d0 } ex (newEntry v opc w desc img) =
      .done (v.put (entryJoined v d0 (newEntry v opc w desc img) (entrySpans (newEntry v opc w desc img) v.blk.acct))
        (entryStarted opc w)) .onward := by
  have hroom : matFull (hallOf d0 v.hall) (entrySpans (newEntry v opc w desc img) v.blk.acct) = false := by
    obtain ⟨x, hx⟩ := hd.hall v.hall
    rw [hx]
    exact hfull
  have hstarted : entryStarted opc w = fun x =>
      let x1 := match xTok w with | some k => tokStart k x | none => x
      if opc = 0x12 then pushOp .decomp (windowOf (some w.hd.md)) [(.sreg (regNo w.b + 1), 0)] none 0 [] x1 else x1 := by
    funext x
    simp only [xTok_start]
    rfl
  have hhall : ({ v with d := d0 } : View).hall = v.hall := rfl
  unfold postEntry
  simp only [hhall, hroom, hd.spanRange, hd.spanBreach, hrange, hbreach, orFault, matLocks, hd.spanLock, hstarted,
    Bool.false_eq_true, if_false]
  rfl

/-- A matrix word whose effect is the post of its entry is taken as the statement says. -/
theorem entryWord_of {mk : WordX → Instr} {opc : BitVec 8} {desc : Bool} {job : WordX → Job}
    (hj : ∀ w, wordJob (mk w) = some (job w)) (ho : opc ≠ 0x04)
    (ha : ∀ w v ex, (job w).act v ex = postEntry v ex (newEntry v opc w desc [])) : EntryWord mk opc desc := by
  intro w s v ex img d0 h e spans hread _ hfull hrange hbreach
  rw [if_neg ho] at hread
  obtain ⟨rfl, rfl⟩ := hread
  exact goes_of (hj w) h ((ha w v ex).trans (postEntry_done (.refl v.d) hfull hrange hbreach))

/-- The read of an image's header touches the device alone (R123, R283). -/
theorem readHeader_touched {v : View} {ex : Mask} {w : WordX} {img : List W64} {d0 : Device}
    (h : readHeader v ex w = .ok (img, d0)) : Touched v.d d0 := by
  unfold readHeader at h
  split at h
  next va _ =>
    split at h
    · cases h
    · cases h
    · cases h
      exact loadLanes_touched v _ _ _ _ v.d
  next =>
    split at h
    · cases h
    · cases h
      exact .refl v.d
  next => cases h

/-- Settles O24: FMTD's two words, and the entry of every other matrix word. -/
theorem matrixWordResults : Obligations.MatrixWordResults := by
  refine ⟨?fmtd, entryWord_of (job := jobMma) (fun _ => rfl) (by decide) (fun _ _ _ => rfl),
    entryWord_of (job := jobMmas) (fun _ => rfl) (by decide) (fun _ _ _ => rfl), ?mmad,
    entryWord_of (job := jobMzero) (fun _ => rfl) (by decide) (fun _ _ _ => rfl),
    entryWord_of (job := jobMld) (fun _ => rfl) (by decide) (fun _ _ _ => rfl),
    entryWord_of (job := jobMst) (fun _ => rfl) (by decide) (fun _ _ _ => rfl),
    entryWord_of (job := jobMscl) (fun _ => rfl) (by decide) (fun _ _ _ => rfl),
    entryWord_of (job := jobMdload) (fun _ => rfl) (by decide) (fun _ _ _ => rfl),
    entryWord_of (job := jobMprune) (fun _ => rfl) (by decide) (fun _ _ _ => rfl),
    entryWord_of (job := jobMdecomp) (fun _ => rfl) (by decide) (fun _ _ _ => rfl)⟩
  case fmtd =>
    intro w s v ex h a b c bit d0 d1
    have hwords : fmtdWords (w.sub.toNat % 16) (w.sub.toNat / 16) (src64 v w.a) (src64 v w.b) (src64 v w.c) =
        (BitVec.ofNat 64 d0, BitVec.ofNat 64 d1) := by
      simp only [fmtdWords, field_eq, Nat.pow_zero, Nat.div_one, Nat.pow_one]
      rfl
    refine goes_of (j := jobFmtd w) rfl h ?_
    simp only [jobFmtd, hwords]
  case mmad =>
    intro w s v ex img d0 h e spans hread hempty hfull hrange hbreach
    rw [if_pos rfl] at hread
    refine goes_of (j := jobMmad w) rfl h ?_
    have hpost := postEntry_done (ex := ex) (readHeader_touched hread) hfull hrange hbreach
    simp only [jobMmad, hempty, hread, hpost, Bool.false_eq_true, if_false]
    rfl

end Sys2Proof.Machine
end

section
/-! PROOFS. O25: NCALL and the words on weight sets (R286 to R288, R291 to R293). -/

namespace Sys2Proof.Machine

/-! ### Pins and lines -/

/-- The pin state of a set that has been replaced. -/
theorem wPinOf_wPinPut (h : Hall) (s : WSet) : (wPinOf (wPinPut s h) s.ctx s.set).pins = s.pins := by
  have hrest : (h.wsets.filter fun x => decide (x.ctx ≠ s.ctx ∨ x.set ≠ s.set)).find?
      (fun x => decide (x.ctx = s.ctx ∧ x.set = s.set)) = none := by
    simp only [List.find?_eq_none, List.mem_filter, decide_eq_true_eq]
    rintro x ⟨_, hne⟩ ⟨hc, hs⟩
    tauto
  unfold wPinOf wPinPut
  dsimp only
  split
  next hblank => rw [hrest, Option.getD_none, hblank.1]
  next => rw [List.find?_append, hrest]; simp

/-- The pin state of a context's set is of that context and set. -/
theorem wPinOf_key (h : Hall) (ctx : Nat) (set : VA) : (wPinOf h ctx set).ctx = ctx ∧ (wPinOf h ctx set).set = set := by
  unfold wPinOf
  cases hf : h.wsets.find? fun s => decide (s.ctx = ctx ∧ s.set = set) with
  | none => exact ⟨rfl, rfl⟩
  | some s =>
    exact of_decide_eq_true (List.find?_some (p := fun s : WSet => decide (s.ctx = ctx ∧ s.set = set)) hf)

/-- WUNPIN with `.inv` leaves no pin of its set (R292). -/
theorem wUnpin_inv_pins (ctx : Nat) (set : VA) (lines : List Nat) (h : Hall) :
    (wPinOf (wUnpin ctx set true lines h) ctx set).pins = 0 := by
  obtain ⟨hc, hs⟩ := wPinOf_key h ctx set
  have hput := wPinOf_wPinPut h { wPinOf h ctx set with pins := 0 }
  rw [hc, hs] at hput
  exact hput

/-- WUNPIN with `.inv` leaves no line of its set (R292). -/
theorem wUnpin_inv_lines {ctx : Nat} {set : VA} {lines : List Nat} {h : Hall} {l : WLine}
    (hl : l ∈ (wUnpin ctx set true lines h).wlines) (hc : l.ctx = ctx) : l.line ∉ lines ∧ set ∉ l.sets := by
  have hkeep := (List.mem_filter.mp hl).2
  simp only [hc, decide_true, Bool.true_and, Bool.not_eq_true', Bool.or_eq_false_iff, List.contains_eq_mem,
    decide_eq_false_iff_not] at hkeep
  exact ⟨hkeep.2, hkeep.1⟩

/-! ### The words -/

/-- A pin or a prefetch of a set that its entry does not name does nothing (log 143). -/
theorem issueFill_invalid {v : View} {w : WordE} {pin : Bool} {e : W64} (he : e.getLsbD 63 = false) :
    issueFill v w pin e = .done v.d .onward := by
  simp only [issueFill, he, Bool.not_false, if_true]

/-- A prefetch of a valid set issues its fill (R292). -/
theorem issueFill_prefetch {v : View} {w : WordE} {e : W64} (he : e.getLsbD 63 = true) :
    issueFill v w false e = .done (v.put { v.d with nextId := v.d.nextId + 1 } fun x => eStart w
      (pushOp .fill none [] (if w.te then some w.tok.toNat else none) 0 (fillArgs v.d.nextId false false (e.setWidth 48)) x))
      .onward := by
  simp only [issueFill, he, Bool.not_true, Bool.false_eq_true, if_false]

/-- A pin of a valid set issues its fill, counted where the header can be read (R292). -/
theorem issueFill_pin {v : View} {w : WordE} {e : W64} (he : e.getLsbD 63 = true) :
    issueFill v w true e =
      let r : Device × Bool := match wFillHead v.hall v.w.ctx (e.setWidth 48) v.d with
        | .error _ => (v.d, false)
        | .ok d1 => (modHall d1 v.hall (wPin v.w.ctx (e.setWidth 48)), true)
      .done (v.put { r.1 with nextId := r.1.nextId + 1 } fun x => eStart w
        (pushOp .fill none [] (if w.te then some w.tok.toNat else none) 0 (fillArgs r.1.nextId true r.2 (e.setWidth 48)) x))
        .onward := by
  simp only [issueFill, he, Bool.not_true, Bool.false_eq_true, if_false, if_true] <;> rfl

/-- A weight word's entry is read in the same view of the wave, in the device that the read has left. -/
theorem wEntry_view {v v1 : View} {ex : Mask} {w : WordE} {e : W64} (h : wEntry v ex w = .ok (e, v1)) :
    ∃ d, v1 = { v with d := d } := by
  unfold wEntry at h
  split at h
  · cases h
  next l _ =>
    cases h
    exact ⟨l.2, rfl⟩

/-- Settles O25: NCALL's rows placed, and each word on a set with a valid entry or none. -/
theorem regroupWordResults : Obligations.RegroupWordResults := by
  refine ⟨?ncall, ?sets, fun ctx set lines h =>
    ⟨wUnpin_inv_pins ctx set lines h, fun l hl hc => wUnpin_inv_lines hl hc⟩⟩
  case ncall =>
    intro w s v ex es d0 d h hentries hvalid rows hlocks hturn hplaced
    have hbad : ((es.filter fun e => !e.2.getLsbD 63).map (·.1)) = [] := by
      simp only [List.map_eq_nil_iff, List.filter_eq_nil_iff, Bool.not_eq_true', Bool.not_eq_false]
      exact hvalid
    have hbreach : callBreach v (es.zip (es.map fun e =>
        rowIn d0 v.hall v.w.ctx (e.2.setWidth 48) (laneRow v w e.1))) = none := by
      have hnone : ((es.zip rows).filterMap fun e =>
          (lockHit v.d v.hall (fun _ => false) 0 v.w.ctx e.2.span.1 e.2.span.2 false).map fun k =>
            (e.1.1, lockFault k false true (128 * e.2.span.1))) = [] := by
        refine List.filterMap_eq_nil_iff.mpr fun e he => ?_
        rw [hlocks e.2 (List.of_mem_zip he).2]
        rfl
      rw [callBreach, hnone]
      rfl
    refine goes_of (j := jobNcall w) rfl h ?_
    simp only [jobNcall, hentries, hbad, hbreach, hturn, Bool.false_eq_true, if_false]
    have hplaced : withUnit d0 v.hall (placeRows (es.map fun e =>
        rowIn d0 v.hall v.w.ctx (e.2.setWidth 48) (laneRow v w e.1))) = some d := hplaced
    rw [hplaced]
  case sets =>
    intro w s v v1 ex e hentry set fill
    obtain ⟨d1, rfl⟩ := wEntry_view hentry
    have hstart : (eStart w : Wave → Wave) = if w.te then tokStart w.tok else id := by
      funext x
      by_cases hte : w.te = true <;> simp [eStart, hte]
    refine ⟨fun he => ⟨fun h => ?_, fun h => ?_, fun h => ?_⟩, fun he => ⟨fun h => ?_, fun h => ?_, fun h => ?_⟩, fun h => ?_⟩
    · refine goes_of (j := jobWpin w) rfl h ?_
      simp only [jobWpin, eJob, hentry, issueFill_invalid he]
    · refine goes_of (j := jobWpref w) rfl h ?_
      simp only [jobWpref, eJob, hentry, issueFill_invalid he]
    · refine goes_of (j := jobWunpin w) rfl h ?_
      simp only [jobWunpin, eJob, hentry, he, Bool.false_eq_true, if_false]
    · have hpin := issueFill_pin (v := { v with d := d1 }) (w := w) he
      split
      next d hfill =>
        have hfill : wFillHead ({ v with d := d1 } : View).hall v.w.ctx (e.setWidth 48) d1 = .ok d := hfill
        simp only [hfill] at hpin
        refine goes_of (j := jobWpin w) rfl h ?_
        simp only [jobWpin, eJob, hentry, hpin, hstart]
        rfl
      next f hfill =>
        have hfill : wFillHead ({ v with d := d1 } : View).hall v.w.ctx (e.setWidth 48) d1 = .error f := hfill
        simp only [hfill] at hpin
        refine goes_of (j := jobWpin w) rfl h ?_
        simp only [jobWpin, eJob, hentry, hpin, hstart]
        rfl
    · refine goes_of (j := jobWpref w) rfl h ?_
      simp only [jobWpref, eJob, hentry, issueFill_prefetch he, hstart]
      rfl
    · refine goes_of (j := jobWunpin w) rfl h ?_
      simp only [jobWunpin, eJob, hentry, he, if_true]
      rfl
    · refine goes_of (j := jobWstat w) rfl h ?_
      simp only [jobWstat, eJob, hentry]

end Sys2Proof.Machine
end

section
/-! PROOFS. O26: RTRACE, RTGET and RTACCEPT (R314, R319 to R321). -/

namespace Sys2Proof.Machine

/-- A word without sources pops nothing. -/
theorem popWalk_nil (v : View) : popWalk v [] [] = ([], none) := rfl

/-- No executing lane has a query in flight. -/
theorem rayBusy_eq_false {v : View} {ex : Mask} (h : ∀ l ∈ lanesOf v.width ex, (rayOf v.w l).flying = false) :
    rayBusy v ex = false := by
  simpa [rayBusy] using h

/-- The rays of some lanes are sent as the statement says. -/
theorem issueRays_done (v : View) (d : Device) (ls : List Nat) (base : Nat) (tok : BitVec 4) (rec : Nat → RayRec) :
    issueRays { v with d := d } ls base tok rec = .done (raysSent v d ls base tok rec) .onward := by
  unfold issueRays raysSent
  split
  · rfl
  · rfl

/-- Settles O26: rays sent, a field of a hit read, and a candidate settled. -/
theorem rayWordResults : Obligations.RayWordResults := by
  refine ⟨?rtrace, ?rtget, ?rtaccept⟩
  case rtrace =>
    intro w s v ex h hfree
    refine goes_of (j := jobRtrace w) rfl h ?_
    simp only [jobRtrace, rayBusy_eq_false hfree, Bool.false_eq_true, if_false]
    exact issueRays_done v v.d _ _ _ _
  case rtget =>
    intro w s v ex t h hfree hl
    have hfields : Lands v false ex w.d [] (fun l => (hitField
        (if w.sub.getLsbD 5 then (rayOf v.w l).cand else (rayOf v.w l).hit) (w.sub.toNat % 32), 0)) t := by
      convert hl using 3
      generalize w.sub.toNat % 32 = code
      match code with
      | 0 => rfl
      | 1 => rfl
      | 2 => rfl
      | 3 => rfl
      | 4 => rfl
      | 5 => rfl
      | n + 6 => simp [hitField]
    have heff : destEffect v false ex w.d none [] (fun _ l => (hitField
        (if w.sub.getLsbD 5 then (rayOf v.w l).cand else (rayOf v.w l).hit) (w.sub.toNat % 32), 0)) = .done t .onward :=
      destEffect_lands (popWalk_nil v) hfields
    refine goes_of (j := jobRtget w) rfl h ?_
    simp only [jobRtget, rayBusy_eq_false hfree, Bool.false_eq_true, if_false]
    exact heff
  case rtaccept =>
    intro w s v ex ents h hp ls
    refine goes_of (j := jobRtaccept w) rfl h ?_
    simp only [jobRtaccept, hp, issueRays_done, resolveCand, decide_eq_true_eq]
    rfl

end Sys2Proof.Machine
end

section
/-! PROOFS. O27: TEX, TEXLD and TEXQ (R88, R322 to R324). -/

namespace Sys2Proof.Machine

/-- Settles O27: a sample, a texel, and the extents and format of a record. -/
theorem textureResults : Obligations.TextureResults := by
  refine ⟨?tex, ?texld, ?texq⟩
  case tex =>
    intro w s v ex r0 rs rps xs ports d h hroom hready levels hrecs regs hgroups ls taps hread
    have hbusy : (decide (63 ≤ loadsOut v.w) || !unitReady v.d 2 v.hall v.w.ctx) = false := by
      rw [hready, decide_eq_false (Nat.not_le.mpr hroom)]
      rfl
    have hrecs : texRecords v ex (texLevel w + 1) w.rc.toNat = .ok (r0 :: rs, rps) := hrecs
    refine goes_of (j := jobTex w) rfl h ?_
    simp only [jobTex, texAct, hbusy, hrecs, Bool.false_eq_true, if_false]
    rw [hgroups]
    exact (congrArg (fun x => match x with
      | Except.error e => e
      | .ok (xs, ports, d) => Eff.readMoved v rps (loadDone v ports d w.hd.md
          (groupWrites v (regNo w.d) regs ls fun l => (List.range regs).map (sampleWord xs l)))) hread)
  case texld =>
    intro w s v ex r rps ls h once es ins hr hbad hm hc x words
    have hr : readRecord v (w.rc.toNat + texLevel w) ex = .ok r rps := hr
    refine goes_of (j := jobTexld w) rfl h ?_
    simp only [jobTexld, ldbAct, hr, hbad, accessLanes_eq_movers]
    exact congrArg (Eff.readMoved v rps) (globalRead_ok hm hc)
  case texq =>
    intro w s v ex r rps h hroom hr dim
    have hr : readRecord v (w.rc.toNat + texLevel w) ex = .ok r rps := hr
    have hdim : texDim r = dim := by
      funext j
      match j with
      | 0 => rfl
      | 1 => rfl
      | 2 => rfl
      | n + 3 => rfl
    refine goes_of (j := jobTexq w) rfl h ?_
    simp only [jobTexq, if_neg (Nat.not_le.mpr hroom), hr, hdim]
    rfl

end Sys2Proof.Machine
end

section
/-! PROOFS. O28: the shader words (R325 to R330). -/

namespace Sys2Proof.Machine

/-- The value whose difference DDX and DDY take: an inline integer stands for the FP32 value of that integer (R164, R326). -/
theorem derivJob_act (opc : BitVec 8) (w : WordA) (hi lo : Nat → Nat) (v : View) (ex : Mask) :
    (derivJob opc w hi lo).act v ex = destEffect v false ex w.d none [w.a] fun ents l =>
      let x (l : Nat) : FVal := fsrc v.w.fmode (w.neg.getLsbD 2) (w.abs.getLsbD 2) (srcFp v (ents.getD 0 []) w.a l)
      fres v.w.fmode (addF fp32 (rmOf v.w.fmode (w.hd.md.toNat % 8)) (x (hi l)) (negVal (x (lo l)))) := by
  refine congrArg (destEffect v false ex w.d none [w.a]) (funext fun ents => funext fun l => ?_)
  have hval (l : Nat) : (match w.a with
      | .pos _ => srcFp v [] w.a l
      | .neg _ => srcFp v [] w.a l
      | _ => laneSrc v ents 0 w.a l) = srcFp v (ents.getD 0 []) w.a l := by
    cases w.a <;> rfl
  exact congrArg₂ (fun x y => fres v.w.fmode (addF fp32 (aRm v w) (aFsrc v w 0 x) (negVal (aFsrc v w 0 y))))
    (hval (hi l)) (hval (lo l))

/-- Settles O28: each shader word's own effect. -/
theorem shaderWordResults : Obligations.ShaderWordResults := by
  refine ⟨?interp, ?deriv, ?expc, ?expz, ?discard, ?emitv, ?emitp⟩
  case interp =>
    intro w s v ex ents t h hp flat place ks as hc n attr hl
    have hl : Lands v false ex w.d [w.a, w.b, w.c] (interpLane v w ents) t := by
      convert hl using 1
      funext l
      unfold interpLane
      split
      · rfl
      · rfl
    refine goes_of (j := jobInterp w) rfl h ?_
    have hc : checkSpad v false false true none ((if w.sub.getLsbD 4 then [0] else [0, 1, 2]).flatMap
        (attrReads v ents w ex)) = none := hc
    simp only [jobInterp, hp, hc, destEffect_lands (res := interpLane v w) hp hl]
    rfl
  case deriv =>
    intro w s v ex ents t hp x less row col
    refine ⟨fun h hl => goes_of (j := jobDdx w) rfl h ?_, fun h hl => goes_of (j := jobDdy w) rfl h ?_⟩
    · exact (derivJob_act _ w _ _ v ex).trans (destEffect_lands hp hl)
    · exact (derivJob_act _ w _ _ v ex).trans (destEffect_lands hp hl)
  case expc =>
    intro w s v ex p h hroom hp ls d
    refine goes_of (j := jobExpc w) rfl h ?_
    simp only [jobExpc, if_neg (Nat.not_le.mpr hroom), hp]
    rfl
  case expz =>
    intro w s v ex p ents h hroom _ hp xs
    refine goes_of (j := jobExpz w) rfl h ?_
    simp only [jobExpz, if_neg (Nat.not_le.mpr hroom), hp]
    rfl
  case discard =>
    intro w s v ex h
    exact goes_of (j := jobDiscard w) rfl h rfl
  case emitv =>
    intro w s v ex t h ls hl
    have heff : destEffect v false ex w.d none [] (fun _ l => (BitVec.ofNat 32 (v.w.gfx.verts.length +
        ((lanesOf v.width ex).filter fun i => decide (i < l)).length), 0)) = .done t .onward :=
      destEffect_lands (popWalk_nil v) hl
    refine goes_of (j := jobEmitv w) rfl h ?_
    simp only [jobEmitv, heff]
    rfl
  case emitp =>
    intro w s v ex ents h hp _ _ ix _ d
    refine goes_of (j := jobEmitp w) rfl h ?_
    simp only [jobEmitp, hp]
    rfl

end Sys2Proof.Machine
end

section
/-! PROOFS. O29, O31: branches, and the words on paths (R43, R202, R203, R205, R206). -/

namespace Sys2Proof.Machine

/-! ### Words that trap or are held by their own effect -/

/-- A word that issues and whose effect is a trap takes it. -/
theorem trap_of {i : Instr} {j : Job} (hj : wordJob i = some j) {s : State} {v : View} {ex : Mask} {t : Trap}
    (h : Runs i s v ex) (ha : j.act v ex = .trap t) : exec i s = .next { s with dev := trapHere v j.code t } := by
  rw [exec_word hj, runJob_trap (h.issues hj) ha]

/-- A word that issues and whose effect waits leaves the device to that effect. -/
theorem hold_of {i : Instr} {j : Job} (hj : wordJob i = some j) {s : State} {v : View} {ex : Mask} {d : Device}
    (h : Runs i s v ex) (ha : j.act v ex = .hold d) : exec i s = .next { s with dev := d } := by
  have hi := h.issues hj
  have ht : ∀ k, j.tok = some k → v.w.tokPend.getLsbD k.toNat = false ∧ v.w.tokOrph.getLsbD k.toNat = false := hi.token
  rw [exec_word hj, runJob_eq hi.sel hi.noWait, hi.free]
  simp only [Bool.false_eq_true, if_false, issueView, hi.lanes, if_neg hi.someLane, hi.legal, hi.early, ha]
  cases hk : j.tok with
  | none => simp
  | some k => simp [(ht k hk).1, (ht k hk).2]

/-- A word whose effect waits with the device as it stands changes nothing. -/
theorem unchanged_of {i : Instr} {j : Job} (hj : wordJob i = some j) {s : State} {v : View} {ex : Mask}
    (h : Runs i s v ex) (ha : j.act v ex = .hold v.d) : exec i s = .next s := by
  rw [hold_of hj h ha, view_dev (h.issues hj).sel]

/-! ### A path divided -/

/-- Idle lanes join the first of entries that all have lanes. -/
theorem joinFirst_cons {m : Mask} {p : Path} (t : List Path) (h : p.mask ≠ 0) :
    joinFirst m (p :: t) = { p with mask := p.mask ||| m } :: t := by
  simp only [joinFirst, if_neg h]

/-- The running path replaced by a word's paths and the lanes that fall through is the path divided as the statements say. -/
theorem dividedPaths_eq (v : View) (ex : Mask) (gs : List (VA × Mask)) (depth : BitVec 16) (fresh : Bool) (w : Wave) :
    replaceRun (dividedPaths v (gs.map (fun g => newPath g.1 depth g.2 fresh) ++
      [newPath v.fall v.p.depth (v.active &&& ~~~ex) false])) w = divided v ex gs depth fresh w := by
  unfold dividedPaths divided
  dsimp only
  generalize hk : (gs.map (fun g => newPath g.1 depth g.2 fresh) ++
    [newPath v.fall v.p.depth (v.active &&& ~~~ex) false]).filter (fun p => decide (p.mask ≠ 0)) = keep
  cases keep with
  | nil =>
    rw [if_pos rfl]
    simp only [newPath] at hk
    rw [hk]
    rfl
  | cons p t =>
    have hp : p.mask ≠ 0 := by
      have hm : p ∈ (gs.map (fun g => newPath g.1 depth g.2 fresh) ++
          [newPath v.fall v.p.depth (v.active &&& ~~~ex) false]).filter (fun p => decide (p.mask ≠ 0)) :=
        hk ▸ List.mem_cons_self
      exact of_decide_eq_true (List.mem_filter.mp hm).2
    rw [if_neg (List.cons_ne_nil p t), joinFirst_cons t hp]
    simp only [newPath] at hk
    rw [hk]
    rfl

/-- A divergent transfer divides the running path by target. -/
theorem divide_eq (v : View) (ex : Mask) (target : Nat → VA) :
    divide v ex target =
      .done (v.put v.d (divided v ex (byTarget v ex target) v.p.depth false)) (.placed true) := by
  have hpaths := funext (dividedPaths_eq v ex (byTarget v ex target) v.p.depth false)
  exact congrArg (fun f => Eff.done (v.put v.d f) (.placed true)) hpaths

/-- Settles O29: BRA and JMP by the path's new address, BRV and JMPI by the path divided. -/
theorem branchResults : Obligations.BranchResults := by
  refine ⟨fun w s v ex h => done_of (j := jobBra w) rfl h rfl, fun w s v ex h => done_of (j := jobJmp w) rfl h ?jmp,
    fun w s v ex h => done_of (j := jobBrv w) rfl h (divide_eq v ex _),
    fun w s v ex h => done_of (j := jobJmpi w) rfl h (divide_eq v ex _)⟩
  case jmp =>
    have hzero : (src v [] (.pos 0) 0).setWidth 48 = 0 := by
      simp only [src]
      decide
    have htarget : laneTarget v { w with b := .pos 0 } 0 = kTarget v w false 0 := by
      simp only [laneTarget, kTarget, hzero]
      rfl
    exact congrArg (moveAll v) htarget

/-- Settles O31: EXIT, YIELD, NOP and WAITK. -/
theorem pathWordResults : Obligations.PathWordResults := by
  refine ⟨fun w s v ex h => done_of (j := jobExit w) rfl h rfl, fun w s v ex h => goes_of (j := jobYield w) rfl h rfl,
    fun w s v ex h => goes_of (j := jobNop w) rfl h rfl, fun w s v ex h => ⟨fun hidle => ?idle, fun hbusy => ?busy⟩⟩
  case idle =>
    exact goes_of (j := jobWaitk w) rfl h (if_neg (not_not.mpr hidle))
  case busy =>
    exact unchanged_of (j := jobWaitk w) rfl h (if_pos hbusy)

end Sys2Proof.Machine
end

section
/-! PROOFS. O30: CALL, CALLI and RET (R44, R58 to R60, R204, R205, R418). -/

namespace Sys2Proof.Machine

/-! ### Entering targets -/

/-- Lanes that may enter are stopped by nothing (R58, R388). -/
theorem callStop_eq_none {v : View} {m : Mask} {f : Nat} (hdepth : v.p.depth ≠ 0xFFFF#16)
    (hroom : ∀ l ∈ lanesOf v.width m, wbOf v.w l + f + 120 ≤ v.w.nstk + oldOf v.w l) : callStop v m f = none := by
  have hover : overLanes v.w m f = [] := by
    refine List.filter_eq_nil_iff.mpr fun l hl => ?_
    rw [decide_eq_true_iff]
    exact Nat.not_lt.mpr (hroom l hl)
  simp only [callStop, if_neg hdepth, hover]

/-- Targets that may all be entered are entered in order, each with a path one depth deeper (R60). -/
theorem enterTargets_all {v : View} {f : Nat} {fresh : Bool} (hdepth : v.p.depth ≠ 0xFFFF#16) :
    ∀ (gs : List (VA × Mask)) (d : Device),
      (∀ g ∈ gs, ∀ l ∈ lanesOf v.width g.2, wbOf v.w l + f + 120 ≤ v.w.nstk + oldOf v.w l) →
      enterTargets v f fresh gs d = (gs.foldl (fun d g => (lanesOf v.width g.2).foldl (enterLane v f) d) d,
        gs.map (fun g => newPath g.1 (v.p.depth + 1) g.2 fresh), none)
  | [], _, _ => rfl
  | (pc, m) :: gs, d, hroom => by
    have hstop := callStop_eq_none hdepth (hroom (pc, m) List.mem_cons_self)
    have hrest := enterTargets_all (fresh := fresh) hdepth gs ((lanesOf v.width m).foldl (enterLane v f) d)
      fun g hg => hroom g (List.mem_cons_of_mem _ hg)
    simp only [enterTargets, hstop, hrest]
    rfl

/-- The lanes of paths made for groups are the groups' lanes. -/
theorem pathsMask_newPaths (gs : List (VA × Mask)) (depth : BitVec 16) (fresh : Bool) :
    pathsMask (gs.map fun g => newPath g.1 depth g.2 fresh) = groupsMask gs := by
  unfold pathsMask groupsMask
  rw [List.foldl_map]
  rfl

/-- Links that no load still writes hold no call up (R131). -/
theorem linkPending_eq_false {v : View} {ex : Mask} {top : Nat → Nat} (h : LinksRead v ex top) :
    linkPending v ex top = false := by
  refine List.any_eq_false.mpr fun l hl => ?_
  have h1 := h l hl 1 (by decide)
  have h2 := h l hl 2 (by decide)
  simp only [wordPending, h1, h2]
  decide

/-- A call whose lanes may all enter enters their targets. -/
theorem callLanes_done {code : W64} {v : View} {ex : Mask} {f : Nat} {indirect : Bool} {target : Nat → VA}
    (hn : ncallOut v.w = false) (hl : LinksRead v ex fun l => wbOf v.w l + f) (hm : MayEnter v (byTarget v ex target) f) :
    callLanes code v ex f indirect target =
      let gs := byTarget v ex target
      let d := v.put (entered v gs f) (divided v (groupsMask gs) gs (v.p.depth + 1) indirect)
      if indirect && !v.due then .done (v.put d (chooseFresh v.p.mask (v.p.depth + 1))) (.placed false)
      else .done d (.placed true) := by
  have hheld : (ncallOut v.w || linkPending v ex fun l => wbOf v.w l + f) = false := by
    rw [hn, linkPending_eq_false hl]
    rfl
  have hall := enterTargets_all (fresh := indirect) hm.1 (byTarget v ex target) v.d hm.2
  have hpaths := funext (dividedPaths_eq v (groupsMask (byTarget v ex target)) (byTarget v ex target) (v.p.depth + 1) indirect)
  have hgs : groupLanes ((lanesOf v.width ex).map fun l => (l, target l)) = byTarget v ex target := rfl
  unfold callLanes
  simp only [hheld, hgs, hall, pathsMask_newPaths, Bool.false_eq_true, if_false]
  exact congrArg (fun g : Wave → Wave =>
    let d := v.put (entered v (byTarget v ex target) f) g
    if indirect && !v.due then Eff.done (v.put d (chooseFresh v.p.mask (v.p.depth + 1))) (.placed false)
    else .done d (.placed true)) hpaths

/-! ### A lane's link and window -/

/-- A lane that enters a call has its link in the two slots below its new window base, and no other lane's window moves (R58). -/
theorem enterLane_link {v : View} {f : Nat} {d : Device} {l : Nat} {x : Wave} (hx : waveOf d v.core v.slot = some x)
    (hw : wbOf v.w l + f < 2 ^ 32) (hne : stackWord v.w l (wbOf v.w l + f - 2) ≠ stackWord v.w l (wbOf v.w l + f - 1)) :
    rfGet (enterLane v f d l) v.core (stackWord v.w l (wbOf v.w l + f - 2)) = v.fall.setWidth 32 ∧
    rfGet (enterLane v f d l) v.core (stackWord v.w l (wbOf v.w l + f - 1)) =
      BitVec.ofNat 32 (f / 8 * 65536 + v.fall.toNat / 2 ^ 32) ∧
    ∃ y, waveOf (enterLane v f d l) v.core v.slot = some y ∧ wbOf y l = wbOf v.w l + f ∧ ∀ k, k ≠ l → wbOf y k = wbOf x k := by
  have hst (d : Device) (g : Wave → Wave) : (v.put d g).st = d.st := rfl
  refine ⟨?_, ?_, { x with wb := tblSet x.wb l (BitVec.ofNat 32 (wbOf v.w l + f)) }, ?_, ?_, fun k hk => ?_⟩
  · rw [enterLane, rfGet_congr _ _ (congrArg _ (hst _ _)), rfGet_rfSet_ne _ _ (by omega), rfGet_rfSet_same]
  · rw [enterLane, rfGet_congr _ _ (congrArg _ (hst _ _)), rfGet_rfSet_same]
  · have hx' : waveOf (rfSet (rfSet d v.core (stackWord v.w l (wbOf v.w l + f - 2)) (v.fall.setWidth 32)) v.core
        (stackWord v.w l (wbOf v.w l + f - 1)) (BitVec.ofNat 32 (f / 8 * 65536 + v.fall.toNat / 2 ^ 32))) v.core v.slot =
          some x := hx
    rw [enterLane, View.put, waveOf_modWave_same, hx']
    rfl
  · simp only [wbOf, tblGet_tblSet_same, BitVec.toNat_ofNat]
    exact Nat.mod_eq_of_lt hw
  · simp only [wbOf, tblGet_tblSet_ne _ _ _ hk]

/-! ### Returns -/

/-- Lanes whose slots are resident need no fill (R58). -/
theorem fillStop_eq_none {v : View} {ex : Mask} {k : Nat → Nat}
    (h : ∀ l ∈ lanesOf v.width ex, oldOf v.w l + k l ≤ wbOf v.w l) : fillStop v ex k = none := by
  have hnone : ((lanesOf v.width ex).filter fun l => decide (wbOf v.w l < oldOf v.w l + k l)) = [] := by
    refine List.filter_eq_nil_iff.mpr fun l hl => ?_
    rw [decide_eq_true_iff]
    exact Nat.not_lt.mpr (h l hl)
  simp only [fillStop, hnone]

/-- Settles O30: CALL and CALLI where all lanes may enter, a lane's link, RET where all links are resident and sound, and RET at
depth 0. -/
theorem callAndReturnResults : Obligations.CallAndReturnResults := by
  refine ⟨?call, ?calli, ?link, ?ret, ?imbalance⟩
  case call =>
    intro w s v ex h hn hl gs hm
    exact done_of (j := jobCall w) rfl h (callLanes_done hn hl hm)
  case calli =>
    intro w s v ex h hn hl gs hm d
    have hact := callLanes_done (code := w.toBits 0x06) (indirect := true) hn hl hm
    split
    next hdue =>
      have hdue : v.due = true := by simpa [View.due] using hdue
      exact done_of (j := jobCalli w) rfl h (hact.trans (if_neg (by simp [hdue])))
    next hdue =>
      have hdue : v.due = false := Bool.eq_false_iff.mpr fun hd => hdue (by simpa [View.due] using hd)
      exact done_of (j := jobCalli w) rfl h (hact.trans (if_pos (by simp [hdue])))
  case link =>
    intro v f d l x hx hw _ top d' hne
    exact enterLane_link hx hw hne
  case ret =>
    intro w s v ex h hn hd hl hlinks
    have hheld : (ncallOut v.w || linkPending v ex (wbOf v.w)) = false := by
      rw [hn, linkPending_eq_false hl]
      rfl
    have htop : fillStop v ex (fun _ => 2) = none := fillStop_eq_none fun l hl => (hlinks l hl).1
    have hframe : fillStop v ex (linkFrame v) = none := fillStop_eq_none fun l hl => (hlinks l hl).2.2.2
    have hsound : ((lanesOf v.width ex).filter fun l => decide (linkFrame v l = 0 ∨ 112 < linkFrame v l)) = [] := by
      refine List.filter_eq_nil_iff.mpr fun l hl => ?_
      obtain ⟨_, hlow, hhigh, _⟩ := hlinks l hl
      rw [decide_eq_true_iff]
      omega
    refine done_of (j := jobRet w) rfl h ?_
    show retLanes v ex = _
    simp only [retLanes, hheld, if_neg hd, htop, hsound, hframe, placed, dividedPaths_eq, Bool.false_eq_true, if_false]
    rfl
  case imbalance =>
    intro w s v ex h hn hd hl
    have hheld : (ncallOut v.w || linkPending v ex (wbOf v.w)) = false := by
      rw [hn, linkPending_eq_false hl]
      rfl
    refine trap_of (j := jobRet w) rfl h ?_
    show retLanes v ex = _
    simp only [retLanes, hheld, if_pos hd, Bool.false_eq_true, if_false]
    rfl

end Sys2Proof.Machine
end

section
/-! PROOFS. O33: PERFC and the privileged words that complete (R208 to R213, R310, R336). -/

namespace Sys2Proof.Machine

/-- A word that must name a token starts it. -/
theorem eStart_of_te {w : WordE} (h : w.te = true) (x : Wave) : eStart w x = tokStart w.tok x := by
  simp only [eStart, h, if_true]

/-- Settles O33: the request, the operation or the restored block of each word. -/
theorem systemWordResults : Obligations.SystemWordResults := by
  refine ⟨fun w s v ex h => goes_of (j := jobPerfc w) rfl h rfl, ?csload, ?tlbinv, ?ctxsave, ?ctxrest⟩
  case csload =>
    intro w s v ex r h hr d
    have hte : w.te = true := by
      simpa [c14] using h.passes (j := jobCsload w) rfl (c := c14 (!w.te) 11) (by simp [jobCsload, ctxJob, eJob])
    refine goes_of (j := jobCsload w) rfl h ?_
    simp only [jobCsload, ctxJob, eJob, hr, eStart_of_te hte]
    rfl
  case tlbinv =>
    intro w s v ex h hstores
    have hte : w.te = true := by
      simpa [c14] using h.passes (j := jobTlbinv w) rfl (c := c14 (!w.te) 11) (by simp [jobTlbinv, eJob])
    refine goes_of (j := jobTlbinv w) rfl h ?_
    simp only [jobTlbinv, eJob, hstores, eStart_of_te hte, ne_eq, not_true, if_false]
  case ctxsave =>
    intro w s v ex bid b h hb
    have hte : w.te = true := by
      simpa [c14] using h.passes (j := jobCtxsave w) rfl (c := c14 (!w.te) 11) (by simp [jobCtxsave, ctxJob, eJob])
    refine goes_of (j := jobCtxsave w) rfl h ?_
    simp only [jobCtxsave, ctxJob, eJob, hb, eStart_of_te hte]
  case ctxrest =>
    intro w s v ex r bid d0 d h hr hd
    have hte : w.te = true := by
      simpa [c14] using h.passes (j := jobCtxrest w) rfl (c := c14 (!w.te) 11) (by simp [jobCtxrest, ctxJob, eJob])
    have hr : restRecord w v = .ok (some r, d0) := hr
    refine goes_of (j := jobCtxrest w) rfl h ?_
    simp only [jobCtxrest, ctxJob, eJob, hr, hd, eStart_of_te hte]

end Sys2Proof.Machine
end

section
/-! PROOFS. What the end of a word leaves as it was (R44, R131, R144, R149, R210), and what a store does (R72, R92, R95,
R139). -/

namespace Sys2Proof.Machine

/-! ### A wave's registers -/

/-- The registers of a wave that are no counters, with its graphics state and tokens. -/
structure WaveRegs where
  sregs : Tbl W64
  preds : Tbl Mask
  fflags : BitVec 7
  fmode : BitVec 3
  lfsr : Tbl W32
  wb : Tbl W32
  old : Tbl W32
  trap : WaveTrap
  gfx : WaveGfx
  tokPend : BitVec 16
  tokOrph : BitVec 16

/-- The registers of a wave. -/
def regsOf (w : Wave) : WaveRegs :=
  { sregs := w.sregs, preds := w.preds, fflags := w.fflags, fmode := w.fmode, lfsr := w.lfsr, wb := w.wb, old := w.old
    trap := w.trap, gfx := w.gfx, tokPend := w.tokPend, tokOrph := w.tokOrph }

/-- A list changed at an index has the same indices. -/
theorem listMod_getElem? {β : Type} (f : β → β) : ∀ (xs : List β) (n k : Nat),
    (listMod xs n f)[k]? = if k = n then xs[k]?.map f else xs[k]?
  | [], _, _ => by simp [listMod]
  | x :: xs, 0, 0 => by simp [listMod]
  | x :: xs, 0, k + 1 => by simp [listMod]
  | x :: xs, n + 1, 0 => by simp [listMod]
  | x :: xs, n + 1, k + 1 => by simp [listMod, listMod_getElem? f xs n k]

/-- A list changed at an index keeps its entries. -/
theorem listMod_isSome {β : Type} (f : β → β) (xs : List β) (n k : Nat) : (listMod xs n f)[k]?.isSome = xs[k]?.isSome := by
  rw [listMod_getElem?]
  split <;> simp

/-- Whether a wave's running path is one of its table. -/
def hasPath (w : Wave) : Bool := (w.pos.paths[w.pos.run]?).isSome

theorem haltNow_regs (lvl : Nat) (w : Wave) : regsOf (haltNow lvl w) = regsOf w := by
  unfold haltNow
  split <;> rfl

theorem hasPath_haltNow (lvl : Nat) (w : Wave) : hasPath (haltNow lvl w) = hasPath w := by
  unfold haltNow
  split <;> rfl

/-- At a clause boundary a wave with a running path keeps its registers (R44). -/
theorem pathBoundary_regs {was : Mask} {w : Wave} (h : hasPath w = true) : regsOf (pathBoundary was w) = regsOf w := by
  have h : (w.pos.paths[w.pos.run]?).isSome = true := h
  simp only [pathBoundary, h, if_true]
  split <;> rfl

theorem clauseDone_regs {was : Mask} {yields choose : Bool} {w : Wave} (h : hasPath w = true) :
    regsOf (clauseDone was yields choose w) = regsOf w := by
  unfold clauseDone
  dsimp only
  generalize hy : haltNow w.trap.trlvl.toNat _ = y
  have hsame : regsOf y = regsOf w := by
    rw [← hy, haltNow_regs]
    rfl
  have hpath : hasPath y = true := by
    rw [← hy, hasPath_haltNow]
    exact h
  split
  · exact (pathBoundary_regs hpath).trans hsame
  · exact hsame

/-- A word after which its wave goes on leaves the wave's registers to its effect (R141). -/
theorem posAfter_regs {was : Mask} {hdr : W64} {w : Wave} (h : hasPath w = true) :
    regsOf (posAfter was hdr .onward w) = regsOf w := by
  unfold posAfter
  dsimp only
  split
  · rfl
  · refine (clauseDone_regs ?_).trans rfl
    unfold hasPath setPc unfresh at *
    dsimp only at *
    rw [listMod_isSome, listMod_isSome]
    exact h

/-! ### The end of a word -/

/-- A core whose waves stay has the same waves. -/
theorem waveOf_modCore_of_waves (d : Device) (core : Nat) {g : Core → Core} (hg : ∀ k, (g k).waves = k.waves) (c slot : Nat) :
    waveOf (modCore d core g) c slot = waveOf d c slot :=
  (modCore_touched d core hg).waves c slot

/-- What a word's end adds to the device in which its effect stands: the wave's position, and around it the count of its hall,
the bindings of a wave that ends, and an event (R97, R149, R340). -/
theorem finish_cases (v : View) (d : Device) (pos : Pos) :
    (finish v d pos).st = d.st ∧ (finish v d pos).blocks = d.blocks ∧ (∀ c slot, waveOf (finish v d pos) c slot =
      waveOf (v.put (hallWord d v.core) fun w => posAfter v.p.mask v.hdr pos (countWord v.w.nextOp w)) c slot) := by
  unfold finish
  dsimp only
  split
  · exact ⟨rfl, rfl, fun _ _ => rfl⟩
  · split
    · exact ⟨rfl, rfl, fun c slot => waveOf_modCore_of_waves (g := unbindSlot v.slot) _ _ (fun _ => rfl) c slot⟩
    · split <;> exact ⟨rfl, rfl, fun _ _ => rfl⟩

/-- The end of a word leaves memories and registers. -/
theorem finish_st (v : View) (d : Device) (pos : Pos) : (finish v d pos).st = d.st := (finish_cases v d pos).1

/-- The end of a word leaves the blocks. -/
theorem finish_blocks (v : View) (d : Device) (pos : Pos) : (finish v d pos).blocks = d.blocks := (finish_cases v d pos).2.1

/-- The end of a word leaves every other wave. -/
theorem finish_others {v : View} (d : Device) (pos : Pos) {c slot : Nat} (h : (c, slot) ≠ (v.core, v.slot)) :
    waveOf (finish v d pos) c slot = waveOf d c slot := by
  have hne : c ≠ v.core ∨ slot ≠ v.slot := by
    by_contra hsame
    rw [not_or, not_not, not_not] at hsame
    exact h (Prod.ext hsame.1 hsame.2)
  rw [(finish_cases v d pos).2.2 c slot, View.put, waveOf_modWave_ne _ _ hne]
  rfl

/-- The word's own wave is counted and moved on. -/
theorem finish_wave (v : View) (d : Device) (pos : Pos) : waveOf (finish v d pos) v.core v.slot =
    (waveOf d v.core v.slot).map fun w => posAfter v.p.mask v.hdr pos (countWord v.w.nextOp w) := by
  rw [(finish_cases v d pos).2.2, View.put, waveOf_modWave_same]
  rfl

/-- A wave that goes on after a word has the registers that the word's effect left it. -/
theorem finish_regs {v : View} {d : Device} {w : Wave} (hw : waveOf d v.core v.slot = some w) (hpath : hasPath w = true) :
    ∃ y, waveOf (finish v d .onward) v.core v.slot = some y ∧ regsOf y = regsOf w :=
  ⟨_, (finish_wave v d .onward).trans (congrArg _ hw), posAfter_regs hpath⟩

/-! ### Every wave changed -/

/-- A key of a table changed everywhere. -/
theorem tblFind_tblMap {β : Type} (f : Nat → β → β) : ∀ (t : Tbl β) (k : Nat), tblFind (tblMap f t) k = (tblFind t k).map (f k)
  | [], _ => rfl
  | (k', x) :: t, k => by
    have ht := tblFind_tblMap f t k
    simp only [tblMap] at ht
    simp only [tblMap, List.map_cons, tblFind, ht]
    split
    · subst_vars
      rfl
    · rfl

/-- Every wave of the device changed reads as changed. -/
theorem waveOf_mapWaves (d : Device) (g : Wave → Wave) (c slot : Nat) :
    waveOf (mapWaves d g) c slot = (waveOf d c slot).map g := by
  simp only [waveOf, coreOf, mapWaves, tblGet_eq, tblFind_tblMap]
  cases tblFind d.cores c with
  | none => rfl
  | some k => exact tblFind_tblMap (fun _ w => g w) k.waves slot

/-! ### Stores -/

/-- A wave without its reservations. -/
def barren (w : Wave) : Wave := { w with resv := [] }

/-- A device that stores to memory have changed: bytes and marks of memory and what caches it, grids' notes, reservations. -/
structure Stored (d e : Device) : Prop where
  spad : e.st.spad = d.st.spad
  rf : e.st.rf = d.st.rf
  acc : e.st.acc = d.st.acc
  md : e.st.md = d.st.md
  blocks : e.blocks = d.blocks
  waves : ∀ c slot, (waveOf e c slot).map barren = (waveOf d c slot).map barren
  wf : Memory.wf d.st.mem = true → Memory.wf e.st.mem = true

variable {d e f : Device}

theorem Stored.refl (d : Device) : Stored d d := ⟨rfl, rfl, rfl, rfl, rfl, fun _ _ => rfl, id⟩

theorem Stored.trans (h : Stored d e) (k : Stored e f) : Stored d f :=
  ⟨k.spad.trans h.spad, k.rf.trans h.rf, k.acc.trans h.acc, k.md.trans h.md, k.blocks.trans h.blocks,
    fun c slot => (k.waves c slot).trans (h.waves c slot), fun w => k.wf (h.wf w)⟩

/-- A device whose caches alone have moved. -/
theorem Touched.stored (h : Touched d e) : Stored d e := by
  refine ⟨?_, ?_, ?_, ?_, h.blocks, fun c slot => congrArg _ (h.waves c slot), ?_⟩
  all_goals
    obtain ⟨cs, ks, hs, l, rfl⟩ := h.rest
  · rfl
  · rfl
  · rfl
  · rfl
  · exact id

/-- Lines of L2 rewritten. -/
theorem setL2_stored (d : Device) (l : Tbl L2Line) : Stored d { d with st := { d.st with l2 := l } } :=
  ⟨rfl, rfl, rfl, rfl, rfl, fun _ _ => rfl, id⟩

/-- Blocks in pixel back ends dropped. -/
theorem setBack_stored (d : Device) (b : Tbl (List Byte)) : Stored d { d with st := { d.st with back := b } } :=
  ⟨rfl, rfl, rfl, rfl, rfl, fun _ _ => rfl, id⟩

/-- Units marked as poisoned. -/
theorem markUnits_stored (d : Device) (base : Nat) (us : List Nat) : Stored d (markUnits d base us) :=
  ⟨rfl, rfl, rfl, rfl, rfl, fun _ _ => rfl, id⟩

/-- What every write of bytes to memory does. -/
theorem memSettle_stored (d : Device) (a : Nat) (bs : List Byte) (r n : Nat) : Stored d (memSettle d a bs r n) := by
  refine ⟨rfl, rfl, rfl, rfl, rfl, fun c slot => ?_, memPut_wf bs a⟩
  have hw : waveOf (memSettle d a bs r n) c slot = (waveOf d c slot).map (dropResv r n) := waveOf_mapWaves d _ c slot
  rw [hw, Option.map_map]
  rfl

theorem memWriteFor_stored (d : Device) (own a : Nat) (bs : List Byte) (r n : Nat) :
    Stored d (memWriteFor d own a bs r n) := by
  obtain ⟨e, hmoved, he⟩ := memWriteFor_eq d own a bs r n
  rw [he]
  exact hmoved.touched.stored.trans (memSettle_stored e a bs r n)

theorem memWrite_stored (d : Device) (own a : Nat) (bs : List Byte) : Stored d (memWrite d own a bs) :=
  memWriteFor_stored d own a bs a bs.length

theorem memWriteMt_stored (d : Device) (mt : BitVec 2) (own a : Nat) (bs : List Byte) :
    Stored d (memWriteMt d mt own a bs) := by
  unfold memWriteMt
  split
  · exact (setL2_stored d _).trans (memSettle_stored _ a bs a bs.length)
  · exact memWrite_stored d own a bs

theorem blockWrite_stored (d : Device) (own ctx : Nat) (p : Piece) (r : Reader) (va off : Nat) (bs : List Byte) :
    Stored d (blockWrite d own ctx p r va off bs) := by
  unfold blockWrite
  split
  · exact .refl d
  next sp old bad _ =>
    exact (((setBack_stored d _).trans (memWriteFor_stored _ own _ _ _ _)).trans (memWrite_stored _ own sp _)).trans
      (markUnits_stored _ _ _)

theorem cutsWrite_stored (own ctx : Nat) (p : Piece) (r : Reader) : ∀ (cs : List (Nat × Nat × Nat)) (bs : List Byte)
    (d : Device), Stored d (cutsWrite own ctx p r cs bs d)
  | [], _, d => .refl d
  | _ :: cs, _, d => (blockWrite_stored d own ctx p r _ _ _).trans (cutsWrite_stored own ctx p r cs _ _)

theorem pieceWrite_stored (d : Device) (own ctx : Nat) (r : Reader) (p : Piece) (bs : List Byte) :
    Stored d (pieceWrite d own ctx r p bs) := by
  unfold pieceWrite
  split
  · exact memWriteMt_stored d _ _ _ _
  · exact cutsWrite_stored own ctx p r _ bs d

/-- A grid's note of bytes that it still fetches (R141). -/
theorem notePiece_stored (v : View) (r : Reader) (d : Device) (p : Piece) (n : Nat) : Stored d (notePiece v r d p n) :=
  ⟨rfl, rfl, rfl, rfl, rfl, fun _ _ => rfl, id⟩

theorem l1Store_touched (d : Device) (core a : Nat) (bs : List Byte) (use : Bool) : Touched d (l1Store d core a bs use) :=
  modCore_touched (g := fun k => { k with l1 := _ }) d core fun _ => rfl

theorem storePiece_stored (v : View) (r : Reader) (ch : BitVec 2) (d : Device) (p : Piece) (bs : List Byte) :
    Stored d (storePiece v r ch d p bs) := by
  unfold storePiece
  dsimp only
  split
  · exact ((notePiece_stored v r d p _).trans (memWriteMt_stored _ _ _ _ _)).trans (l1Store_touched _ _ _ _ _).stored
  · exact ((notePiece_stored v r d p _).trans (pieceTouch_touched _ _ _).stored).trans (pieceWrite_stored _ _ _ _ _ _)

theorem storePieces_stored (v : View) (r : Reader) (ch : BitVec 2) : ∀ (ps : List Piece) (bs : List Byte) (d : Device),
    Stored d (storePieces v r ch ps bs d)
  | [], _, d => .refl d
  | p :: ps, _, d => (storePiece_stored v r ch d p _).trans (storePieces_stored v r ch ps _ _)

/-- Stores of lanes change memory and reservations alone (R139, R221). -/
theorem storeLanes_stored (v : View) (r : Reader) (ch : BitVec 2) (data : Nat → List Byte) :
    ∀ (ls : List (Nat × List Piece)) (d : Device), Stored d (storeLanes v r ch data ls d)
  | [], d => .refl d
  | (_, _) :: ls, d => (storePieces_stored v r ch _ _ d).trans (storeLanes_stored v r ch data ls _)

/-- A walker's mark is a write of its table entry (Table 4.8). -/
theorem walkMark_stored (d : Device) (ctx leaf : Nat) (pte : W64) (write : Bool) : Stored d (walkMark d ctx leaf pte write) := by
  unfold walkMark
  generalize (pte ||| 64#64 ||| if write then 128#64 else 0) = marked
  dsimp only
  split
  · exact .refl d
  · exact memWrite_stored _ _ _ _

/-- Engines translate parts of an access with walks that mark their entries (R93, R95). -/
theorem engineParts_stored (ctx : Nat) (n : Need) (priv perms : Bool) (r : Reader) : ∀ (cuts : List (Nat × Nat)) (d : Device)
    {ps : List Piece} {e : Device}, engineParts ctx n priv perms r cuts d = .ok (ps, e) → Stored d e
  | [], d, ps, e, h => by
    cases h
    exact .refl d
  | (va, len) :: cuts, d, ps, e, h => by
    simp only [engineParts] at h
    split at h
    · cases h
    next te d1 hwalk =>
      have hwalked : Stored d d1 := by
        unfold walkNow at hwalk
        split at hwalk
        · cases hwalk
          exact (tableReads_moved d ctx va).touched.stored.trans (walkMark_stored _ _ _ _ _)
        · cases hwalk
        · cases hwalk
      split at h
      · cases h
      · split at h
        · cases h
        next ps1 d2 hrest =>
          cases h
          exact (hwalked.trans (pieceTouch_touched _ _ _).stored).trans
            (engineParts_stored ctx n priv perms r cuts _ hrest)

/-- A trap's frame is written as plain stores of its wave (R379). -/
theorem frameWrite_stored {v : View} {priv : Bool} {off : Nat} {bs : List Byte} (h : frameWrite v priv off bs = some e) :
    Stored v.d e := by
  unfold frameWrite at h
  dsimp only at h
  split at h
  · cases h
  · split at h
    · cases h
    next hparts =>
      cases h
      exact (engineParts_stored _ _ _ _ _ _ _ hparts).trans (storePieces_stored _ _ _ _ _ _)

/-- A wave that stores leave is the same but for its reservations. -/
theorem Stored.wave (h : Stored d e) {c slot : Nat} {w : Wave} (hw : waveOf d c slot = some w) :
    ∃ y, waveOf e c slot = some y ∧ barren y = barren w := by
  have hmap := h.waves c slot
  rw [hw, Option.map_some, Option.map_eq_some_iff] at hmap
  exact hmap

end Sys2Proof.Machine
end

section
/-! PROOFS. O15, O60: what stores leave as it was (R139, R221, R223), and the canonical form of memories (log 4). -/

namespace Sys2Proof.Machine

/-! ### Bytes outside a store -/

/-- Bytes outside what a write of memory writes stay. -/
theorem memGet_memWriteFor_out {d : Device} {own a r n : Nat} {bs : List Byte} {b : Nat} (h : b < a ∨ a + bs.length ≤ b) :
    memGet (memWriteFor d own a bs r n).st.mem b = memGet d.st.mem b := by
  obtain ⟨e, ⟨c, l, rfl⟩, he⟩ := memWriteFor_eq d own a bs r n
  rw [he]
  exact memGet_memPut_out bs _ a h

/-- The same for a write through a translation of a memory type. -/
theorem memGet_memWriteMt_out {d : Device} {mt : BitVec 2} {own a : Nat} {bs : List Byte} {b : Nat}
    (h : b < a ∨ a + bs.length ≤ b) : memGet (memWriteMt d mt own a bs).st.mem b = memGet d.st.mem b := by
  unfold memWriteMt
  split
  · exact memGet_memPut_out bs _ a h
  · exact memGet_memWriteFor_out h

/-- Bytes outside a plain write of memory stay. -/
theorem memGet_memWrite_out {d : Device} {own a : Nat} {bs : List Byte} {b : Nat} (h : b < a ∨ a + bs.length ≤ b) :
    memGet (memWrite d own a bs).st.mem b = memGet d.st.mem b :=
  memGet_memWriteFor_out h

/-- Bytes outside a block's stored bytes and its side byte stay. -/
theorem memGet_blockWrite_out {d : Device} {own ctx : Nat} {p : Piece} {r : Reader} {va off : Nat} {bs : List Byte} {b : Nat}
    (h : Outside b (blockStored d ctx p r va off bs)) :
    memGet (blockWrite d own ctx p r va off bs).st.mem b = memGet d.st.mem b := by
  unfold blockStored at h
  unfold blockWrite
  split
  · rfl
  next sp old bad hread =>
    rw [hread] at h
    have hblock := h _ List.mem_cons_self
    have hside := h _ (List.mem_cons_of_mem _ List.mem_cons_self)
    refine (memGet_memWrite_out (by simpa using hside)).trans (memGet_memWriteFor_out ?_)
    split at hblock
    · next hkind =>
      rw [if_pos hkind]
      exact hblock
    · next hkind =>
      rw [if_neg hkind]
      exact hblock

/-- A list's ranges leave an address outside both parts. -/
theorem outside_append {a : Nat} {xs ys : List (Nat × Nat)} (h : Outside a (xs ++ ys)) : Outside a xs ∧ Outside a ys :=
  ⟨fun e he => h e (List.mem_append_left _ he), fun e he => h e (List.mem_append_right _ he)⟩

theorem memGet_cutsWrite_out {own ctx : Nat} {p : Piece} {r : Reader} {b : Nat} : ∀ (cs : List (Nat × Nat × Nat))
    (bs : List Byte) (d : Device), Outside b (cutsStored own ctx p r cs bs d) →
      memGet (cutsWrite own ctx p r cs bs d).st.mem b = memGet d.st.mem b
  | [], _, _, _ => rfl
  | _ :: cs, _, _, h =>
    (memGet_cutsWrite_out cs _ _ (outside_append h).2).trans (memGet_blockWrite_out (outside_append h).1)

/-- A read leaves memory. -/
theorem Touched.mem {d e : Device} (h : Touched d e) : e.st.mem = d.st.mem := by
  obtain ⟨cs, ks, hs, l, rfl⟩ := h.rest
  rfl

theorem memGet_storePiece_out {v : View} {r : Reader} {ch : BitVec 2} {d : Device} {p : Piece} {bs : List Byte} {b : Nat}
    (h : Outside b (pieceStored v r p bs d)) : memGet (storePiece v r ch d p bs).st.mem b = memGet d.st.mem b := by
  unfold pieceStored at h
  unfold storePiece
  dsimp only
  split
  next hkind =>
    rw [if_pos hkind] at h
    exact (congrArg (memGet · b) (l1Store_touched _ _ _ _ _).mem).trans
      (memGet_memWriteMt_out (h _ List.mem_cons_self))
  next hkind =>
    rw [if_neg hkind] at h
    rw [pieceWrite, if_neg hkind]
    exact (memGet_cutsWrite_out _ _ _ h).trans (congrArg (memGet · b) (pieceTouch_touched _ _ _).mem)

theorem memGet_storePieces_out {v : View} {r : Reader} {ch : BitVec 2} {b : Nat} : ∀ (ps : List Piece) (bs : List Byte)
    (d : Device), Outside b (piecesStored v r ch ps bs d) → memGet (storePieces v r ch ps bs d).st.mem b = memGet d.st.mem b
  | [], _, _, _ => rfl
  | _ :: ps, _, _, h =>
    (memGet_storePieces_out ps _ _ (outside_append h).2).trans (memGet_storePiece_out (outside_append h).1)

/-- Bytes outside what the lanes' stores write stay (R221). -/
theorem memGet_storeLanes_out {v : View} {r : Reader} {ch : BitVec 2} {data : Nat → List Byte} {b : Nat} :
    ∀ (ls : List (Nat × List Piece)) (d : Device), Outside b (lanesStored v r ch data ls d) →
      memGet (storeLanes v r ch data ls d).st.mem b = memGet d.st.mem b
  | [], _, _ => rfl
  | (_, _) :: ls, _, h =>
    (memGet_storeLanes_out ls _ (outside_append h).2).trans (memGet_storePieces_out _ _ _ (outside_append h).1)

/-! ### Scratchpad -/

/-- Writes of scratchpad change its bytes and marks alone, the bytes only where they write. -/
theorem spadWrites_eq (at' : Nat → Nat × Nat) (data : Nat → List Byte) : ∀ (ls : List Nat) (d : Device),
    ∃ sp po, ls.foldl (fun d l => spadWrite d (at' l).1 (at' l).2 (data l)) d = { d with st := { d.st with
        spad := sp, poison := po } } ∧
      (∀ a, Outside a (ls.map fun l => (spadKey (at' l).1 (at' l).2, (data l).length)) →
        memGet sp a = memGet d.st.spad a) ∧ (Memory.wf d.st.spad = true → Memory.wf sp = true)
  | [], d => ⟨d.st.spad, d.st.poison, rfl, fun _ _ => rfl, id⟩
  | l :: ls, d => by
    obtain ⟨sp, po, heq, hout, hwf⟩ := spadWrites_eq at' data ls (spadWrite d (at' l).1 (at' l).2 (data l))
    refine ⟨sp, po, heq, fun a ha => ?_, fun w => hwf (memPut_wf _ _ w)⟩
    rw [hout a fun e he => ha e (List.mem_cons_of_mem _ he)]
    exact memGet_memPut_out _ _ _ (ha _ List.mem_cons_self)

/-! ### The frame of a word -/

/-- The wave of a view is the one in its slot, and its path is one of its table. -/
theorem view_wave {d : Device} {v : View} (h : view d = some v) :
    waveOf d v.core v.slot = some v.w ∧ hasPath v.w = true := by
  unfold view at h
  split at h
  · unfold viewAt at h
    split at h
    · cases h
    next hw =>
      split at h
      next hp =>
        split at h
        · cases h
          exact ⟨hw, by rw [hasPath, hp]; rfl⟩
        · cases h
      · cases h
  · cases h

/-- A device in which a store's effect stands keeps registers, accumulators, descriptors, blocks, and waves but for
reservations and counters. -/
structure StoreEffect (v : View) (t : Device) : Prop where
  rf : t.st.rf = v.d.st.rf
  acc : t.st.acc = v.d.st.acc
  md : t.st.md = v.d.st.md
  blocks : t.blocks = v.d.blocks
  others : ∀ c slot, (c, slot) ≠ (v.core, v.slot) → (waveOf t c slot).map barren = (waveOf v.d c slot).map barren
  own : ∃ x, waveOf t v.core v.slot = some x ∧ regsOf x = regsOf v.w ∧ hasPath x = true

/-- A change of the view's own wave leaves the others. -/
theorem waveOf_put_ne {v : View} (d : Device) (g : Wave → Wave) {c slot : Nat} (h : (c, slot) ≠ (v.core, v.slot)) :
    waveOf (v.put d g) c slot = waveOf d c slot := by
  refine waveOf_modWave_ne d g ?_
  by_contra hsame
  rw [not_or, not_not, not_not] at hsame
  exact h (Prod.ext hsame.1 hsame.2)

/-- Stores to memory, then an operation of the wave, are a store's effect. -/
theorem Stored.effect {v : View} {d : Device} {g : Wave → Wave} (h : Stored v.d d)
    (hw : waveOf v.d v.core v.slot = some v.w) (hpath : hasPath v.w = true) (hg : ∀ w, regsOf (g w) = regsOf w)
    (hpos : ∀ w, (g w).pos = w.pos) : StoreEffect v (v.put d g) := by
  obtain ⟨x, hx, hbarren⟩ := h.wave hw
  have hregs : regsOf (barren x) = regsOf (barren v.w) := congrArg regsOf hbarren
  have hposx : (barren x).pos = (barren v.w).pos := congrArg Wave.pos hbarren
  refine ⟨h.rf, h.acc, h.md, h.blocks, fun c slot hne => ?_, g x, ?_, ?_, ?_⟩
  · rw [waveOf_put_ne d g hne]
    exact h.waves c slot
  · rw [View.put, waveOf_modWave_same, hx]
    rfl
  · exact (hg x).trans hregs
  · rw [hasPath, hpos]
    exact (congrArg (fun p : WavePos => (p.paths[p.run]?).isSome) hposx).trans hpath

/-- The frame of a word whose effect is a store's. -/
theorem StoreEffect.framed {s : State} {v : View} {t : Device} (h : StoreEffect v t) (hv : v.d = s.dev) :
    StoreFramed s (Issued s v t .onward) v := by
  obtain ⟨x, hx, hregs, hpath⟩ := h.own
  obtain ⟨y, hy, hyregs⟩ := finish_regs hx hpath
  have hsame : regsOf y = regsOf v.w := hyregs.trans hregs
  refine ⟨rfl, ?_, ?_, ?_, fun c slot hne => ?_, fun b n => ?_, y, hy, congrArg WaveRegs.sregs hsame,
    congrArg WaveRegs.preds hsame, congrArg WaveRegs.fflags hsame, congrArg WaveRegs.fmode hsame,
    congrArg WaveRegs.lfsr hsame, congrArg WaveRegs.wb hsame, congrArg WaveRegs.old hsame, congrArg WaveRegs.trap hsame,
    congrArg WaveRegs.gfx hsame, congrArg WaveRegs.tokPend hsame, congrArg WaveRegs.tokOrph hsame⟩
  · rw [← hv, ← h.rf]
    exact congrArg _ (finish_st v t .onward)
  · rw [← hv, ← h.acc]
    exact congrArg _ (finish_st v t .onward)
  · rw [← hv, ← h.md]
    exact congrArg _ (finish_st v t .onward)
  · rw [← hv]
    exact (congrArg _ (finish_others t .onward hne)).trans (h.others c slot hne)
  · rw [← hv, ← h.blocks]
    exact congrArg (fun bs => (tblFind bs b).map (bget · n)) (finish_blocks v t .onward)

/-- An operation pushed leaves a wave's registers. -/
theorem pushOpTo_regs (ports : List RemotePart) (kind : OpKind) (win : Option Nat) (ws : List (RegLoc × W64))
    (tok : Option Nat) (flags : Flags) (args : List W64) (w : Wave) :
    regsOf (pushOpTo ports kind win ws tok flags args w) = regsOf w := rfl

theorem acquired_stored (v : View) (tl : MemTail) : Stored v.d (acquired v tl) := by
  unfold acquired
  split
  · exact (l1Acquire_touched v.d v.core).stored
  · exact .refl v.d

/-- A change of the view's own wave as the wave reads it. -/
theorem waveOf_put_same (v : View) (d : Device) (g : Wave → Wave) :
    waveOf (v.put d g) v.core v.slot = (waveOf d v.core v.slot).map g := waveOf_modWave_same d v.core v.slot g

/-- Stores of lanes to scratchpad between two changes of the wave are a store's effect, and change scratchpad alone, where
they write (R223). -/
theorem spadStore_effect {v : View} {tl : MemTail} {g k : Wave → Wave} (at' : Nat → Nat × Nat) (data : Nat → List Byte)
    (ls : List Nat) (hw : waveOf v.d v.core v.slot = some v.w) (hpath : hasPath v.w = true)
    (hg : ∀ w, regsOf (g w) = regsOf w) (hgpos : ∀ w, (g w).pos = w.pos) (hk : ∀ w, regsOf (k w) = regsOf w)
    (hkpos : ∀ w, (k w).pos = w.pos) :
    let t := v.put (ls.foldl (fun d l => spadWrite d (at' l).1 (at' l).2 (data l)) (v.put (acquired v tl) g)) k
    StoreEffect v t ∧ (∀ a, Outside a (ls.map fun l => (spadKey (at' l).1 (at' l).2, (data l).length)) →
      memGet t.st.spad a = memGet v.d.st.spad a) ∧ t.st.mem = v.d.st.mem := by
  intro t
  have hacq := acquired_stored v tl
  obtain ⟨sp, po, heq, hout, -⟩ := spadWrites_eq at' data ls (v.put (acquired v tl) g)
  have hmem : (acquired v tl).st.mem = v.d.st.mem := by
    unfold acquired
    split
    · exact (l1Acquire_touched v.d v.core).mem
    · rfl
  obtain ⟨x, hx, hbarren⟩ := hacq.wave hw
  have hregs : regsOf (barren x) = regsOf (barren v.w) := congrArg regsOf hbarren
  have hpos : (barren x).pos = (barren v.w).pos := congrArg Wave.pos hbarren
  have ht : t = _ := congrArg (v.put · k) heq
  have hown : waveOf t v.core v.slot = some (k (g x)) := by
    rw [ht, waveOf_put_same]
    have hin := (waveOf_put_same v (acquired v tl) g).trans (congrArg (Option.map g) hx)
    exact congrArg (Option.map k) hin
  refine ⟨⟨?_, ?_, ?_, ?_, fun c slot hne => ?_, k (g x), hown, ?_, ?_⟩, fun a ha => ?_, ?_⟩
  · rw [ht]
    exact hacq.rf
  · rw [ht]
    exact hacq.acc
  · rw [ht]
    exact hacq.md
  · rw [ht]
    exact hacq.blocks
  · rw [ht, waveOf_put_ne _ k hne]
    exact (congrArg _ (waveOf_put_ne (acquired v tl) g hne)).trans (hacq.waves c slot)
  · exact (hk _).trans ((hg x).trans hregs)
  · rw [hasPath, hkpos, hgpos]
    exact (congrArg (fun p : WavePos => (p.paths[p.run]?).isSome) hpos).trans hpath
  · rw [ht]
    exact (hout a ha).trans (congrArg (memGet · a) hacq.spad)
  · rw [ht]
    exact hmem

/-- Settles O15: ST by the bytes that its lanes store, STS by those of scratchpad. -/
theorem storeFrame : Obligations.StoreFrame := by
  refine ⟨?st, ?sts⟩
  case st =>
    intro w s s' v ex ls h once n hm hc hexec
    have hgoes := storeResults.1 w s v ex ls h hm hc
    obtain rfl := Host.Outcome.next.inj (hgoes.symm.trans hexec)
    have hview := (h.issues (j := jobSt w) rfl).sel
    have hdev : v.d = s.dev := view_dev hview
    obtain ⟨hwave, hpath⟩ := view_wave hview
    rw [← hdev] at hwave
    have hstored := storeLanes_stored v .plain w.tl.ch (storeData v w.d n) ls v.d
    refine ⟨fun a ha => ?_, ?_, (hstored.effect (g := pushOpTo _ .store none [] none 0 []) hwave hpath (fun _ => rfl)
      fun _ => rfl).framed hdev⟩
    · rw [← hdev, ← memGet_storeLanes_out ls v.d ha]
      exact congrArg (fun st => memGet st.mem a) (finish_st v _ .onward)
    · rw [← hdev, ← hstored.spad]
      exact congrArg _ (finish_st v _ .onward)
  case sts =>
    intro w s s' v ex h once n at' from' hm hc hexec
    have hgoes := storeResults.2.1 w s v ex h hm hc
    obtain rfl := Host.Outcome.next.inj (hgoes.symm.trans hexec)
    have hview := (h.issues (j := jobSts w) rfl).sel
    have hdev : v.d = s.dev := view_dev hview
    obtain ⟨hwave, hpath⟩ := view_wave hview
    rw [← hdev] at hwave
    obtain ⟨heffect, hout, hmem⟩ := spadStore_effect (tl := w.tl)
      (g := addPasses (corePasses n once true (from'.map fun l => (l, (at' l).1, (at' l).2, n))))
      (k := pushOp .store none [] none 0 []) at' (storeData v w.d n) from' hwave hpath (fun _ => rfl) (fun _ => rfl)
      (fun _ => rfl) fun _ => rfl
    refine ⟨fun a ha => ?_, ?_, heffect.framed hdev⟩
    · rw [← hdev, ← hout a ha]
      exact congrArg (fun st => memGet st.spad a) (finish_st v _ .onward)
    · rw [← hdev, ← hmem]
      exact congrArg _ (finish_st v _ .onward)

/-! ### The canonical form -/

/-- A device that an effect on the memories leaves canonical where it was (log 4). -/
structure KeepsForm (d e : Device) : Prop where
  mem : Memory.wf d.st.mem = true → Memory.wf e.st.mem = true
  spad : Memory.wf d.st.spad = true → Memory.wf e.st.spad = true

variable {d e f : Device}

theorem KeepsForm.trans (h : KeepsForm d e) (k : KeepsForm e f) : KeepsForm d f :=
  ⟨fun w => k.mem (h.mem w), fun w => k.spad (h.spad w)⟩

/-- Stores to memory keep both forms. -/
theorem Stored.keepsForm (h : Stored d e) : KeepsForm d e := ⟨h.wf, fun w => (congrArg Memory.wf h.spad).trans w⟩

/-- A change of a wave keeps both forms. -/
theorem KeepsForm.put (h : KeepsForm d e) (v : View) (g : Wave → Wave) : KeepsForm d (v.put e g) := ⟨h.mem, h.spad⟩

/-- A store to scratchpad keeps both forms. -/
theorem spadWrite_keepsForm (d : Device) (c o : Nat) (bs : List Byte) : KeepsForm d (spadWrite d c o bs) :=
  ⟨id, memPut_wf bs _⟩

theorem spadWrites_keepsForm (f : Device → Nat × Nat × Nat × Nat → Device) (hf : ∀ d x, KeepsForm d (f d x)) :
    ∀ (xs : List (Nat × Nat × Nat × Nat)) (d : Device), KeepsForm d (xs.foldl f d)
  | [], _ => ⟨id, id⟩
  | x :: xs, d => (hf d x).trans (spadWrites_keepsForm f hf xs (f d x))

theorem spadAtomics_keepsForm (v : View) (w : WordMA) : ∀ (xs : List (Nat × Nat × Nat × Nat)) (d : Device),
    KeepsForm d (spadAtomics v w xs d).2
  | [], _ => ⟨id, id⟩
  | (_, c, o, _) :: xs, d => (spadWrite_keepsForm d c o _).trans (spadAtomics_keepsForm v w xs _)

theorem atomicLanes_stored (v : View) (w : WordMA) : ∀ (xs : List (Nat × List Piece)) (d : Device),
    Stored d (atomicLanes v w xs d).2
  | [], d => .refl d
  | (_, ps) :: xs, d => (storePieces_stored v .plain 2 ps _ d).trans (atomicLanes_stored v w xs _)

theorem stcndLanes_keepsForm (v : View) (w : WordMA) : ∀ (xs : List (Nat × List Piece)) (d : Device),
    KeepsForm d (stcndLanes v w xs d).2
  | [], _ => ⟨id, id⟩
  | (l, ps) :: xs, d => by
    have hstore : KeepsForm d (if stcndHolds d v (szBytes w.sz) l ps then
        storePieces v .plain 2 ps (storeData v w.c (szBytes w.sz) l) d else d) := by
      split
      · exact (storePieces_stored v .plain 2 ps _ d).keepsForm
      · exact ⟨id, id⟩
    exact (hstore.put v _).trans (stcndLanes_keepsForm v w xs _)

/-- A store to memory whose effect is done keeps both forms. -/
theorem globalWrite_keepsForm {v : View} {once : Bool} {ex : Mask} {tl : MemTail} {r : Reader} {as : List (Nat × Nat × Nat)}
    {data : Nat → List Byte} {pos : Pos} (h : globalWrite v once ex tl r as data = .done e pos) : KeepsForm v.d e := by
  unfold globalWrite at h
  split at h
  · cases h
  · split at h
    · cases h
    · cases h
    · cases h
      exact (storeLanes_stored v r tl.ch data _ v.d).keepsForm.put v _

/-- An atomic whose effect is done keeps both forms. -/
theorem atomicJob_keepsForm {opc : BitVec 8} {w : WordMA} {red : Bool} {legal : List Check} {v : View} {ex : Mask} {pos : Pos}
    (h : (atomicJob opc w red legal).act v ex = .done e pos) : KeepsForm v.d e := by
  dsimp only [atomicJob] at h
  split at h
  · cases h
  · split at h
    · cases h
    · cases h
    · next ls _ =>
      have hlanes := ((acquired_stored v w.tl).trans (atomicLanes_stored v w ls _)).keepsForm
      split at h
      · cases h
        exact hlanes.put v _
      · cases h
        exact hlanes.put v _

/-- An STCND whose effect is done keeps both forms. -/
theorem jobStcnd_keepsForm {w : WordMA} {v : View} {ex : Mask} {pos : Pos} (h : (jobStcnd w).act v ex = .done e pos) :
    KeepsForm v.d e := by
  dsimp only [jobStcnd] at h
  split at h
  · cases h
  · split at h
    · cases h
    · cases h
    · cases h
      exact (stcndLanes_keepsForm v w _ v.d).put v _

/-- An access to scratchpad whose effect is done is what follows it, on the device that the acquire leaves. -/
theorem spadAccess_done {v : View} {once : Bool} {ex : Mask} {tl : MemTail} {n : Nat} {ld st merge : Bool}
    {as : List (Nat × Nat × Nat × Nat)} {next : Device → Eff} {pos : Pos}
    (h : spadAccess v once ex tl n ld st merge as next = .done e pos) :
    ∃ d, KeepsForm v.d d ∧ next d = .done e pos := by
  unfold spadAccess at h
  split at h
  · cases h
  · split at h
    · cases h
    · exact ⟨_, (acquired_stored v tl).keepsForm.put v _, h⟩

theorem jobSts_keepsForm {w : WordM} {v : View} {ex : Mask} {pos : Pos} (h : (jobSts w).act v ex = .done e pos) :
    KeepsForm v.d e := by
  dsimp only [jobSts] at h
  obtain ⟨d, hd, hnext⟩ := spadAccess_done h
  cases hnext
  exact (hd.trans (spadWrites_keepsForm _ (fun d x => spadWrite_keepsForm d _ _ _) _ d)).put v _

theorem jobAtoms_keepsForm {w : WordMA} {v : View} {ex : Mask} {pos : Pos} (h : (jobAtoms w).act v ex = .done e pos) :
    KeepsForm v.d e := by
  dsimp only [jobAtoms] at h
  obtain ⟨d, hd, hnext⟩ := spadAccess_done h
  cases hnext
  exact (hd.trans (spadAtomics_keepsForm v w _ d)).put v _

/-- Settles O60: each of the six words by the stores that its effect makes; the end of a word stores nothing. -/
theorem storeWordsKeepMemoryCanonical : Obligations.StoreWordsKeepMemoryCanonical := by
  intro i j s v ex d pos hstores hj hissues hact hmem hspad
  have hkeeps : KeepsForm v.d d := by
    cases i <;> simp only [Bool.false_eq_true] at hstores
    case st => cases hj; exact globalWrite_keepsForm hact
    case sts => cases hj; exact jobSts_keepsForm hact
    case atom => cases hj; exact atomicJob_keepsForm hact
    case atoms => cases hj; exact jobAtoms_keepsForm hact
    case red => cases hj; exact atomicJob_keepsForm hact
    case stcnd => cases hj; exact jobStcnd_keepsForm hact
  rw [view_dev hissues.sel] at hkeeps
  refine ⟨Issued s v d pos, (exec_word hj s).trans (runJob_done hissues hact), ?_, ?_⟩
  · exact (congrArg (fun st => Memory.wf st.mem) (finish_st v d pos)).trans (hkeeps.mem hmem)
  · exact (congrArg (fun st => Memory.wf st.spad) (finish_st v d pos)).trans (hkeeps.spad hspad)

end Sys2Proof.Machine
end

section
/-! PROOFS. O32: TRAP, ERET, BKPT and HALT (R144, R149, R207, R210, R376, R379 to R383). -/

namespace Sys2Proof.Machine

/-! ### TRAP -/

/-- A TRAP word's cause is one of its own kind, which ends no block by itself (R376). -/
theorem trapCause_kind (n : Nat) : terminates (BitVec.ofNat 8 (128 + n % 128)) = false ∧
    isTrapWord (BitVec.ofNat 8 (128 + n % 128)) = true := by
  have hall : ∀ k : Fin 128, terminates (BitVec.ofNat 8 (128 + k.val)) = false ∧
      isTrapWord (BitVec.ofNat 8 (128 + k.val)) = true := by decide
  exact hall ⟨n % 128, Nat.mod_lt n (by decide)⟩

/-- The level of a TRAP word's handler (R376, R382). -/
theorem trapLevel_trapWord {w : Wave} {cause : BitVec 8} {lvl : BitVec 2} (ht : terminates cause = false)
    (hw : isTrapWord cause = true)
    (h : (w.trap.trlvl = 0 ∧ w.trap.trvec ≠ 0 ∧ lvl = 1) ∨
      (w.trap.trlvl = 0 ∧ w.trap.trvec = 0 ∧ w.trap.strvec ≠ 0 ∧ lvl = 2) ∨
      (w.trap.trlvl = 1 ∧ w.trap.strvec ≠ 0 ∧ lvl = 2)) : trapLevel w cause = some lvl := by
  obtain ⟨hl, hv, rfl⟩ | ⟨hl, hv, hs, rfl⟩ | ⟨hl, hs, rfl⟩ := h
  · simpa [trapLevel, ht, hw, hl] using hv
  · simpa [trapLevel, ht, hw, hl, hv] using hs
  · simpa [trapLevel, ht, hw, hl] using hs

/-- A trap whose handler is found and whose frame is written goes to the handler. -/
theorem takeTrap_enters {v : View} {t : Trap} {iword : W64} {hdr : VA} {word : BitVec 4} {lvl : BitVec 2} {d1 : Device}
    (hlvl : trapLevel v.w t.cause = some lvl)
    (hframe : frameWrite v (decide (lvl = 2) || v.priv) 0 (frameBytes t word hdr iword v.p.depth) = some d1) :
    takeTrap v t iword hdr word = emit (v.put d1 (enterHandler t lvl v.p.mask v.p.depth)) v.src (.trap t.cause) := by
  simp only [takeTrap, hlvl, hframe]

/-- A handler is entered with the HALTs that were due (R210). -/
theorem enterHandler_haltDue (t : Trap) (lvl : BitVec 2) (active : Mask) (depth : BitVec 16) (w : Wave) :
    (enterHandler t lvl active depth w).pos.haltDue = w.pos.haltDue := rfl

/-- A HALT that is due takes effect at the trap that ends its clause (R210). -/
theorem trapHalt_eq {v : View} {d : Device} {x : Wave} (hx : waveOf d v.core v.slot = some x)
    (hdue : x.pos.haltDue = v.w.pos.haltDue) :
    trapHalt v d = haltIfDue v (v.put d (haltNow v.w.trap.trlvl.toNat)) := by
  have hown : waveOf (v.put d (haltNow v.w.trap.trlvl.toNat)) v.core v.slot = some (haltNow v.w.trap.trlvl.toNat x) := by
    rw [View.put, waveOf_modWave_same, hx, Option.map_some]
  simp only [trapHalt, haltIfDue, hown, Option.elim_some]
  cases hbit : v.w.pos.haltDue.getLsbD v.w.trap.trlvl.toNat with
  | false => simp
  | true => simp [haltNow, hdue, hbit]

/-- TRAP enters its handler, and a HALT due in its clause takes effect (R207, R210, R380). -/
theorem trapWord_enters {v : View} {t : Trap} {iword : W64} {hdr : VA} {word : BitVec 4} {lvl : BitVec 2} {d1 : Device}
    (hw : waveOf v.d v.core v.slot = some v.w) (hlvl : trapLevel v.w t.cause = some lvl)
    (hframe : frameWrite v.left (decide (lvl = 2) || v.priv) 0 (frameBytes t word hdr iword v.p.depth) = some d1) :
    trapHalt v (takeTrap v.left t iword hdr word) = haltIfDue v
      (v.put (emit (v.put d1 (enterHandler t lvl v.p.mask v.p.depth)) v.src (.trap t.cause)) (haltNow v.w.trap.trlvl.toNat)) := by
  rw [takeTrap_enters (v := v.left) hlvl hframe]
  have hleft : waveOf v.left.d v.core v.slot = some (lastWord v v.w) := by
    have h := waveOf_put_same v (hallWord v.d v.core) (lastWord v)
    rw [show waveOf (hallWord v.d v.core) v.core v.slot = some v.w from hw] at h
    exact h
  obtain ⟨x, hx, hbarren⟩ := (frameWrite_stored hframe).wave hleft
  have hpos : (barren x).pos = (barren (lastWord v v.w)).pos := congrArg Wave.pos hbarren
  have hdue : (barren x).pos.haltDue = (barren (lastWord v v.w)).pos.haltDue := congrArg WavePos.haltDue hpos
  exact trapHalt_eq ((waveOf_put_same v d1 _).trans (congrArg (Option.map _) hx)) hdue

/-! ### ERET -/

/-- A handler's return leaves the die as the spec's terms say. -/
theorem ereturn_eq (v : View) (d : Device) (f : Wave → Wave) : ereturn v d f = .settled (ereturnDev v d f) := by
  have hresumed : ∀ w, resumed v.p.mask w =
      if w.trap.trlvl = 0 ∧ w.pos.clpos = 0 ∧ callBegun w = false then rechoose v.p.mask w else w := fun w => by
    simp only [resumed, Bool.not_eq_true']
  simp only [ereturn, hresumed]
  rfl

/-- Settles O32: TRAP by its level and its frame, ERET by the frame it reads, BKPT and HALT by the halt that they make due. -/
theorem trapWordResults : Obligations.TrapWordResults := by
  refine ⟨?trap, ?eret, ?bkpt, ?hlt⟩
  case trap =>
    intro w s v ex lvl d1 h t hlevel last hframe
    obtain ⟨hends, hword⟩ := trapCause_kind w.off.toNat
    have hwave : waveOf v.d v.core v.slot = some v.w := by
      have hview := (h.issues (j := jobTrap w) rfl).sel
      rw [view_dev hview]
      exact (view_wave hview).1
    refine settled_of (j := jobTrap w) rfl h (congrArg Eff.settled ?_)
    exact trapWord_enters hwave (trapLevel_trapWord hends hword hlevel) hframe
  case eret =>
    intro w s v ex x d h
    refine ⟨fun sf hsf hread => ?_, fun hsf hlevel hdepth hread => ?_⟩
    · refine settled_of (j := jobEret w) rfl h ?_
      simp only [jobEret, controlJob, eretAct, hsf, hread, ereturn_eq]
    · refine settled_of (j := jobEret w) rfl h ?_
      simp only [jobEret, controlJob, eretAct, hsf, hread, if_neg hlevel, hdepth, ne_eq, not_true, if_false, ereturn_eq]
  case bkpt =>
    intro w s v ex h
    refine ⟨fun hoff => ?_, fun hon => ?_⟩
    · exact goes_of (j := jobBkpt w) rfl h (if_neg (by simp [hoff]))
    · exact goes_of (j := jobBkpt w) rfl h (if_pos hon)
  case hlt =>
    intro w s v ex h
    exact goes_of (j := jobHalt w) rfl h rfl

end Sys2Proof.Machine
end

section
/-! PROOFS. O54: what taking a trap saves and where it goes; spill and fill (R61, R376, R379 to R382). -/

namespace Sys2Proof.Machine

/-- The `k`th word of bytes laid out word by word. -/
theorem take_drop_words : ∀ (ws : List Nat) (k : Nat), k < ws.length →
    ((ws.flatMap (leBytes 8)).drop (8 * k)).take 8 = leBytes 8 (ws.getD k 0)
  | w :: ws, 0, _ => by simp
  | w :: ws, k + 1, h => by
    have hskip : 8 * (k + 1) = (leBytes 8 w).length + 8 * k := by rw [leBytes_length, Nat.mul_succ, Nat.add_comm]
    rw [List.flatMap_cons, hskip, List.drop_length_add_append, take_drop_words ws k (Nat.lt_of_succ_lt_succ h),
      List.getD_cons_succ]

/-- The words of a trap frame (Table 18.3). -/
def frameWords (t : Trap) (word : BitVec 4) (hdr : VA) (iword : W64) (depth : BitVec 16) : List Nat :=
  [t.cause.toNat * 2 ^ 56 + word.toNat * 2 ^ 52 + hdr.toNat, t.mask.toNat, t.info.toNat, t.addr.toNat, iword.toNat,
    depth.toNat, 0, 0]

theorem frameBytes_eq (t : Trap) (word : BitVec 4) (hdr : VA) (iword : W64) (depth : BitVec 16) :
    frameBytes t word hdr iword depth = (frameWords t word hdr iword depth).flatMap (leBytes 8) := by
  simp only [frameBytes, frameWords, List.flatMap_cons, List.flatMap_nil, List.append_assoc, List.append_nil]

/-- Every word of a trap frame fits in eight bytes. -/
theorem frameWords_lt {t : Trap} {word : BitVec 4} {hdr : VA} {iword : W64} {depth : BitVec 16} {x : Nat}
    (h : x ∈ frameWords t word hdr iword depth) : x < 256 ^ 8 := by
  have hc := t.cause.isLt
  have hw := word.isLt
  have hh := hdr.isLt
  have hm := t.mask.isLt
  have hi := t.info.isLt
  have ha := t.addr.isLt
  have hiw := iword.isLt
  have hd := depth.isLt
  simp only [frameWords, List.mem_cons, List.not_mem_nil, or_false] at h
  omega

/-- The path that runs goes on at the address given. -/
theorem setPc_runPc (pc : VA) (w : Wave) :
    ((setPc pc w).pos.paths[w.pos.run]?).map (·.pc) = (w.pos.paths[w.pos.run]?).map fun _ => pc := by
  simp only [setPc, listMod_getElem?, if_true, Option.map_map]
  rfl

/-- No lane of a mask keeps a reservation that has been cleared for it (R403). -/
theorem clearResv_out {m : Mask} {w : Wave} {e : Nat × Nat} (h : e ∈ (clearResv m w).resv) : m.getLsbD e.1 = false := by
  simpa using (List.mem_filter.mp h).2

/-- Lanes' entries of a table changed one by one are changed in those lanes alone. -/
theorem tblGet_foldl_lanes (g : W32 → W32) (l : Nat) : ∀ (ls : List Nat) (t : Tbl W32), ls.Nodup →
    tblGet 0#32 (ls.foldl (fun t l => tblSet t l (g (tblGet 0#32 t l))) t) l =
      if l ∈ ls then g (tblGet 0#32 t l) else tblGet 0#32 t l
  | [], _, _ => rfl
  | k :: ls, t, h => by
    obtain ⟨hk, hls⟩ := List.nodup_cons.mp h
    rw [List.foldl_cons, tblGet_foldl_lanes g l ls _ hls]
    by_cases hl : l = k
    · subst hl
      simp [hk]
    · simp [hl, tblGet_tblSet_ne (h := hl)]

/-- A spill or fill moves the oldest slot of its lanes by 64 (R61). -/
theorem moveOld_old (sf : SpillFill) (w : Wave) {l : Nat} (hl : l < w.width) :
    tblGet 0#32 (moveOld sf w).old l = if sf.lanes.getLsbD l then
      (if sf.fill then tblGet 0#32 w.old l - 64 else tblGet 0#32 w.old l + 64) else tblGet 0#32 w.old l := by
  have hmem : l ∈ lanesOf w.width sf.lanes ↔ sf.lanes.getLsbD l = true := by simp [lanesOf, hl]
  have hfold := tblGet_foldl_lanes (fun o => if sf.fill then o - 64 else o + 64) l (lanesOf w.width sf.lanes) w.old
    (List.nodup_range.filter _)
  simp only [hmem] at hfold
  exact hfold

/-- Settles O54: each clause by what the entry to a handler, the frame's words or a return from a handler says. -/
theorem trapEntry : Obligations.TrapEntry := by
  refine ⟨?enters, ?words, ?dead, ?spills, ?returns⟩
  case enters =>
    intro v t iword hdr word lvl d1 x hlvl hframe hx
    refine ⟨enterHandler t lvl v.p.mask v.p.depth x, ?_, rfl, rfl, rfl, rfl, rfl, rfl, setPc_runPc _ x,
      fun e he => clearResv_out he, rfl, rfl, rfl, rfl⟩
    rw [takeTrap_enters hlvl hframe]
    exact (waveOf_put_same v d1 _).trans (congrArg (Option.map _) hx)
  case words =>
    intro t word hdr iword depth
    rw [frameBytes_eq]
    refine ⟨by simp [frameWords], fun k hk => ?_⟩
    have hword : (frameWords t word hdr iword depth).getD k 0 ∈ frameWords t word hdr iword depth := by
      rw [List.getD_eq_getElem _ _ hk]
      exact List.getElem_mem hk
    rw [take_drop_words (frameWords t word hdr iword depth) k hk, leNat_leBytes, Nat.mod_eq_of_lt (frameWords_lt hword)]
    rfl
  case dead =>
    intro v t iword hdr word hlevel hstrvec hnone
    have hlvl : trapLevel v.w t.cause = none := by
      obtain hvec | hcause := hnone
      · simp [trapLevel, hlevel, hstrvec, hvec]
      · simp only [trapLevel, hlevel, hstrvec, isTrapWord, hcause]
        simp
    simp [takeTrap, hlvl, deadCause, hlevel]
  case spills =>
    intro v lanes fill d1 x hlevel hframe hx
    simp only [takeSpill, if_neg hlevel, hframe]
    exact ⟨_, (waveOf_put_same v d1 _).trans (congrArg (Option.map _) hx), rfl, rfl, rfl, setPc_runPc _ x⟩
  case returns =>
    intro sf f w l hl _
    exact ⟨rfl, rfl, rfl, rfl, moveOld_old sf w hl⟩

end Sys2Proof.Machine
end

section
/-! PROOFS. O34: a clause header that is in force (R44, R56, R141, R143, R385). -/

namespace Sys2Proof.Machine

/-- The wait fields of a header let its clause begin. -/
theorem headerWaits_pass {v : View} {h : Header} {d : Device} (hpend : v.w.tokPend &&& h.waitk = 0)
    (horph : v.w.tokOrph &&& h.waitk = 0) (hld : h.waitld = 15 ∨ loadsOut v.w ≤ h.waitld.toNat)
    (hst : h.waitst = 15 ∨ storesOut v.w ≤ h.waitst.toNat)
    (har : h.waitar = false ∧ d = v.d ∨ h.waitar = true ∧ isPending v.w (.s 63) = false ∧
      (sget v.w 63).extractLsb' 0 3 = 0 ∧ waitArrival v = .pass d) : headerWaits v h = .pass d := by
  have hcounts : ¬ (v.w.tokPend &&& h.waitk ≠ 0 ∨ (h.waitld ≠ 15 ∧ h.waitld.toNat < loadsOut v.w) ∨
      (h.waitst ≠ 15 ∧ h.waitst.toNat < storesOut v.w)) := by
    rintro (hk | ⟨hne, hlt⟩ | ⟨hne, hlt⟩)
    · exact hk hpend
    · exact absurd hlt (Nat.not_lt.mpr (hld.resolve_left hne))
    · exact absurd hlt (Nat.not_lt.mpr (hst.resolve_left hne))
  have horph' : ¬ v.w.tokOrph &&& h.waitk ≠ 0 := not_not.mpr horph
  obtain ⟨hoff, rfl⟩ | ⟨hon, hread, hspace, hpass⟩ := har
  · simp only [headerWaits, hoff, Bool.false_and, Bool.false_eq_true, if_false, if_neg horph', if_neg hcounts]
  · simp only [headerWaits, hon, hread, hspace, hpass, Bool.true_and, Bool.false_eq_true, if_true, if_false, if_neg horph',
      if_neg hcounts, ne_eq, not_true, decide_false]

/-- WAITAR passes once the generation has moved on (R143). -/
theorem waitArrival_pass {v : View} {loc : ArLoc} (hfind : arFind v v.active (sget v.w 63) true false = .at loc)
    (hgen : (arGen v.d loc).extractLsb' 0 16 ≠ (sget v.w 63).extractLsb' 48 16) :
    waitArrival v = .pass (arSeen v.core loc v.d) := by
  simp only [waitArrival, hfind, if_neg hgen]

/-- A legal header whose words can be fetched passes its structure checks (R385). -/
theorem headerChecks_clear {v : View} {h : Header} (hlegal : headerBad h = false)
    (hscan : scanWords v h ((List.range (h.count.toNat + 1)).drop v.w.pos.clpos.toNat) = .clear) : headerChecks v h = none := by
  simp only [headerChecks, hlegal, hscan, Bool.false_eq_true, if_false]

/-- Settles O34: inside the clause the header is taken without its waits, at its start after them. -/
theorem clauseHeaderResults : Obligations.ClauseHeaderResults := by
  intro h s v d hview harw hhalted hyield hlegal hscan hwaits
  have hdue : (v.w.pos.yieldDue && decide (v.w.trap.trlvl = 0) && decide (v.w.pos.clpos = 0)) = false := by
    by_contra hcon
    simp only [Bool.not_eq_false, Bool.and_eq_true, decide_eq_true_eq] at hcon
    obtain ⟨⟨hy, hl⟩, hc⟩ := hcon
    exact hyield hy hl hc
  have hbegins : beginClause v h = takeHeader { v with d := d } h := by
    simp only [beginClause, hhalted, hdue, headerChecks_clear hlegal hscan, Bool.false_eq_true, if_false]
    obtain ⟨hin, rfl⟩ | ⟨hstart, hpend, horph, hld, hst, har⟩ := hwaits
    · rw [if_pos hin]
    · have harrival : h.waitar = false ∧ d = v.d ∨ h.waitar = true ∧ isPending v.w (.s 63) = false ∧
          (sget v.w 63).extractLsb' 0 3 = 0 ∧ waitArrival v = .pass d := by
        obtain hoff | ⟨hon, hread, hspace, loc, hfind, hgen, rfl⟩ := har
        · exact .inl hoff
        · exact .inr ⟨hon, hread, hspace, waitArrival_pass hfind hgen⟩
      rw [if_neg (not_not.mpr hstart), headerWaits_pass hpend horph hld hst harrival]
  simp only [exec, execClauseHeader, onDevice, clauseStep, hview, settleArw, harw, hbegins]
  rfl

end Sys2Proof.Machine
end

section
/-! PROOFS. O58: the frame of the words with one result (R67, R165, R167, R194). -/

namespace Sys2Proof.Machine

/-! ### Registers written -/

/-- A device in which registers alone have been written: register-file words in `rf`, the wave's s registers in `sr`, its
block's registers in `br`, and flags of the wave. -/
structure RegEffect (v : View) (rf sr br : Nat → Prop) (t : Device) : Prop where
  mem : t.st.mem = v.d.st.mem
  spad : t.st.spad = v.d.st.spad
  acc : t.st.acc = v.d.st.acc
  md : t.st.md = v.d.st.md
  file : ∀ k, ¬ rf k → tblGet 0#32 t.st.rf k = tblGet 0#32 v.d.st.rf k
  others : ∀ c slot, (c, slot) ≠ (v.core, v.slot) → waveOf t c slot = waveOf v.d c slot
  blocks : ∀ b n, b ≠ v.w.block ∨ ¬ br n → (tblFind t.blocks b).map (bget · n) = (tblFind v.d.blocks b).map (bget · n)
  own : ∃ x, waveOf t v.core v.slot = some x ∧ (∀ n, ¬ sr n → sget x n = sget v.w n) ∧
    regsOf x = { regsOf v.w with sregs := x.sregs, fflags := x.fflags } ∧ hasPath x = true

variable {v : View} {rf sr br : Nat → Prop} {t : Device}

/-- Nothing is written yet. -/
theorem RegEffect.refl (hw : waveOf v.d v.core v.slot = some v.w) (hpath : hasPath v.w = true) : RegEffect v rf sr br v.d :=
  ⟨rfl, rfl, rfl, rfl, fun _ _ => rfl, fun _ _ _ => rfl, fun _ _ _ => rfl, v.w, hw, fun _ _ => rfl, rfl, hpath⟩

/-- A change of the wave's own s registers and flags. -/
theorem RegEffect.put (h : RegEffect v rf sr br t) {g : Wave → Wave} (hs : ∀ w n, ¬ sr n → sget (g w) n = sget w n)
    (hr : ∀ w, regsOf (g w) = { regsOf w with sregs := (g w).sregs, fflags := (g w).fflags })
    (hp : ∀ w, (g w).pos = w.pos) : RegEffect v rf sr br (v.put t g) := by
  obtain ⟨x, hx, hsregs, hregs, hpath⟩ := h.own
  refine ⟨h.mem, h.spad, h.acc, h.md, h.file, fun c slot hne => (waveOf_put_ne t g hne).trans (h.others c slot hne), h.blocks,
    g x, (waveOf_put_same v t g).trans (congrArg (Option.map g) hx), fun n hn => (hs x n hn).trans (hsregs n hn), ?_, ?_⟩
  · rw [hr x, hregs]
  · rw [hasPath, hp]
    exact hpath

/-- Flags collected. -/
theorem RegEffect.addFlags (h : RegEffect v rf sr br t) (fl : Flags) : RegEffect v rf sr br (v.put t (Machine.addFlags fl)) :=
  h.put (fun _ _ _ => rfl) (fun _ => rfl) fun _ => rfl

/-- A register-file word written. -/
theorem RegEffect.rfSet (h : RegEffect v rf sr br t) {k : Nat} (x : W32) (hk : rf (v.core * 65536 + k)) :
    RegEffect v rf sr br (rfSet t v.core k x) :=
  ⟨h.mem, h.spad, h.acc, h.md, fun n hn => (tblGet_tblSet_ne _ _ _ fun heq => hn (by rwa [heq])).trans (h.file n hn), h.others,
    h.blocks, h.own⟩

/-- An s register written. -/
theorem RegEffect.sput (h : RegEffect v rf sr br t) {n : Nat} (x : W64) (hn : sr n) :
    RegEffect v rf sr br (v.put t (sput n x)) :=
  h.put (fun _ _ hk => tblGet_tblSet_ne _ _ _ fun heq => hk (heq ▸ hn)) (fun _ => rfl) fun _ => rfl

/-- The block registers that a write does not name keep their values (R66). -/
theorem bget_bput_ne {slot n k : Nat} (x : W32) (b : Block) (h : k ≠ n) : bget (bput slot n x b) k = bget b k := by
  unfold bput
  split
  · rfl
  · exact tblGet_tblSet_ne _ _ _ h

/-- A block register written. -/
theorem RegEffect.bput (h : RegEffect v rf sr br t) {n : Nat} (x : W32) (hn : br n) :
    RegEffect v rf sr br (modBlock t v.w.block (bput v.slot n x)) := by
  refine ⟨h.mem, h.spad, h.acc, h.md, h.file, h.others, fun b k hk => ?_, h.own⟩
  rw [← h.blocks b k hk]
  by_cases hb : b = v.w.block
  · subst hb
    have hne : k ≠ n := fun heq => hk.elim (fun hcon => hcon rfl) fun hcon => hcon (heq ▸ hn)
    rw [tblFind_modBlock_same, Option.map_map]
    exact congrArg (Option.map · _) (funext fun b => bget_bput_ne x b hne)
  · exact congrArg (Option.map _) (tblFind_tblMod_ne _ _ hb)

/-- A pending result's register is one that may be written. -/
def Writes (v : View) (rf sr br : Nat → Prop) (r : RegLoc × W64) : Prop :=
  match r.1 with
  | .rf k => rf (v.core * 65536 + k)
  | .sreg n => sr n
  | .breg n => br n
  | .queue _ => True

/-- One result written. -/
theorem RegEffect.locPut (h : RegEffect v rf sr br t) {r : RegLoc × W64} (hr : Writes v rf sr br r) :
    RegEffect v rf sr br (locPut v.core v.slot v.w.block t r) := by
  obtain ⟨loc, x⟩ := r
  cases loc with
  | rf k => exact h.rfSet _ hr
  | sreg n => exact h.sput x hr
  | breg n => exact h.bput _ hr
  | queue j => exact h

/-- Results written. -/
theorem RegEffect.putWrites : ∀ {ws : List (RegLoc × W64)} {t : Device}, RegEffect v rf sr br t →
    (∀ r ∈ ws, Writes v rf sr br r) → RegEffect v rf sr br (putWrites v t ws)
  | [], _, h, _ => h
  | r :: _, _, h, hws =>
    (h.locPut (hws r List.mem_cons_self)).putWrites fun r' hr' => hws r' (List.mem_cons_of_mem _ hr')

/-- A word whose effect writes registers alone has their frame. -/
theorem RegEffect.framed {s : State} (h : RegEffect v rf sr br t) (hv : v.d = s.dev) :
    Framed s (Issued s v t .onward) v rf sr (fun _ => False) br := by
  obtain ⟨x, hx, hsregs, hregs, hpath⟩ := h.own
  obtain ⟨y, hy, hyregs⟩ := finish_regs hx hpath
  have hst : (Issued s v t .onward).dev.st = t.st := finish_st v t .onward
  have hsame : regsOf y = { regsOf v.w with sregs := x.sregs, fflags := x.fflags } := hyregs.trans hregs
  have hsreg : y.sregs = x.sregs := congrArg WaveRegs.sregs hyregs
  refine ⟨rfl, ?_, ?_, ?_, ?_, fun k hk => ?_, fun c slot hne => ?_, fun b n hbn => ?_, y, hy, fun n hn => ?_,
    fun n _ => ?_, congrArg WaveRegs.fmode hsame, congrArg WaveRegs.lfsr hsame, congrArg WaveRegs.wb hsame,
    congrArg WaveRegs.old hsame, congrArg WaveRegs.trap hsame, congrArg WaveRegs.gfx hsame, congrArg WaveRegs.tokPend hsame,
    congrArg WaveRegs.tokOrph hsame⟩
  · rw [hst, h.mem, hv]
  · rw [hst, h.spad, hv]
  · rw [hst, h.acc, hv]
  · rw [hst, h.md, hv]
  · rw [hst, h.file k hk, hv]
  · rw [← hv]
    exact (finish_others t .onward hne).trans (h.others c slot hne)
  · rw [← hv, ← h.blocks b n hbn]
    exact congrArg (fun bs => (tblFind bs b).map (bget · n)) (finish_blocks v t .onward)
  · rw [← hsregs n hn]
    exact congrArg (tblGet 0#64 · n) hsreg
  · have hpreds : y.preds = v.w.preds := congrArg WaveRegs.preds hsame
    rw [predMask, predMask, hpreds]

/-! ### Destinations -/

/-- The register-file words of a destination in the executing lanes. -/
def DstWord (v : View) (d : Operand) (ex : Mask) (k : Nat) : Prop :=
  ∃ n l w, d = .v n ∧ ex.getLsbD l = true ∧ vword v.w l n = some w ∧ k = v.core * 65536 + w

/-- A destination's results are in its own registers (R165). -/
theorem dstWrites_writes (v : View) (d : Operand) (ex : Mask) (x : Nat → W32) :
    ∀ r ∈ dstWrites v d ex x, Writes v (DstWord v d ex) (fun n => d = .s n) (fun n => d = .b n) r := by
  intro r hr
  cases d with
  | v n =>
    obtain ⟨l, hl, hlane⟩ := List.mem_filterMap.mp hr
    obtain ⟨k, hk, rfl⟩ := Option.map_eq_some_iff.mp hlane
    exact ⟨n, l, k, rfl, (List.mem_filter.mp hl).2, hk, rfl⟩
  | s n =>
    unfold dstWrites at hr
    dsimp only at hr
    split at hr
    · rw [List.mem_singleton.mp hr]
      exact rfl
    · cases hr
  | b n =>
    unfold dstWrites at hr
    dsimp only at hr
    split at hr
    · rw [List.mem_singleton.mp hr]
      exact rfl
    · cases hr
  | _ => cases hr

/-- A scalar result is in its destination (R194). -/
theorem scalarPut_writes (v : View) (d : Operand) (ex : Mask) (x : W64) :
    ∀ r ∈ scalarPut d x, Writes v (DstWord v d ex) (fun n => d = .s n) (fun n => d = .b n) r := by
  intro r hr
  cases d with
  | s n =>
    rw [List.mem_singleton.mp hr]
    exact rfl
  | b n =>
    rw [List.mem_singleton.mp hr]
    exact rfl
  | _ => cases hr

/-! ### The words with one result -/

/-- A word's effect is its results in D: lane by lane, or the one result of a scalar word, with its flags or without. -/
def OneResult (j : Job) (d : Operand) : Prop :=
  (∀ v ex, ∃ once ops res, (∀ o ∈ ops, o ∈ j.pops) ∧ j.act v ex = destEffect v once ex d none ops res) ∨
  (∀ v ex, ∃ fl x, j.act v ex = .done (putWrites v (v.put v.d (addFlags fl)) (scalarPut d x)) .onward) ∨
  (∀ v ex, ∃ x, j.act v ex = .done (putWrites v v.d (scalarPut d x)) .onward)

/-- Jobs of the same effect and pops. -/
theorem OneResult.congr {j k : Job} {d : Operand} (h : OneResult j d) (hact : k.act = j.act) (hpops : k.pops = j.pops) :
    OneResult k d := by
  rw [OneResult, hact, hpops]
  exact h

theorem aluJob_oneResult {opc : BitVec 8} {w : WordA} {n : Nat} {uniOk : Bool} {fps : List Bool} {legal : List Check}
    {f : View → Nat → List W32 → W32 × Flags} : OneResult (aluJob opc w n uniOk none fps legal f) w.d :=
  .inl fun v ex => ⟨w.u || v.uni, ((aSrcs w n).zip fps).map (·.1), _, fun o ho => by
    obtain ⟨p, hp, rfl⟩ := List.mem_map.mp ho
    exact (List.of_mem_zip hp).1, rfl⟩

theorem intJob_oneResult {opc : BitVec 8} {w : WordA} {n : Nat} {sat : Bool} {f : Int → Int → Int → Int} :
    OneResult (intJob opc w n sat f) w.d := aluJob_oneResult

theorem bitJob_oneResult {opc : BitVec 8} {w : WordA} {n : Nat} {sub : List Check} {f : W32 → W32 → W32 → W32} :
    OneResult (bitJob opc w n sub f) w.d := aluJob_oneResult

theorem fpJob_oneResult {opc : BitVec 8} {w : WordA} {n rmHi : Nat} {f : View → List FVal → FVal × Flags} :
    OneResult (fpJob opc w n rmHi f) w.d := aluJob_oneResult

theorem packJob_oneResult {opc : BitVec 8} {w : WordA} {n rmHi : Nat} {f : Fmt → Rm → List FVal → FVal × Flags} :
    OneResult (packJob opc w n rmHi f) w.d := aluJob_oneResult

theorem immJob_oneResult {opc : BitVec 8} {w : WordI} {useA fp : Bool} {legal : List Check} {f : View → W32 → W32 × Flags} :
    OneResult (immJob opc w useA fp legal f) w.d :=
  .inl fun v ex => ⟨iUni w || v.uni, (if useA then [(w.a, fp)] else []).map (·.1), _, fun o ho => by
    cases useA with
    | true => exact ho
    | false => exact ho, rfl⟩

theorem crossJob_oneResult {opc : BitVec 8} {w : WordA} {n : Nat} {legal : View → List Check}
    {f : View → Mask → (Nat → Nat → W32) → Nat → W32 × Flags} : OneResult (crossJob opc w n legal f) w.d :=
  .inl fun _ _ => ⟨false, aSrcs w n, _, fun _ ho => ho, rfl⟩

theorem reduceJob_oneResult {opc : BitVec 8} {w : WordA} {scan : Bool} : OneResult (reduceJob opc w scan) w.d :=
  .inl fun _ _ => ⟨false, [w.a], _, fun _ ho => ho, rfl⟩

theorem scalarJob_oneResult {opc : BitVec 8} {w : WordA} {n : Nat} {sat : Bool} {legal : List Check}
    {f : W64 → W64 → W64 → W64 × Flags} : OneResult (scalarJob opc w n sat legal f) w.d :=
  .inr (.inl fun v _ => ⟨(f (src64 v w.a) (src64 v w.b) (src64 v w.c)).2, (f (src64 v w.a) (src64 v w.b) (src64 v w.c)).1,
    rfl⟩)

theorem scalarInt_oneResult {opc : BitVec 8} {w : WordA} {n : Nat} {sat : Bool} {f : Nat → Int → Int → Int → Int} :
    OneResult (scalarInt opc w n sat f) w.d := scalarJob_oneResult

theorem scalarShift_oneResult {opc : BitVec 8} {w : WordA} {f : (n : Nat) → BitVec n → Nat → BitVec n} :
    OneResult (scalarShift opc w f) w.d := scalarJob_oneResult

theorem scalarImm_oneResult {opc : BitVec 8} {w : WordI} {useA : Bool} {f : View → W64} :
    OneResult (scalarImm opc w useA f) w.d :=
  .inr (.inr fun v _ => ⟨f v, rfl⟩)

/-- Operands without queues pop nothing. -/
theorem popWalk_noQueue (v : View) : ∀ (ops : List Operand) (seen : List Nat), (∀ o ∈ ops, queueOfOp o = none) →
    (popWalk v ops seen).2 = none
  | [], _, _ => rfl
  | o :: ops, seen, h => by
    simp only [popWalk, h o List.mem_cons_self]
    exact popWalk_noQueue v ops seen fun o' ho' => h o' (List.mem_cons_of_mem _ ho')

/-- Operands without queues remove no entry. -/
theorem popApply_noQueue (v : View) (d : Device) {ops : List Operand} (h : ∀ o ∈ ops, queueOfOp o = none) :
    popApply v d ops = d := by
  have hnone : popsOf ops = [] := by simpa [popsOf, List.filterMap_eq_nil_iff] using h
  rw [popApply, hnone]
  rfl

/-- A lane-by-lane result in a register is written with its flags. -/
theorem destEffect_register {v : View} {once : Bool} {ex : Mask} {d : Operand} {ops : List Operand}
    {res : List (List W32) → Nat → W32 × Flags} (hops : ∀ o ∈ ops, queueOfOp o = none) (hd : ∀ q, d ≠ .q q) :
    ∃ fl x, destEffect v once ex d none ops res = .done (putWrites v (v.put v.d (addFlags fl)) (dstWrites v d ex x)) .onward := by
  obtain ⟨ents, hents⟩ : ∃ ents, popWalk v ops [] = (ents, none) := ⟨_, Prod.ext rfl (popWalk_noQueue v ops [] hops)⟩
  refine ⟨wordFlags v once ex (res ents), fun l => (res ents l).1, destEffect_lands hents ?_⟩
  unfold Lands
  rw [popApply_noQueue v v.d hops]
  cases d with
  | q j => exact absurd rfl (hd j)
  | _ => rfl

/-- The effect of a word with one result is its registers' and its flags'. -/
theorem OneResult.effect {j : Job} {d : Operand} (h : OneResult j d) {v : View} {ex : Mask}
    (hpops : ∀ o ∈ j.pops, queueOfOp o = none) (hd : ∀ q, d ≠ .q q) (hw : waveOf v.d v.core v.slot = some v.w)
    (hpath : hasPath v.w = true) :
    ∃ t, j.act v ex = .done t .onward ∧ RegEffect v (DstWord v d ex) (fun n => d = .s n) (fun n => d = .b n) t := by
  obtain hlanes | hscalar | hplain := h
  · obtain ⟨once, ops, res, hops, hact⟩ := hlanes v ex
    obtain ⟨fl, x, heff⟩ := destEffect_register (v := v) (once := once) (ex := ex) (res := res)
      (fun o ho => hpops o (hops o ho)) hd
    exact ⟨_, hact.trans heff, ((RegEffect.refl hw hpath).addFlags fl).putWrites (dstWrites_writes v d ex x)⟩
  · obtain ⟨fl, x, hact⟩ := hscalar v ex
    exact ⟨_, hact, ((RegEffect.refl hw hpath).addFlags fl).putWrites (scalarPut_writes v d ex x)⟩
  · obtain ⟨x, hact⟩ := hplain v ex
    exact ⟨_, hact, (RegEffect.refl hw hpath).putWrites (scalarPut_writes v d ex x)⟩

/-- Each of the words with one result has it in its destination. -/
theorem oneResult_of {i : Instr} {j : Job} {d : Operand} (hd : resultOperand i = some d) (hj : wordJob i = some j) :
    OneResult j d := by
  cases i <;> cases hd <;> cases hj
  case iadd | isub | imul | imulh | imad | imin | imax => exact intJob_oneResult
  case shl | shr | sar | bfe | bfi | popc | clz | ctz | brev | blut | mov => exact bitJob_oneResult
  case fadd | fmul | ffma | fmin | fmax => exact fpJob_oneResult
  case hadd2 | hmul2 | hfma2 | hmin2 | hmax2 => exact packJob_oneResult
  case idp4 | fshf | fclass | frnd | ffrc | fldexp | hdot2 | qdot4 => exact aluJob_oneResult
  case sel w => exact (aluJob_oneResult (opc := 0x22) (uniOk := true) (legal := [])).congr rfl rfl
  case iaddi | imuli | andi | ori | xori | faddi | fmuli => exact immJob_oneResult
  case movi w => exact (immJob_oneResult (opc := 0x24) (useA := false) (fp := false) (legal := [])
    (f := fun _ _ => (w.imm, 0))).congr rfl rfl
  case shfl w =>
    unfold jobShfl
    exact crossJob_oneResult
  case bcast | matchLanes | bsel => exact crossJob_oneResult
  case wred | wscan => exact reduceJob_oneResult
  case sadd | ssub | smul | smulh | smad | smin | smax => exact scalarInt_oneResult
  case sshl | sshr | ssar => exact scalarShift_oneResult
  case sblut | smov | slea => exact scalarJob_oneResult
  case smovi | smovh | saddi => exact scalarImm_oneResult

/-- Settles O58: the words with one result write D's registers and flags alone. -/
theorem resultWordFrame : Obligations.ResultWordFrame := by
  intro i j d s v ex hresult hj hissues hpops hqueue
  obtain ⟨hwave, hpath⟩ := view_wave hissues.sel
  have hdev : v.d = s.dev := view_dev hissues.sel
  rw [← hdev] at hwave
  obtain ⟨t, hact, heffect⟩ := (oneResult_of hresult hj).effect (ex := ex) hpops hqueue hwave hpath
  exact ⟨_, (exec_word hj s).trans (runJob_done hissues hact), heffect.framed hdev⟩

end Sys2Proof.Machine
end

section
/-! PROOFS. O59: the words that store nothing (R67, R149, R165, R221). -/

namespace Sys2Proof.Machine

/-! ### Devices whose memories stay -/

/-- A device with the memories of the view's and its waves but for the view's own. -/
structure Quiet (v : View) (t : Device) : Prop where
  mem : t.st.mem = v.d.st.mem
  spad : t.st.spad = v.d.st.spad
  acc : t.st.acc = v.d.st.acc
  md : t.st.md = v.d.st.md
  others : ∀ c slot, (c, slot) ≠ (v.core, v.slot) → waveOf t c slot = waveOf v.d c slot

variable {v : View} {t u : Device}

theorem Quiet.refl (v : View) : Quiet v v.d := ⟨rfl, rfl, rfl, rfl, fun _ _ _ => rfl⟩

/-- A change of the view's own wave. -/
theorem Quiet.put (h : Quiet v t) (g : Wave → Wave) : Quiet v (v.put t g) :=
  ⟨h.mem, h.spad, h.acc, h.md, fun c slot hne => (waveOf_put_ne t g hne).trans (h.others c slot hne)⟩

/-- Caches move. -/
theorem Quiet.touched (h : Quiet v t) (ht : Touched t u) : Quiet v u := by
  have hw : ∀ c slot, (c, slot) ≠ (v.core, v.slot) → waveOf u c slot = waveOf v.d c slot := fun c slot hne =>
    (ht.waves c slot).trans (h.others c slot hne)
  obtain ⟨cs, ks, hs, l, rfl⟩ := ht.rest
  exact ⟨h.mem, h.spad, h.acc, h.md, hw⟩

/-- A change of a core that leaves its waves. -/
theorem Quiet.modCore (h : Quiet v t) (core : Nat) {g : Core → Core} (hg : ∀ k, (g k).waves = k.waves) :
    Quiet v (modCore t core g) := h.touched (modCore_touched t core hg)

/-- A change of an access-processor queue. -/
theorem Quiet.modApq (h : Quiet v t) (core j : Nat) (f : ApQueue → ApQueue) : Quiet v (modApq t core j f) :=
  h.modCore core (g := fun k => { k with queues := tblSet k.queues j (f (tblGet blankApQueue k.queues j)) }) fun _ => rfl

/-- Entries popped. -/
theorem Quiet.popApply (h : Quiet v t) (ops : List Operand) : Quiet v (popApply v t ops) := by
  unfold Machine.popApply
  induction popsOf ops generalizing t with
  | nil => exact h
  | cons j js ih => exact ih (h.modApq v.core j _)

/-- One result written. -/
theorem Quiet.locPut (h : Quiet v t) (r : RegLoc × W64) : Quiet v (locPut v.core v.slot v.w.block t r) := by
  obtain ⟨loc, x⟩ := r
  cases loc with
  | rf k => exact ⟨h.mem, h.spad, h.acc, h.md, h.others⟩
  | sreg n => exact h.put (sput n x)
  | breg n => exact ⟨h.mem, h.spad, h.acc, h.md, h.others⟩
  | queue j => exact h

/-- Results written. -/
theorem Quiet.putWrites : ∀ {ws : List (RegLoc × W64)} {t : Device}, Quiet v t → Quiet v (putWrites v t ws)
  | [], _, h => h
  | r :: _, _, h => (h.locPut r).putWrites

/-- An event. -/
theorem Quiet.emit (h : Quiet v t) (src : Source) (what : EventKind) : Quiet v (emit t src what) :=
  ⟨h.mem, h.spad, h.acc, h.md, h.others⟩

/-! ### Effects -/

/-- Where an effect is done, the memories stay. -/
def QuietEff (v : View) (e : Eff) : Prop := ∀ d pos, e = .done d pos → Quiet v d

theorem Quiet.done (h : Quiet v t) (pos : Pos) : QuietEff v (.done t pos) := fun _ _ heq => by
  cases heq
  exact h

theorem quietEff_hold (v : View) (d : Device) : QuietEff v (.hold d) := fun _ _ heq => nomatch heq

theorem quietEff_trap (v : View) (x : Trap) : QuietEff v (.trap x) := fun _ _ heq => nomatch heq

/-- A word with one destination that is no queue (R165). -/
theorem destEffect_quiet {once : Bool} {ex : Mask} {d : Operand} {la : Option (BitVec 4)} {ops : List Operand}
    {res : List (List W32) → Nat → W32 × Flags} (hd : queueOfOp d = none) : QuietEff v (destEffect v once ex d la ops res) := by
  unfold destEffect
  split
  · exact quietEff_trap v _
  · dsimp only
    split
    · exact nomatch hd
    · split
      · exact (((Quiet.refl v).popApply ops).put _).done _
      · exact (((Quiet.refl v).popApply ops).put _).putWrites.done _

/-- A load of global memory (R221). -/
theorem globalRead_quiet {once : Bool} {ex : Mask} {tl : MemTail} {r : Reader} {const fresh : Bool}
    {as : List (Nat × Nat × Nat)} {next : List RemotePart → List (Nat × List Byte) → Device → Eff}
    (h : ∀ ports xs d, Quiet v d → QuietEff v (next ports xs d)) :
    QuietEff v (globalRead v once ex tl r const fresh as next) := by
  have hacq : Quiet v (acquired v tl) := by
    unfold acquired
    split
    · exact (Quiet.refl v).touched (l1Acquire_touched v.d v.core)
    · exact .refl v
  unfold globalRead
  split
  · exact quietEff_hold v _
  · split
    · exact quietEff_hold v _
    · exact quietEff_trap v _
    · refine h _ _ _ (Quiet.touched ?_ (loadLanes_touched _ _ _ _ _ _))
      split
      · exact hacq.modCore v.core (g := fun k => { k with l1 := _ }) fun _ => rfl
      · exact hacq

/-- A load outstanding. -/
theorem loadDone_quiet (h : Quiet v t) (ports : List RemotePart) (la : BitVec 4) (ws : List (RegLoc × W64)) :
    QuietEff v (loadDone v ports t la ws) := (h.put _).done _

/-- A load of scratchpad (R223). -/
theorem spadAccess_quiet {once : Bool} {ex : Mask} {tl : MemTail} {n : Nat} {ld st merge : Bool}
    {as : List (Nat × Nat × Nat × Nat)} {next : Device → Eff} (h : ∀ d, Quiet v d → QuietEff v (next d)) :
    QuietEff v (spadAccess v once ex tl n ld st merge as next) := by
  unfold spadAccess
  split
  · exact quietEff_hold v _
  · split
    · exact quietEff_trap v _
    · refine h _ (Quiet.put ?_ _)
      unfold acquired
      split
      · exact (Quiet.refl v).touched (l1Acquire_touched v.d v.core)
      · exact .refl v

/-! ### The words -/

/-- A job stores nothing. -/
def QuietJob (j : Job) : Prop := ∀ v ex, QuietEff v (j.act v ex)

theorem cmpJob_quiet {opc : BitVec 8} {w : WordP} {fp : Bool} {types : List Nat} {conds : Nat}
    {f : View → W32 → W32 → Bool × Flags} : QuietJob (cmpJob opc w fp types conds f) := fun v ex => by
  dsimp only [cmpJob]
  split
  · exact quietEff_trap v _
  · exact (((Quiet.refl v).popApply _).put _).done _

theorem approxJob_quiet {opc : BitVec 8} {w : WordA} {f : W32 → FVal → FVal × Flags} (hd : (queueOfOp w.d).isNone = true) :
    QuietJob (approxJob opc w f) := fun v ex => by
  dsimp only [approxJob, aluJob, aluEffect]
  exact destEffect_quiet (Option.isNone_iff_eq_none.mp hd)

theorem derivJob_quiet {opc : BitVec 8} {w : WordA} {hi lo : Nat → Nat} (hd : (queueOfOp w.d).isNone = true) :
    QuietJob (derivJob opc w hi lo) := fun v ex => by
  dsimp only [derivJob, crossJob]
  exact destEffect_quiet (Option.isNone_iff_eq_none.mp hd)

theorem loadJob_quiet {opc : BitVec 8} {w : WordM} {const fresh : Bool} {legal : List Check} :
    QuietJob (loadJob opc w const fresh legal fun _ _ d => d) := fun v ex => by
  dsimp only [loadJob]
  exact globalRead_quiet fun _ _ _ hq => loadDone_quiet hq _ _ _

theorem jobLpush_quiet {w : WordA} (hd : (queueOfOp w.d).isNone = true) : QuietJob (jobLpush w) := fun v ex => by
  dsimp only [jobLpush]
  split
  · exact quietEff_trap v _
  · exact destEffect_quiet (Option.isNone_iff_eq_none.mp hd)

theorem jobBallot_quiet {w : WordA} (hd : (queueOfOp w.d).isNone = true) : QuietJob (jobBallot w) := fun v ex => by
  dsimp only [jobBallot]
  split
  · exact (Quiet.refl v).putWrites.done _
  · exact destEffect_quiet (Option.isNone_iff_eq_none.mp hd)

theorem jobCvt_quiet {w : WordA} (hd : (queueOfOp w.d).isNone = true) : QuietJob (jobCvt w) := fun v ex => by
  dsimp only [jobCvt]
  split
  · exact quietEff_trap v _
  · split
    next hq =>
      rw [hq] at hd
      exact nomatch hd
    · exact (((Quiet.refl v).popApply _).put _).putWrites.done _

theorem jobWrsr_quiet {w : WordI} : QuietJob (jobWrsr w) := fun v ex => by
  dsimp only [jobWrsr]
  split
  · exact ((Quiet.refl v).put _).done _
  · exact ((Quiet.refl v).put _).done _

/-- Reading a word's record does nothing else that is done. -/
theorem readRecord_stop {rc : Nat} {ex : Mask} {e : Eff} (h : readRecord v rc ex = .stop e) : QuietEff v e := by
  unfold readRecord at h
  dsimp only at h
  split at h
  · cases h
    exact quietEff_hold v _
  · cases h
    exact quietEff_trap v _
  · split at h
    · cases h
      exact quietEff_trap v _
    · cases h

theorem jobTexq_quiet {w : WordB} : QuietJob (jobTexq w) := fun v ex => by
  dsimp only [jobTexq]
  split
  · exact quietEff_hold v _
  · split
    next he => exact readRecord_stop he
    · exact (((Quiet.refl v).put _).touched (loadTouch_touched _ _ _ _ _ _)).done _

theorem jobLds_quiet {w : WordM} : QuietJob (jobLds w) := fun v ex => by
  dsimp only [jobLds]
  exact spadAccess_quiet fun _ hq => loadDone_quiet hq _ _ _

theorem jobSld_quiet {w : WordM} : QuietJob (jobSld w) := fun v ex => by
  dsimp only [jobSld]
  exact globalRead_quiet fun _ _ _ hq => loadDone_quiet hq _ _ _

theorem jobQgath_quiet {w : WordE} : QuietJob (jobQgath w) := fun v ex => by
  dsimp only [jobQgath, eJob]
  split
  · exact quietEff_hold v _
  · exact ((Quiet.refl v).modApq _ _ _).done _

theorem jobQscat_quiet {w : WordE} : QuietJob (jobQscat w) := fun v ex => by
  dsimp only [jobQscat, eJob]
  split
  · exact quietEff_hold v _
  · exact ((Quiet.refl v).modApq _ _ _).done _

theorem jobQflush_quiet {w : WordE} : QuietJob (jobQflush w) := fun v ex => by
  dsimp only [jobQflush, eJob]
  refine (Quiet.put ?_ _).done _
  split
  · exact (Quiet.refl v).modCore v.core (g := fun k => { k with queues := tblErase k.queues (qNum w) }) fun _ => rfl
  · exact .refl v

theorem jobAlcqry_quiet {w : WordE} : QuietJob (jobAlcqry w) := fun v ex => by
  dsimp only [jobAlcqry, eJob]
  split
  · exact quietEff_hold v _
  · exact ((Quiet.refl v).put _).done _

/-- PERFC asks for a class in its block's and its hall's records alone (R336). -/
theorem jobPerfc_quiet {w : WordA} : QuietJob (jobPerfc w) := fun v ex => by
  have hq : Quiet v (modCk (modBlock v.d v.w.block fun b =>
      { b with preq := recordClass v.d v.hall ((src64 v w.a).toNat % 8) }) v.hall fun k => { k with due := true }) :=
    ⟨rfl, rfl, rfl, rfl, fun _ _ _ => rfl⟩
  exact (hq.put _).done _

theorem jobBkpt_quiet {w : WordK} : QuietJob (jobBkpt w) := fun v ex => by
  dsimp only [jobBkpt, controlJob]
  split
  · exact (((Quiet.refl v).put _).emit _ _).done _
  · exact (Quiet.refl v).done _

theorem jobWaitk_quiet {w : WordK} : QuietJob (jobWaitk w) := fun v ex => by
  dsimp only [jobWaitk, controlJob]
  split
  · exact quietEff_hold v _
  · exact (Quiet.refl v).done _

/-- Each word of the list stores nothing. -/
theorem quietJob_of {i : Instr} {j : Job} (hs : storesNothing i = true) (hj : wordJob i = some j) : QuietJob j := by
  cases i
  case icmp | fcmp => cases hj; exact cmpJob_quiet
  case plut | vote | scmp | discard => cases hj; exact fun v _ => ((Quiet.refl v).put _).done _
  case lpush => cases hj; exact jobLpush_quiet hs
  case pair => cases hj; exact fun v _ => ((Quiet.refl v).put _).putWrites.done _
  case readlane | writelane | rdsr | rdcnt => cases hj; exact fun v _ => (Quiet.refl v).putWrites.done _
  case wrsr => cases hj; exact jobWrsr_quiet
  case ld | ldc => cases hj; exact loadJob_quiet
  case lds => cases hj; exact jobLds_quiet
  case sld => cases hj; exact jobSld_quiet
  case texq => cases hj; exact jobTexq_quiet
  case bra | brv | jmp | jmpi | exit => cases hj; exact fun v _ => ((Quiet.refl v).put _).done _
  case yield | halt => cases hj; exact fun v _ => ((Quiet.refl v).put _).done _
  case nop => cases hj; exact fun v _ => (Quiet.refl v).done _
  case waitk => cases hj; exact jobWaitk_quiet
  case bkpt => cases hj; exact jobBkpt_quiet
  case qgath => cases hj; exact jobQgath_quiet
  case qscat => cases hj; exact jobQscat_quiet
  case qflush => cases hj; exact jobQflush_quiet
  case qstat => cases hj; exact fun v _ => ((Quiet.refl v).put _).done _
  case alcqry => cases hj; exact jobAlcqry_quiet
  case perfc => cases hj; exact jobPerfc_quiet
  case frcp | frsq | fsqrt | fexp2 | flog2 | fsin | fcos => cases hj; exact approxJob_quiet hs
  case cvt => cases hj; exact jobCvt_quiet hs
  case ballot => cases hj; exact jobBallot_quiet hs
  case ddx | ddy => cases hj; exact derivJob_quiet hs
  all_goals exact absurd hs Bool.false_ne_true

/-- Settles O59: each word's effect leaves the memories and the other waves, and so does the end of a word. -/
theorem quietWordFrame : Obligations.QuietWordFrame := by
  intro i j s v ex d pos hs hj hissues hact
  have hquiet : Quiet v d := quietJob_of hs hj v ex d pos hact
  have hdev : v.d = s.dev := view_dev hissues.sel
  have hst : (Issued s v d pos).dev.st = d.st := finish_st v d pos
  refine ⟨_, (exec_word hj s).trans (runJob_done hissues hact), rfl, ?_, ?_, ?_, ?_, fun c slot hne => ?_⟩
  · rw [hst, hquiet.mem, hdev]
  · rw [hst, hquiet.spad, hdev]
  · rw [hst, hquiet.acc, hdev]
  · rw [hst, hquiet.md, hdev]
  · rw [← hdev]
    exact (finish_others d pos hne).trans (hquiet.others c slot hne)

end Sys2Proof.Machine
end

section
/-! PROOFS. O35: the completions of long-latency operations (R131, R143, R149, R209, R213, R256, R310, R336). -/

namespace Sys2Proof.Machine

/-! ### Steps of agents -/

/-- A step of another agent that is a function of the die leaves what the function gives. -/
theorem dieGoes_of {i : Instr} {s : State} {f : Device → Device} {t : Device} (hi : exec i s = runDevice f s)
    (hf : f s.dev = t) : DieGoes i s t := by
  rw [DieGoes, hi, runDevice_eq, hf]

/-- While the clock of its hall runs, a unit makes its step. -/
theorem onHall_runs {d : Device} {h : Nat} (f : Device → Device) (hr : engineRuns d h = true) : onHall h f d = f d := if_pos hr

/-- An outstanding operation completes. -/
theorem completeKind_found {d : Device} {core slot : Nat} {kind : OpKind} {op : Nat} {w : Wave} {o : LongOp}
    (hw : waveOf d core slot = some w) (ho : findOp w kind op = some o) :
    completeKind d core slot kind op = completeOp d core slot w o := by
  simp only [completeKind, hw, ho]

/-- Every wave forgets its failed walks. -/
theorem waveOf_forgetWalks (d : Device) (core slot : Nat) :
    waveOf (forgetWalks d) core slot = (waveOf d core slot).map fun w => { w with walkFaults := [] } := by
  simp only [waveOf, coreOf, forgetWalks, tblGet_eq, tblFind_tblMap]
  cases tblFind d.cores core with
  | none => rfl
  | some k => exact tblFind_tblMap (fun _ w => { w with walkFaults := [] }) k.waves slot

/-- Walks forgotten leave a wave its block and its operations. -/
theorem completeKind_forgetWalks {d : Device} {core slot : Nat} {kind : OpKind} {op : Nat} {w : Wave} {o : LongOp}
    (hw : waveOf d core slot = some w) (ho : findOp w kind op = some o) :
    completeKind (forgetWalks d) core slot kind op = completeOp (forgetWalks d) core slot w o := by
  have hforget : waveOf (forgetWalks d) core slot = some { w with walkFaults := [] } := by
    rw [waveOf_forgetWalks, hw, Option.map_some]
  exact (completeKind_found hforget ho).trans rfl

/-- Settles O35: each kind by the course of its completion. -/
theorem completionSteps : Obligations.CompletionSteps := by
  refine ⟨?alu, ?load, ?query, ?tlbinv, ?ack, ?perfc, ?rest, ?save, ?attach, ?refused, ?image⟩
  case alu =>
    intro core slot op s w o hr hw ho
    exact dieGoes_of rfl ((onHall_runs _ hr).trans (completeKind_found hw ho))
  case load =>
    intro core slot op s w o hr hw ho
    exact dieGoes_of rfl ((onHall_runs _ hr).trans (completeKind_found hw ho))
  case query =>
    intro core slot op s w o hr hw ho
    exact dieGoes_of rfl ((onHall_runs _ hr).trans (completeKind_found hw ho))
  case tlbinv =>
    intro core slot op s w o hr hw ho
    refine dieGoes_of rfl ((onHall_runs _ hr).trans ?_)
    simp only [hw, Option.bind_some, ho, Option.isSome_some, if_true]
    exact completeKind_forgetWalks hw ho
  case ack =>
    intro core slot op s w o hr hw
    refine ⟨fun hflush hcwb ho => ?_, fun hflush ho => ?_, fun ho hafter => ?_⟩
    · refine dieGoes_of rfl ((onHall_runs _ hr).trans ?_)
      simp only [ackStore, hw, hflush, hcwb, Option.isSome_none, Bool.false_and, Bool.false_eq_true, if_false]
      exact completeKind_found hw ho
    · refine dieGoes_of rfl ((onHall_runs _ hr).trans ?_)
      simp only [ackStore, hw, hflush, ho, Option.isSome_none, Option.isSome_some, Bool.false_and, Bool.false_eq_true,
        if_false, if_true]
      exact completeKind_found hw ho
    · have hnone : (w.ops.any fun e => decide (e.kind = .store) && decide (e.id < op)) = false := by
        rw [List.any_eq_false]
        intro e he hcon
        simp only [Bool.and_eq_true, decide_eq_true_eq] at hcon
        exact absurd hcon.2 (Nat.not_lt.mpr (hafter e he hcon.1))
      refine dieGoes_of rfl ((onHall_runs _ hr).trans ?_)
      simp only [ackStore, hw, hnone, ho, Option.isSome_some, Bool.not_false, Bool.and_true, if_true]
      exact completeKind_found hw ho
  case perfc =>
    intro core slot op s w o b t ts hr hw ho hb hargs h hclass
    refine dieGoes_of rfl ((onHall_runs _ hr).trans ?_)
    simp only [perfcComplete, hw, ho, hargs]
    rw [if_pos hclass]
    simp only [perfcDone, hb]
    rfl
  case rest =>
    intro core slot op s w o hr hw hsave ho
    refine dieGoes_of rfl ((onHall_runs _ hr).trans ?_)
    simp only [recordDone, hw, hsave]
    exact completeKind_found hw ho
  case save =>
    intro core slot op bid s w o b g d2 hr hw ho hbid hb hhalted mine va d1 hbusy hg hwrite
    refine dieGoes_of rfl ((onHall_runs _ hr).trans ?_)
    have hrecord : saveRecord d1 w.ctx va bid b = .ok d2 := by
      simp only [saveRecord, hg]
      exact hwrite
    have hbusy' : saveBusy (settleOps s.dev fun x => decide (x = bid)) (fun x => decide (x = bid)) = false := hbusy
    have hrecord' : saveRecord (settleOps s.dev fun x => decide (x = bid)) w.ctx (vaNat (o.args.headD 0).toNat) bid b =
      .ok d2 := hrecord
    simp only [recordDone, hw, ho, recordSave, hbid, hb, hhalted, hbusy', hrecord', Bool.not_true, Bool.false_eq_true, if_false]
    rfl
  case attach =>
    intro core slot op s w b o hr hw ho hb
    refine ⟨fun hargs => ?_, fun name rest d x hargs hlen hfound hmade htry => ?_⟩
    · refine dieGoes_of rfl ((onHall_runs _ hr).trans ?_)
      simp only [attComplete, hw, ho, hb, hargs]
    · refine dieGoes_of rfl ((onHall_runs _ hr).trans ?_)
      have hagain : attachAgain s.dev w.block b name (rest.getD 5 0).toNat (decide (rest.length = 7)) = .done d x := by
        simp only [attachAgain, hlen, hmade, Option.isNone_iff_eq_none, Option.isSome_iff_ne_none.mp hfound, htry]
        simp
      simp only [attComplete, hw, ho, hb, hargs, hagain]
  case refused =>
    intro core slot op s w o hr hw ho hreason
    have hexec : exec (.csloadComplete core slot op) s = .next { s with dev := completeKind s.dev core slot .csload op } := by
      simp only [exec, execCsloadComplete, hw, Option.bind_some, ho, hr, if_true, csloadEnd, if_neg hreason]
    rw [DieGoes, hexec, completeKind_found hw ho]
  case image =>
    intro core slot op s w o hr hw ho hreason y bs
    simp only [exec, execCsloadComplete, hw, Option.bind_some, ho, hr, if_true, csloadEnd, hreason]
    rfl

end Sys2Proof.Machine
end

section
/-! PROOFS. O36: gather streams, alcove moves and copy queues (R85, R86, R97, R239, R246, R247, R252). -/

namespace Sys2Proof.Machine

/-- A queue whose last entry is data keeps its entries when failed fetches are dropped. -/
theorem dropBad_eq {q : ApQueue} (h : ∀ e, q.entries.getLast? = some e → ∃ k, e = .data k) : dropBad q = q := by
  unfold dropBad
  split
  next hbad =>
    obtain ⟨k, hk⟩ := h _ hbad
    exact nomatch hk
  · rfl

/-- A queue changed reads as changed. -/
theorem apqOf_modApq_same (d : Device) (core j : Nat) (f : ApQueue → ApQueue) :
    apqOf (modApq d core j f) core j = f (apqOf d core j) := by
  simp only [apqOf, modApq, coreOf_modCore_same, tblGet_tblSet_same]

/-- An alcove's eviction that moves its last units ends (R85). -/
theorem evictStep_done {d t : Device} {i k : Nat} (hstate : (alcOf d i).state = 1) (hbusy : (alcOf d i).busy = true)
    (hparked : (alcOf d i).parked = none)
    (hmove : alcMove (alcOf d i) (alcOf d i).hall.toNat (.spad (alcCore (alcOf d i)) (4096 * (alcOf d i).offset.toNat))
      (.virt (alcOf d i).backing.toNat) d = (t, k, none)) :
    evictStep d i = evictDone (alcOf d i).owner.toNat (alcOf d i).name
      (modAlc t i fun a => { a with state := 2, busy := false, unit := 0 }) := by
  have hgoes : ¬ ((alcOf d i).state ≠ 1 ∨ (!(alcOf d i).busy) = true ∨ (alcOf d i).parked.isSome = true) := by
    simp [hstate, hbusy, hparked]
  simp only [evictStep, if_neg hgoes, hmove]

/-- An alcove's refill that moves its last units ends (R86). -/
theorem refillStep_done {d t : Device} {i c g k : Nat} (hstate : (alcOf d i).state = 2)
    (htarget : (alcOf d i).target = some (c, g)) (hparked : (alcOf d i).parked = none)
    (hmove : alcMove (alcOf d i) (hallOfCore c) (.virt (alcOf d i).backing.toNat) (.spad c (4096 * g)) d = (t, k, none)) :
    refillStep d i = modAlc t i fun a =>
      { a with state := 1, busy := false, target := none, unit := 0, hall := BitVec.ofNat 7 (c / 4), core := BitVec.ofNat 2 (c % 4)
               offset := BitVec.ofNat 6 g } := by
  have hgoes : ¬ ((alcOf d i).state ≠ 2 ∨ (alcOf d i).parked.isSome = true) := by simp [hstate, hparked]
  simp only [refillStep, htarget, if_neg hgoes, hmove]

/-- Settles O36: each step by the conditions under which its agent makes it. -/
theorem queueAlcoveAndCopySteps : Obligations.QueueAlcoveAndCopySteps := by
  refine ⟨?gather, ?evict, ?refill, ?start, ?land, ?complete, ?signal⟩
  case gather =>
    intro core j slot s v ls q hr hslot hbound hspad hlast hmore hroom hview hcheck d
    refine dieGoes_of rfl ((onHall_runs _ hr).trans ?_)
    have hq : apqOf (modApq s.dev core j dropBad) core j = q := by
      rw [apqOf_modApq_same, dropBad_eq hlast]
    have hguard : (!q.gbnd || decide (q.gcount ≤ q.gnext) || decide (queueCap v.width ≤ q.entries.length)) = false := by
      simp [hbound, hmore, hroom]
    simp only [gatherFetch, hq, hslot, hview, hguard, hspad, hcheck, Bool.false_eq_true, if_false]
    rfl
  case evict =>
    intro i k s d a hstate hbusy hparked hr hmove
    exact dieGoes_of rfl ((onHall_runs _ hr).trans (evictStep_done hstate hbusy hparked hmove))
  case refill =>
    intro i c g k s d a hstate htarget hparked hr hmove
    have hhall : onHall (match (alcOf s.dev i).target with | some t => hallOfCore t.1 | none => 0) (refillStep · i) s.dev =
        refillStep s.dev i := by
      rw [show (alcOf s.dev i).target = some (c, g) from htarget]
      exact onHall_runs _ hr
    exact dieGoes_of rfl (hhall.trans (refillStep_done hstate htarget hparked hmove))
  case start =>
    intro h q s o t hq hbegun hr hheld hrecords
    refine dieGoes_of rfl ((onHall_runs _ hr).trans ?_)
    simp only [copyStart, hq, hbegun, hheld, hrecords, Bool.or_self, Bool.false_eq_true, if_false]
  case land =>
    intro h q s o o1 t t1 off hq hbegun hfinished hparked hopc hr hheld hq1 hparked1 hnext
    refine dieGoes_of rfl ((onHall_runs _ hr).trans ?_)
    simp only [copyLand, hq, hbegun, hfinished, hparked, decide_eq_false hopc, hheld, Option.isSome_none, Bool.not_true,
      Bool.or_self, Bool.false_eq_true, if_false, hq1, hparked1, hnext]
  case complete =>
    intro h q s o t hq hfinished hparked harv hr
    refine dieGoes_of rfl ((onHall_runs _ hr).trans ?_)
    simp only [copyComplete, hq, hfinished, hparked, harv, Option.isSome_none, Bool.not_true, Bool.or_self,
      Bool.false_eq_true, if_false]
  case signal =>
    intro h q s o t d hq hopc hbegun hfinished hparked hvar hr hheld hput
    refine dieGoes_of rfl ((onHall_runs _ hr).trans ?_)
    have hvalue : (0 : W64) + o.y = o.y := BitVec.zero_add _
    simp only [signalPerform, hq, hopc, hbegun, hfinished, hparked, hheld, if_neg hvar, hvalue, hput]
    simp

end Sys2Proof.Machine
end

section
/-! PROOFS. O37: the matrix engine's grants and completions, bins, passes and weight fills (R266 to R268, R288 to R292). -/

namespace Sys2Proof.Machine

/-- No entry of a kind granted earlier than one that is first in grant order. -/
theorem noneEarlier {es : List MatEntry} {e : MatEntry} (kind : MatEntry → Bool)
    (h : ∀ x ∈ es, kind x = true → x.granted = true → e.order ≤ x.order) :
    (es.any fun x => kind x && x.granted && decide (x.order < e.order)) = false := by
  rw [List.any_eq_false]
  intro x hx hcon
  simp only [Bool.and_eq_true, decide_eq_true_eq] at hcon
  obtain ⟨⟨hkind, hgranted⟩, hlt⟩ := hcon
  exact absurd hlt (Nat.not_lt.mpr (h x hx hkind hgranted))

/-- An entry without an arrival word that has not failed completes (R268). -/
theorem matComplete_ends {d : Device} {hall op : Nat} {e : MatEntry}
    (hfind : ((hallOf d hall).mat.find? fun e => decide (e.id = op) && e.staging.isNone) = some e)
    (hgoes : (!e.granted || e.fetching || decide ((hallOf d hall).cycle < e.occEnd) || e.parked.isSome ||
      ((hallOf d hall).matHung && !e.failed) ||
      (hallOf d hall).mat.any fun x => x.staging.isNone && x.granted && decide (x.order < e.order)) = false)
    (harv : xArv e.word = false) (hfailed : e.failed = false) :
    matComplete d hall op = dropEntry (idleOf (settleDecomp (modHall d hall (unlockOp e.id)) e (some e.status)) e.core e.slot
      e.block (xTok e.word) e.flags) hall e.id := by
  simp only [matComplete, hfind, hgoes, harv, endEntry, Bool.false_eq_true, if_false]
  simp only [hfailed, Bool.false_eq_true, if_false]

/-- A pass whose entry is first in grant order delivers its rows (R290). -/
theorem passComplete_ends {d t : Device} {hall op : Nat} {e : MatEntry} {g : Staging}
    (hfind : ((hallOf d hall).mat.find? fun e => decide (e.id = op) && e.staging.isSome) = some e)
    (hgoes : (!e.granted || e.fetching || decide ((hallOf d hall).cycle < e.occEnd) || (hallOf d hall).matHung ||
      (hallOf d hall).mat.any fun x => x.staging.isSome && x.granted && decide (x.order < e.order)) = false)
    (hstaging : stagingOf (hallOf d hall) e = some g)
    (hunit : withUnit (unitStepped 4 hall (modHall (g.rows.foldl rowDone (modHall d hall (unlockOp g.lock))) hall
      (dropRegroup e g))) hall some = some t) :
    passComplete d hall op = t := by
  simp only [passComplete, hfind, hgoes, hstaging, hunit, Bool.false_eq_true, if_false, Option.getD_some]

/-- A weight set that is read ends its fill: a pin of it is counted by then (R292). -/
theorem fillComplete_read {d d1 d2 : Device} {hall op c slot : Nat} {o : LongOp} {w : Wave}
    (hfill : findFill d hall op = some (c, slot, o)) (hw : waveOf d c slot = some w)
    (hhead : wFillHead hall w.ctx (BitVec.setWidth 48 (o.args.getD 3 0)) d = .ok d1)
    (hpin : o.args.getD 1 0 = 1 →
      o.args.getD 2 0 = 1 ∧ (wPinOf (hallOf d1 hall) w.ctx (BitVec.setWidth 48 (o.args.getD 3 0))).pfail = false)
    (hset : wFillSet hall w.ctx (BitVec.setWidth 48 (o.args.getD 3 0)) d1 = .ok d2) :
    fillComplete d hall op = completeKind d2 c slot .fill o.id := by
  have hcounted : (decide (o.args.getD 1 0 = 1) && !decide (o.args.getD 2 0 = 1)) = false := by
    by_cases h : o.args.getD 1 0 = 1
    · rw [decide_eq_true h, decide_eq_true (hpin h).1]
      rfl
    · rw [decide_eq_false h]
      rfl
  have hfailed : (decide (o.args.getD 1 0 = 1) &&
      (wPinOf (hallOf d1 hall) w.ctx (BitVec.setWidth 48 (o.args.getD 3 0))).pfail) = false := by
    by_cases h : o.args.getD 1 0 = 1
    · rw [(hpin h).2, Bool.and_false]
    · rw [decide_eq_false h]
      rfl
  simp only [fillComplete, hfill, hw, hhead, hcounted, hfailed, hset, Bool.false_eq_true, if_false]

/-- Settles O37: each step by the conditions under which the engine or the unit makes it. -/
theorem matrixAndRegroupSteps : Obligations.MatrixAndRegroupSteps := by
  refine ⟨?grant, ?complete, ?age, ?stall, ?post, ?pass, ?fill⟩
  case grant =>
    intro hall s e b m hr hfree hnext hstaging hb hrun d
    refine dieGoes_of rfl ((onHall_runs _ hr).trans ?_)
    simp only [matGrant, hfree, hnext, hstaging, grantEntry, hb, hrun, Bool.not_true, Bool.false_eq_true, if_false]
    rfl
  case complete =>
    intro hall op s e h hfind hgranted hfetching hocc hparked hhung hfailed harv hr hfirst d
    refine dieGoes_of rfl ((onHall_runs _ hr).trans ?_)
    have hearlier := noneEarlier (fun x => x.staging.isNone) fun x hx hk hg => hfirst x hx (Option.isNone_iff_eq_none.mp hk) hg
    have hgoes : (!e.granted || e.fetching || decide (h.cycle < e.occEnd) || e.parked.isSome || (h.matHung && !e.failed) ||
        h.mat.any fun x => x.staging.isNone && x.granted && decide (x.order < e.order)) = false := by
      simp [hgranted, hfetching, hocc, hparked, hhung, hearlier]
    exact matComplete_ends hfind hgoes harv hfailed
  case age =>
    intro hall bin s b t d hbins hr hage hunit
    refine dieGoes_of rfl ((onHall_runs _ hr).trans ?_)
    have hgoes : ¬ ((bin, b).1 ≠ bin ∨ (hallOf s.dev hall).cycle < binAge (bin, b).2 + 1024) := by
      rintro (hne | hlt)
      · exact hne rfl
      · exact absurd hlt (Nat.not_lt.mpr hage)
    simp only [flushAge, hbins, if_neg hgoes, hunit, Option.getD_some]
  case stall =>
    intro hall s hcallers hheld
    have hgoes : callers s.dev hall ≠ [] ∧ ((callers s.dev hall).all fun c => heldByHall s c.1 c.2) = true :=
      ⟨hcallers, List.all_eq_true.mpr hheld⟩
    exact congrArg Host.Outcome.next (if_pos hgoes)
  case post =>
    intro hall s hr p
    exact dieGoes_of rfl (onHall_runs _ hr)
  case pass =>
    intro hall op s e g d h hfind hgranted hfetching hocc hhung hr hfirst hstaging hunit
    refine dieGoes_of rfl ((onHall_runs _ hr).trans ?_)
    have hearlier := noneEarlier (fun x => x.staging.isSome) hfirst
    have hgoes : (!e.granted || e.fetching || decide (h.cycle < e.occEnd) || h.matHung ||
        h.mat.any fun x => x.staging.isSome && x.granted && decide (x.order < e.order)) = false := by
      simp [hgranted, hfetching, hocc, hhung, hearlier]
    exact passComplete_ends hfind hgoes hstaging hunit
  case fill =>
    intro hall op c slot s o w d1 d2 hfill hw hr set hhead hpin hset
    exact dieGoes_of rfl ((onHall_runs _ hr).trans (fillComplete_read hfill hw hhead hpin hset))

end Sys2Proof.Machine
end

section
/-! PROOFS. O38: ray queries answered, triangles rasterised, fragments processed, draws flushed, images taken (R303, R308,
R317, R319, R408, R411). -/

namespace Sys2Proof.Machine

/-- A hall's ray unit serves a query that it may take. -/
theorem rayQueryStop_serves {s : State} {core slot lane : Nat} {w : Wave} {t : Device}
    (hr : engineRuns s.dev (hallOfCore core) = true) (hw : waveOf s.dev core slot = some w)
    (hready : if (rayOf w lane).begun then unitStopped s.dev 0 (hallOfCore core) = false
      else unitReady s.dev 0 (hallOfCore core) w.ctx = true) (hstop : rayStop s.dev core slot lane = t) :
    DieGoes (.rayQueryStop core slot lane) s (unitStepped 0 (hallOfCore core) t) := by
  have htakes : rayReady s.dev core slot lane = true := by
    simp only [rayReady, hw]
    split at hready
    next hbegun => rw [if_pos hbegun, hready]; rfl
    next hbegun => rw [if_neg hbegun, hready]
  refine dieGoes_of rfl ((onHall_runs _ hr).trans ?_)
  simp only [htakes, if_true, hstop]

/-- Settles O38: each step where its unit may make it. -/
theorem rayAndRasterSteps : Obligations.RayAndRasterSteps := by
  refine ⟨?ray, ?raster, ?fragment, ?flush, ?image⟩
  case ray =>
    intro core slot lane s w r d hr hw hready hflying hparked
    have hgoes : ¬ (!(rayOf w lane).flying || (rayOf w lane).parked.isSome) = true := by simp [hflying, hparked]
    refine ⟨fun hgo => rayQueryStop_serves hr hw hready ?_, fun hgo => rayQueryStop_serves hr hw hready ?_⟩
    · simp only [rayStop, hw, if_neg hgoes, hgo]
    · simp only [rayStop, hw, if_neg hgoes, hgo]
  case raster =>
    intro gallery geo s g t bs d hnext hready hread
    refine dieGoes_of (f := fun d => if rasterReady d gallery then unitStepped 1 gallery (rasterStep d gallery) else d) rfl ?_
    simp only [rasterReady, rasterStep, hnext, hready, if_true, hread]
  case fragment =>
    intro grid index s g f d hg hf hready hsettled hwaits hstep
    have hgoes : ¬ (!drawSettled g || fragmentWaits g.draw.frags f) = true := by simp [hsettled, hwaits]
    refine dieGoes_of (f := fun d => if fragmentReady d grid index then
      fragmentStepped d grid index (fragmentProcess d grid index) else d) rfl ?_
    simp only [fragmentReady, fragmentStepped, fragmentProcess, hg, hf, hready, if_true, Option.bind_some, Option.map_some,
      if_neg hgoes, hstep]
  case flush =>
    intro grid s g hg hsettled hfrags
    refine dieGoes_of (f := fun d => drawFlush d grid) rfl ?_
    simp [drawFlush, hg, hsettled, hfrags]
  case image =>
    intro kind unit c s hwork hbusy hstopped
    refine dieGoes_of (f := fun d => unitSwitch d kind unit) rfl ?_
    simp only [unitSwitch, hwork, hbusy, hstopped, Bool.or_self, Bool.false_eq_true, if_false]

end Sys2Proof.Machine
end

section
/-! PROOFS. O39: the fairness timer, deferrals, the watchdog and page walks (R45, R93, R335, R394, R399). -/

namespace Sys2Proof.Machine

/-- Two changes of a table's entry that agree on it are one. -/
theorem tblMod_congr {β : Type} {f g : β → β} : ∀ {t : Tbl β} {k : Nat} {x : β}, tblFind t k = some x → f x = g x →
    tblMod t k f = tblMod t k g
  | [], _, _, h, _ => nomatch h
  | (k', y) :: t, k, x, h, hx => by
    simp only [tblFind] at h
    simp only [tblMod]
    split at h
    next hk =>
      cases h
      rw [if_pos hk, if_pos hk, hx]
    next hk => rw [if_neg hk, if_neg hk, tblMod_congr h hx]

/-- Two changes of a wave that agree on it are one. -/
theorem modWave_congr {d : Device} {core slot : Nat} {w : Wave} {f g : Wave → Wave} (hw : waveOf d core slot = some w)
    (h : f w = g w) : modWave d core slot f = modWave d core slot g := by
  have hwaves : tblMod (coreOf d core).waves slot f = tblMod (coreOf d core).waves slot g := tblMod_congr hw h
  simp only [modWave, modCore, hwaves]

/-- A yield is due at once where no lane of the running path holds a reservation (R45). -/
theorem dueYield_free {w : Wave} (h : ∀ p, w.pos.paths[w.pos.run]? = some p → ∀ e ∈ w.resv, p.mask.getLsbD e.1 = false) :
    dueYield w = { w with pos := { w.pos with yieldDue := true } } := by
  have hnone : (w.resv.any fun e => (((w.pos.paths[w.pos.run]?).map Path.mask).getD 0).getLsbD e.1) = false := by
    rw [List.any_eq_false]
    intro e he
    cases hp : w.pos.paths[w.pos.run]? with
    | none => simp
    | some p => simpa using h p hp e he
  simp only [dueYield, hnone, Bool.false_eq_true, if_false]

/-! ### Page walks -/

/-- Where every requester's clock runs, none is late. -/
theorem lateWaiters_nil {d : Device} {ws : List (Nat × Nat)} (h : ∀ e ∈ ws, clockRuns d (hallOfCore e.1) = true) :
    (ws.filter fun e => !clockRuns d (hallOfCore e.1) && (hallOf d (hallOfCore e.1)).ck.service &&
      !(hallOf d (hallOfCore e.1)).ck.stopped) = [] := by
  rw [List.filter_eq_nil_iff]
  intro e he
  simp [h e he]

/-- A walk whose requesters all run fills their tables with its translation (R93). -/
theorem walkEnd_fills {d d1 : Device} {k : Nat} {w : Walk} {te : TlbEntry} (hwalk : tblFind d.walks k = some w)
    (hbegun : w.begun = true) (hdiscard : w.discard = false) (hruns : ∀ e ∈ w.waiters, clockRuns d (hallOfCore e.1) = true)
    (hsome : w.waiters ≠ []) (hok : ∃ a b c, walkTables (dropWalk d k) w.ctx w.va.toNat = .ok a b c)
    (hnow : walkNow (dropWalk d k) w.ctx w.va.toNat w.write = .ok (te, d1)) :
    walkEnd d k = (w.waiters.map (·.1)).foldl (walkFill te) d1 := by
  obtain ⟨a, b, c, htables⟩ := hok
  simp only [walkEnd, hwalk, hbegun, hdiscard, List.filter_eq_self.mpr hruns, lateWaiters_nil hruns, hsome, htables, hnow,
    Bool.not_true, Bool.false_eq_true, if_false, if_true]

/-- A walk whose requesters all run tells them of an absent page (R93, R399). -/
theorem walkEnd_tells {d : Device} {k info : Nat} {w : Walk} (hwalk : tblFind d.walks k = some w) (hbegun : w.begun = true)
    (hdiscard : w.discard = false) (hruns : ∀ e ∈ w.waiters, clockRuns d (hallOfCore e.1) = true) (hsome : w.waiters ≠ [])
    (htables : walkTables (dropWalk d k) w.ctx w.va.toNat = .absent info) :
    walkEnd d k = w.waiters.foldl (walkTell
      { page := BitVec.ofNat 48 (w.va.toNat / 65536), cause := 0x30, info := BitVec.ofNat 64 info })
      (tableReads (dropWalk d k) w.ctx w.va.toNat) := by
  simp only [walkEnd, hwalk, hbegun, hdiscard, List.filter_eq_self.mpr hruns, lateWaiters_nil hruns, hsome, htables,
    Bool.not_true, Bool.false_eq_true, if_false, if_true]

/-- A walk whose requesters all stand in a hop stays for them (R335). -/
theorem walkEnd_stays {d : Device} {k : Nat} {w : Walk} (hwalk : tblFind d.walks k = some w) (hbegun : w.begun = true)
    (hdiscard : w.discard = false)
    (hhop : ∀ e ∈ w.waiters, (hallOf d (hallOfCore e.1)).ck.hop.isSome = true ∧
      (hallOf d (hallOfCore e.1)).ck.service = true ∧ (hallOf d (hallOfCore e.1)).ck.stopped = false)
    (hsome : w.waiters ≠ []) : walkEnd d k = { d with walks := tblSet d.walks k w } := by
  have hstands : ∀ e ∈ w.waiters, clockRuns d (hallOfCore e.1) = false := fun e he => by
    obtain ⟨hhop, -, -⟩ := hhop e he
    simp [clockRuns, Option.isSome_iff_ne_none.mp hhop]
  have hnone : (w.waiters.filter fun e => clockRuns d (hallOfCore e.1)) = [] :=
    List.filter_eq_nil_iff.mpr fun e he => by simp [hstands e he]
  have hlate : (w.waiters.filter fun e => !clockRuns d (hallOfCore e.1) && (hallOf d (hallOfCore e.1)).ck.service &&
      !(hallOf d (hallOfCore e.1)).ck.stopped) = w.waiters :=
    List.filter_eq_self.mpr fun e he => by
      obtain ⟨-, hservice, hstopped⟩ := hhop e he
      simp [hstands e he, hservice, hstopped]
  have hsame : { w with discard := false, begun := true } = w := by rw [← hdiscard, ← hbegun]
  simp only [walkEnd, hwalk, hbegun, hdiscard, hnone, hlate, hsome, hsame, Bool.not_true, Bool.false_eq_true, if_false, if_true]
/-- Settles O39: each step on the wave, or the walk, that it finds. -/
theorem timerAndWalkSteps : Obligations.TimerAndWalkSteps := by
  refine ⟨?fair, ?defer, ?watchdog, ?walk⟩
  case fair =>
    intro core slot s w hr hw hfair hlevel hdeferred hdue hfree
    refine dieGoes_of rfl ((onHall_runs _ hr).trans (modWave_congr hw ?_))
    rw [if_pos ⟨hfair, hlevel, hdeferred, by rw [hdue]; rfl⟩, dueYield_free hfree]
  case defer =>
    intro core slot t s w hr hw hdeferred hover
    refine dieGoes_of rfl ((onHall_runs _ hr).trans (modWave_congr hw ?_))
    have hends : deferOver w t = true := by simp [deferOver, hover]
    simp only [hdeferred, hends, if_true]
  case watchdog =>
    intro core slot s v hr hview hlimit hhalted hctx hrecords hcount
    refine dieGoes_of rfl ((onHall_runs _ hr).trans ?_)
    have hgoes : v.w.trap.wdlim ≠ 0 ∧ (!v.w.halted) = true ∧ (!(ctxOf s.dev v.w.ctx).halting) = true ∧
        (!awaitsRecords s.dev core v.w.ctx) = true ∧ 2 ^ v.w.trap.wdlim.toNat ≤ v.w.cnt.wd := by
      simp only [hhalted, hctx, hrecords]
      exact ⟨hlimit, rfl, rfl, rfl, hcount⟩
    simp only [watchdogStep, hview, if_pos hgoes]
    rfl
  case walk =>
    intro k s w hwalk hbegun d
    refine ⟨fun hdiscard => ?_, fun hruns hsome => ⟨fun te d1 hdiscard hok hnow => ?_, fun info hdiscard htables => ?_⟩,
      fun hhop hsome hdiscard => ?_⟩
    · refine dieGoes_of (f := fun d => walkEnd d k) rfl ?_
      simp only [walkEnd, hwalk, hbegun, hdiscard, Bool.not_true, Bool.false_eq_true, if_false, if_true]
      rfl
    · exact dieGoes_of (f := fun d => walkEnd d k) rfl (walkEnd_fills hwalk hbegun hdiscard hruns hsome hok hnow)
    · exact dieGoes_of (f := fun d => walkEnd d k) rfl (walkEnd_tells hwalk hbegun hdiscard hruns hsome htables)
    · exact dieGoes_of (f := fun d => walkEnd d k) rfl (walkEnd_stays hwalk hbegun hdiscard hhop hsome)

end Sys2Proof.Machine
end

section
/-! PROOFS. O40: launch queues (R35, R83, R347 to R349, R433). -/

namespace Sys2Proof.Machine

/-- A word that names an entry of a queue: its type's alignment, and no other bit. -/
def goodEntry (word : W64) : Prop :=
  (field word 60 4 = 1 ∧ field word 0 48 % 256 = 0 ∨ field word 60 4 = 2 ∧ field word 0 48 % 32 = 0) ∧ field word 48 12 = 0

/-- What a queue refuses is what names no entry (R348). -/
theorem enqueue_refuses_iff (word : W64) : ((field word 60 4 ≠ 1 ∧ field word 60 4 ≠ 2) ∨ field word 48 12 ≠ 0 ∨
    field word 0 48 % (if field word 60 4 = 1 then 256 else 32) ≠ 0) ↔ ¬ goodEntry word := by
  unfold goodEntry
  by_cases h1 : field word 60 4 = 1
  · rw [if_pos h1]
    omega
  · rw [if_neg h1]
    omega

theorem enqueue_bad {d : Device} {apc q : Nat} {word : W64} (h : ¬ goodEntry word) :
    enqueue d apc q word = modQueue d q fun k => { k with err := true } := if_pos ((enqueue_refuses_iff word).mpr h)

theorem enqueue_full {d : Device} {apc q : Nat} {word : W64} (h : goodEntry word)
    (hfull : 4096 ≤ (queueOf d q).entries.length) : enqueue d apc q word = modQueue d q fun k => { k with ovf := true } :=
  (if_neg fun hcon => (enqueue_refuses_iff word).mp hcon h).trans (if_pos hfull)

theorem enqueue_appends {d : Device} {apc q : Nat} {word : W64} (h : goodEntry word)
    (hroom : (queueOf d q).entries.length < 4096) : enqueue d apc q word = appendEntry d q
      { wait := decide (field word 60 4 = 2), va := BitVec.ofNat 48 (field word 0 48), ctx := (queueOf d q).ctx.toNat, cyc := 0
        rank := apcRank apc } :=
  (if_neg fun hcon => (enqueue_refuses_iff word).mp hcon h).trans (if_neg (Nat.not_le.mpr hroom))

/-- A wait whose word is read goes on by its condition. -/
theorem waitStep_ok {d t : Device} {q : Nat} {e : QEntry} {told : List Nat} {done : Bool} (h : waitRead d e = .ok (done, t)) :
    waitStep d q e told = modQueue t q fun k => { k with head := if done then none else some (.wait e false told) } := by
  simp only [waitStep, h]

/-- A fault of a kind that the wait has told writes no record. -/
theorem waitStep_told {d : Device} {q kind : Nat} {e : QEntry} {told : List Nat} {f : MFault}
    (h : waitRead d e = .error (kind, f)) (hk : kind ∈ told) :
    waitStep d q e told = modQueue d q fun k => { k with head := some (.wait e true told) } := by
  simp only [waitStep, h, List.contains_iff_mem.mpr hk, if_true]

/-- A fault of another kind writes its record. -/
theorem waitStep_new {d : Device} {q kind : Nat} {e : QEntry} {told : List Nat} {f : MFault}
    (h : waitRead d e = .error (kind, f)) (hk : kind ∉ told) :
    waitStep d q e told =
      modQueue (dfeFault d q kind f) q fun k => { k with head := some (.wait e true (told ++ [kind])) } := by
  have hno : ¬ told.contains kind = true := fun hcon => hk (List.contains_iff_mem.mp hcon)
  simp only [waitStep, h, if_neg hno]

/-- Settles O40: each step on the queue as it stands. -/
theorem launchQueueSteps : Obligations.LaunchQueueSteps := by
  refine ⟨?enqueue, ?begins, ?check, ?retry, ?faults, ?reset⟩
  case enqueue =>
    intro q word s k t va good
    exact ⟨fun h => dieGoes_of (f := fun d => enqueue d 0 q word) rfl (enqueue_bad h),
      fun h hfull => dieGoes_of (f := fun d => enqueue d 0 q word) rfl (enqueue_full h hfull),
      fun h hroom => dieGoes_of (f := fun d => enqueue d 0 q word) rfl (enqueue_appends h hroom)⟩
  case begins =>
    intro q s e t l d k hhead hentries hen hwait d1 hread hrefuse
    refine dieGoes_of (f := fun d => dispatchBegin d q) rfl ?_
    have hread' : readLpb (modQueue s.dev q fun k => { k with entries := k.entries.drop 1, seq := k.seq + 1 }) e.ctx e.va.toNat =
      .ok (l, d) := hread
    simp only [dispatchBegin, show (queueOf s.dev q).head = none from hhead, show (queueOf s.dev q).entries = e :: t from hentries,
      show (queueOf s.dev q).en = true from hen, hwait, beginGrid, hread', hrefuse, Bool.not_false, Bool.and_self, if_true]
    rfl
  case check =>
    intro q s e told done d hhead hread
    refine dieGoes_of (f := fun d => waitCheck d q) rfl ?_
    simp only [waitCheck, hhead, waitStep_ok hread]
  case retry =>
    intro q s e told done d hhead hread
    refine dieGoes_of (f := fun d => waitRetry d q) rfl ?_
    simp only [waitRetry, hhead, waitStep_ok hread]
  case faults =>
    intro q kind s e told f hhead hread
    refine ⟨fun hk => dieGoes_of (f := fun d => waitRetry d q) rfl ?_, fun hk => dieGoes_of (f := fun d => waitRetry d q) rfl ?_⟩
    · simp only [waitRetry, hhead, waitStep_told hread hk]
    · simp only [waitRetry, hhead, waitStep_new hread hk]
  case reset =>
    intro q s stream
    exact dieGoes_of (f := fun d => queueReset d q) rfl rfl

end Sys2Proof.Machine
end

section
/-! PROOFS. O41: placement, retirement, the end of a grid and starved grids (R36, R39, R40, R48, R49, R434). -/

namespace Sys2Proof.Machine

/-- Placements that have failed are not tried again before they are due (R39). -/
theorem placeFirst_tried {d : Device} (q : Nat) : ∀ {ps : List Placee}, (∀ p ∈ ps, placeTried d p = true) → placeFirst d q ps = d
  | [], _ => rfl
  | p :: ps, h => by
    rw [placeFirst, if_pos (h p List.mem_cons_self)]
    exact placeFirst_tried q fun p' hp' => h p' (List.mem_cons_of_mem _ hp')

/-- The cores of a launch flushed keep the alcoves. -/
theorem flushCores_alcoves (d : Device) (fam : List Nat) : (flushCores d fam).alcoves = d.alcoves := by
  unfold flushCores
  generalize (d.grids.filter fun e => fam.contains e.1).flatMap (fun e => e.2.cores) = cs
  induction cs generalizing d with
  | nil => rfl
  | cons c cs ih => exact ih _

/-- Settles O41: each step on what its queue, block or grid holds. -/
theorem dispatchSteps : Obligations.DispatchSteps := by
  refine ⟨?places, ?fails, ?tried, ?retires, ?completes, ?starves⟩
  case places =>
    intro q core s p t g hplacees htried hg hcore hrank
    refine dieGoes_of (f := fun d => placeFirst d q (placees d q)) rfl ?_
    simp only [hplacees, placeFirst, htried, hg, hcore, hrank, Bool.and_false, Bool.false_eq_true, if_false]
  case fails =>
    intro q s p g hplacees htried hg hcore
    refine dieGoes_of (f := fun d => placeFirst d q (placees d q)) rfl ?_
    simp only [hplacees, placeFirst, htried, hg, hcore, Bool.false_eq_true, if_false]
  case tried =>
    intro q s htried
    exact dieGoes_of (f := fun d => placeFirst d q (placees d q)) rfl (placeFirst_tried q htried)
  case retires =>
    intro bid s b hb hbusy hended
    refine dieGoes_of (f := fun d => blockRetire d bid) rfl ?_
    simp only [blockRetire, hb, hbusy, hended, Bool.not_true, Bool.or_self, Bool.false_eq_true, if_false]
  case completes =>
    intro gid s g hg hparent hover hlife fam d d1
    refine dieGoes_of (f := fun d => gridComplete d gid) rfl ?_
    have hnone : ((flushCores s.dev (gridFamily s.dev gid)).alcoves.filter fun e =>
        decide (e.2.life = 0) && (gridFamily s.dev gid).contains e.2.grid && decide (e.2.state ≠ 0)) = [] := by
      rw [flushCores_alcoves, List.filter_eq_nil_iff]
      intro e he hcon
      simp only [Bool.and_eq_true, decide_eq_true_eq] at hcon
      obtain ⟨⟨hlaunch, -⟩, -⟩ := hcon
      exact hlife e he hlaunch
    simp only [gridComplete, hg, hparent, hover, hnone, Option.isSome_none, Bool.not_true, Bool.or_self, Bool.false_eq_true,
      if_false, List.foldl_nil]
    rfl
  case starves =>
    intro gid s g hg hwaited
    refine dieGoes_of (f := fun d => starvedReport d gid) rfl ?_
    simp only [starvedReport, hg, if_neg (Nat.not_lt.mpr hwaited)]

end Sys2Proof.Machine
end

section
/-! PROOFS. O42: pre-emption of a context and its return (R50 to R53). -/

namespace Sys2Proof.Machine

/-- A write of EVQ leaves the context's other fields (Table 13.1). -/
theorem ctxOf_evq (d : Device) (ctx : Nat) (x : BitVec 8) :
    ctxOf (modCtx d ctx fun k => { k with evq := x }) ctx = { ctxOf d ctx with evq := x } := ctxOf_modCtx_same _ _ _

/-- A context that is neither asked for nor saved is asked for (R50, step 1). -/
theorem requestPreempt_fresh {d : Device} {ctx : Nat} (hreq : (ctxOf d ctx).req = false) (hsaved : (ctxOf d ctx).saved = false) :
    requestPreempt d ctx = ((ctxBlocks d ctx).filter fun e => blockFresh d e.1 e.2).foldl undoBlock
      (modCtx d ctx fun k => { k with req := true }) := by
  simp only [requestPreempt, hreq, hsaved, Bool.false_and, Bool.or_self, Bool.false_eq_true, if_false]

/-- A save whose records are written leaves the context saved (R50, steps 3 to 6). -/
theorem preemptSave_writes {d0 d1 : Device} {ctx : Nat} (hhalting : (ctxOf d0 ctx).halting = true)
    (hrecords : (ctxOf d0 ctx).records = [])
    (hhung : ∀ e ∈ ctxBlocks d0 ctx, (hallOf d0 (hallOfCore e.2.core)).matHung = false) :
    let bs := ctxBlocks d0 ctx
    let mine (b : Nat) : Bool := bs.any fun e => decide (e.1 = b)
    let d := settleOps d0 mine
    let base := (ctxOf d0 ctx).csa.toNat
    let rs := areaRecords d mine 0x100 bs
    let head := wordBytes ([BitVec.ofNat 64 rs.1.length, BitVec.ofNat 64 rs.2, BitVec.ofNat 64 ctx] ++ List.replicate 5 0)
    saveBusy d mine = false →
    writeAll ctx ((rs.1.map fun r => (copyAgent (hallOfCore r.2.2.1.core) true, base + r.1, r.2.2.2)) ++
      [(areaAgent, base, head)]) d = some d1 →
    preemptSave d0 ctx = modCtx (bs.foldl leaveSaved (savedEvent (withdraw d1 mine) ctx bs)) ctx fun k =>
      { k with req := false, halting := false, saved := true, resume := false, evac := []
               more := rs.1.map fun r => blockMore d mine (vaNat (base + r.1)) r.2.1 r.2.2.1 } := by
  intro bs mine d base rs head hbusy hwritten
  have hgoes : ¬ (!(ctxOf d0 ctx).halting || decide ((ctxOf d0 ctx).records ≠ []) ||
      (ctxBlocks d0 ctx).any fun e => (hallOf d0 (hallOfCore e.2.core)).matHung) = true := by
    simp only [hhalting, hrecords]
    simpa using hhung
  unfold preemptSave
  rw [if_neg hgoes, if_neg (by rw [hbusy]; exact Bool.false_ne_true)]
  dsimp only
  rw [hwritten]

/-- Settles O42: each step on the context, its blocks and its save area. -/
theorem preemptionSteps : Obligations.PreemptionSteps := by
  refine ⟨?request, ?halts, ?save, ?resume, ?restore⟩
  case request =>
    intro ctx value s hctx hreq hresume hfree hsaved fresh
    refine dieGoes_of (f := fun d => if ctx < 64 then preemptWrite d ctx value else d) rfl ?_
    have hevq := ctxOf_evq s.dev ctx (BitVec.setWidth 8 value)
    have hgoes := requestPreempt_fresh (d := modCtx s.dev ctx fun k => { k with evq := BitVec.setWidth 8 value }) (ctx := ctx)
      (by rw [hevq]; exact hfree) (by rw [hevq]; exact hsaved)
    simp only [if_pos hctx, preemptWrite, hreq, hresume, if_true, Bool.false_eq_true, if_false, hgoes]
    rfl
  case halts =>
    intro ctx s hreq hhalting
    refine dieGoes_of (f := fun d => preemptHalt d ctx) rfl ?_
    simp only [preemptHalt, hreq, hhalting, Bool.not_false, Bool.and_self, if_true]
  case save =>
    intro ctx s d1 bs mine d base rs head hhalting hrecords hhung hbusy hwritten
    exact dieGoes_of (f := fun d => preemptSave d ctx) rfl (preemptSave_writes hhalting hrecords hhung hbusy hwritten)
  case resume =>
    intro ctx s bs n d2 r t k hresume hrecords hread hindex hopen
    refine dieGoes_of (f := fun d => contextResume d ctx) rfl ?_
    have hgoes : ¬ (!(ctxOf s.dev ctx).resume || decide ((ctxOf s.dev ctx).records ≠ [])) = true := by
      simp [show (ctxOf s.dev ctx).resume = true from hresume, show (ctxOf s.dev ctx).records = [] from hrecords]
    have hnone : ¬ ((r :: t).any fun e => (hallOf s.dev (hallOfCore e.2)).ck.service &&
        (hallOf s.dev (hallOfCore e.2)).ck.stopped) = true := by
      rw [Bool.not_eq_true, List.any_eq_false]
      intro e he hcon
      rw [Bool.and_eq_true] at hcon
      exact Bool.false_ne_true ((hopen e he hcon.1).symm.trans hcon.2)
    have hread' : engineRead s.dev ctx true .plain (ctxOf s.dev ctx).csa.toNat 8 areaAgent = .ok (bs, n) := hread
    have hindex' : areaIndex ctx (min (leNat bs) 30720) ((ctxOf s.dev ctx).csa.toNat + 0x100) n = some (r :: t, d2) := hindex
    simp only [contextResume, if_neg hgoes, hread', hindex', if_neg hnone, reduceCtorEq, if_false]
  case restore =>
    intro ctx index addr core bid s r d d0 h hrecord hfetch hservice howner hheld hstopped hfree hrestore
    refine dieGoes_of (f := fun d => blockRestore d ctx index) rfl ?_
    have hserves : ¬ (!(hallOf s.dev (hallOfCore core)).ck.service) = true := by
      rw [show (hallOf s.dev (hallOfCore core)).ck.service = true from hservice]
      exact Bool.false_ne_true
    have hgoes : ¬ ((hallOf s.dev (hallOfCore core)).owner ≠ some ctx ∨ (hallOf s.dev (hallOfCore core)).ck.held = true ∨
        (hallOf s.dev (hallOfCore core)).ck.stopped = true ∨ (!recordFree d0 r) = true) := by
      rintro (hcon | hcon | hcon | hcon)
      · exact hcon howner
      · exact Bool.false_ne_true (hheld.symm.trans hcon)
      · exact Bool.false_ne_true (hstopped.symm.trans hcon)
      · rw [hfree] at hcon
        exact Bool.false_ne_true hcon
    simp only [blockRestore, hrecord, hfetch, if_neg hserves, if_neg hgoes, hrestore]

end Sys2Proof.Machine
end

section
/-! PROOFS. O43: hall owners, FRESUME and halted waves (R210, R211, R346, R399, R402). -/

namespace Sys2Proof.Machine

/-- Two changes of a hall that agree on it are one. -/
theorem modHall_congr {d : Device} {h : Nat} {f g : Hall → Hall} (hfg : f (hallOf d h) = g (hallOf d h)) :
    modHall d h f = modHall d h g := by
  rw [modHall, modHall, hfg]

/-- Steps that each change nothing change nothing. -/
theorem foldl_unchanged {β γ : Type} {f : β → γ → β} {d : β} : ∀ {xs : List γ}, (∀ x ∈ xs, f d x = d) → xs.foldl f d = d
  | [], _ => rfl
  | x :: xs, h => by
    rw [List.foldl_cons, h x List.mem_cons_self]
    exact foldl_unchanged fun y hy => h y (List.mem_cons_of_mem _ hy)

/-- A hall whose alcoves have left, or are leaving, changes its owner (R346). -/
theorem ownerChange_free {d : Device} {hall : Nat} {o : Option Nat} (hnext : (hallOf d hall).nextOwner = some o)
    (hservice : (hallOf d hall).ck.service = true) (hfree : ownerFree d hall = true)
    (halcoves : ∀ i ∈ hallAlcoves d hall, (alcOf d i).state ≠ 1 ∨ (alcOf d i).busy = true) :
    ownerChange d hall = modHall d hall fun h =>
      { h with owner := o, lastOwner := h.nextCtx, nextOwner := none, wlines := [], wsets := [] } := by
  have hstays : (hallAlcoves d hall).foldl (fun d' i =>
      if (alcOf d' i).state = 1 ∧ (!(alcOf d' i).busy) = true ∧ some (alcOf d' i).owner.toNat = (hallOf d hall).owner
      then startEvict d' i else d') d = d := by
    refine foldl_unchanged fun i hi => if_neg ?_
    rintro ⟨hstate, hbusy, -⟩
    obtain hne | hb := halcoves i hi
    · exact hne hstate
    · rw [hb] at hbusy
      exact Bool.false_ne_true hbusy
  simp only [ownerChange, hnext, hfree, Bool.not_true, Bool.false_eq_true, if_false, hstays]
  exact modHall_congr (by simp only [hservice, if_true])

/-- Every core's queues fetched again leave the waves. -/
theorem waveOf_regathered (d : Device) (slots : Core → List Nat) (core slot : Nat) :
    waveOf { d with cores := tblMap (fun _ k => regather (slots k) k) d.cores } core slot = waveOf d core slot := by
  simp only [waveOf, coreOf, tblGet_eq, tblFind_tblMap]
  cases tblFind d.cores core with
  | none => rfl
  | some k => rfl

/-- A wave parked on the page goes on, and no failed walk answers it (R399, R402). -/
theorem waveOf_fresume {d : Device} {ctx core slot : Nat} {va : VA} {w : Wave} (hw : waveOf d core slot = some w)
    (hctx : w.ctx = ctx) (hparked : ∃ a, w.parked = some a ∧ a.toNat / 65536 = va.toNat / 65536) :
    ∃ x, waveOf (fresume d ctx va) core slot = some x ∧ x.halted = false ∧ x.parked = none ∧ x.walkFaults = [] := by
  obtain ⟨a, ha, hpage⟩ := hparked
  have hon : (decide (w.ctx = ctx) && onPage w.parked (va.toNat / 65536)) = true := by simp [onPage, ha, hctx, hpage]
  have hreplay : waveOf (replayPage ctx (va.toNat / 65536) d) core slot = some (unhalt w) := by
    rw [replayPage, waveOf_mapWaves, waveOf_regathered, hw, Option.map_some, if_pos hon]
  refine ⟨_, (waveOf_mapWaves _ _ core slot).trans (congrArg _ hreplay), ?_⟩
  dsimp only
  rw [if_pos (show (unhalt w).ctx = ctx from hctx)]
  exact ⟨rfl, rfl, rfl⟩

/-- Settles O43: the owner's write and change, and what FRESUME and WAVE_RESUME let go on. -/
theorem ownerAndResumeSteps : Obligations.OwnerAndResumeSteps := by
  refine ⟨?write, ?change, ?fresume, ?resume⟩
  case write =>
    intro hall value s hhall hservice o
    refine dieGoes_of (f := fun d => if hall < Config.halls then ownerWrite d hall value else d) rfl ?_
    refine (if_pos hhall).trans (modHall_congr ?_)
    simp only [hservice, Bool.and_true]
    rfl
  case change =>
    intro hall o s hnext hservice hfree halcoves
    exact dieGoes_of (f := fun d => ownerChange d hall) rfl (ownerChange_free hnext hservice hfree halcoves)
  case fresume =>
    intro ctx va s
    refine ⟨fresume s.dev ctx va, dieGoes_of (f := fun d => Machine.fresume d ctx va) rfl rfl, fun e he => ?_,
      fun core slot w hw hctx hparked => waveOf_fresume hw hctx hparked⟩
    rintro rfl
    simpa using (List.mem_filter.mp he).2
  case resume =>
    intro core slot s w hw hhalted
    refine dieGoes_of (f := fun d => waveResume d core slot) rfl ?_
    simp only [waveResume, hw, hhalted, if_true]
    rfl

end Sys2Proof.Machine
end

section
/-! PROOFS. O44: classes, budgets, ageing and droops of a hall (R333, R334, R338 to R343, R435, R436, R440). -/

namespace Sys2Proof.Machine

/-! ### The module's peak (Table 12.7): only its own step changes it -/

/-- Steps that each keep a part of a state keep it together. -/
theorem foldl_keeps {β γ δ : Type} {m : β → δ} {f : β → γ → β} (hf : ∀ b x, m (f b x) = m b) (xs : List γ) (b : β) :
    m (xs.foldl f b) = m b :=
  List.foldlRecOn (motive := fun c => m c = m b) xs f rfl fun _ hc x _ => (hf _ x).trans hc

/-- A detached alcove leaves the peak. -/
@[simp] theorem alcDetach_nhmax (d : Device) (i : Nat) : (alcDetach d i).nhmax = d.nhmax := by
  simp only [alcDetach]
  split_ifs <;> rfl

/-- The attachments of a block that end leave the peak. -/
@[simp] theorem releaseAttachments_nhmax (d : Device) (bid : Nat) : (releaseAttachments d bid).nhmax = d.nhmax := by
  unfold releaseAttachments
  split
  · rfl
  · exact foldl_keeps (m := Device.nhmax) (fun d (a : Attach) => alcDetach_nhmax d a.entry) _ d

/-- A fault record leaves the peak. -/
@[simp] theorem faultRecord_nhmax (d : Device) (src : Source) (ctx : Nat) (cause : BitVec 8) (term : Bool) (mask : Mask)
    (info : W64) (p : Where) : (faultRecord d src ctx cause term mask info p).nhmax = d.nhmax := by
  unfold faultRecord
  rw [emit_nhmax, raiseIrq_nhmax, modCtx_nhmax, memWrite_nhmax]

/-- A terminated block leaves the peak. -/
theorem terminate_nhmax (d : Device) (bid : Nat) (src : Source) (cause : BitVec 8) (mask : Mask) (info : W64) (p : Where) :
    (terminate d bid src cause mask info p).nhmax = d.nhmax := by
  unfold terminate
  split
  · rfl
  · split
    · rfl
    · rw [modGrid_nhmax, modBlock_nhmax, faultRecord_nhmax, releaseAttachments_nhmax, modCore_nhmax, modHall_nhmax]

/-- A lost alcove leaves the peak. -/
theorem loseAlcove_nhmax (d : Device) (i : Nat) : (loseAlcove d i).nhmax = d.nhmax := by
  rw [loseAlcove, faultRecord_nhmax]
  rfl

/-- A hall's blocks terminated and its alcoves lost leave the peak. -/
@[simp] theorem clearHall_nhmax (d : Device) (h : Nat) (src : Source) (cause : BitVec 8) (info : W64) :
    (clearHall d h src cause info).nhmax = d.nhmax :=
  (foldl_keeps loseAlcove_nhmax _ _).trans (foldl_keeps (fun _ _ => terminate_nhmax ..) _ d)

/-- A hall put out of service leaves the peak. -/
theorem retireHall_nhmax (d : Device) (h : Nat) : (retireHall d h).nhmax = d.nhmax := by
  unfold retireHall
  split
  · rfl
  · simp [telemetryPut, modCk]

/-- A change of every wave of a hall's cores leaves the peak. -/
theorem hallWaves_nhmax (h : Nat) (f : Core → Core) (d : Device) :
    ((List.range 4).foldl (fun d i => modCore d (4 * h + i) f) d).nhmax = d.nhmax :=
  foldl_keeps (m := Device.nhmax) (fun d i => modCore_nhmax d (4 * h + i) f) _ d

/-- The charge of an interval leaves the peak. -/
theorem chargeHall_nhmax (d : Device) (h : Nat) (emeas : W32) : (chargeHall d h emeas).nhmax = d.nhmax := by
  simp only [chargeHall, modHall_nhmax, hallWaves_nhmax]
  split
  · exact modCtx_nhmax ..
  · rfl

/-- A flight's next step leaves the peak. -/
theorem settleFlight_nhmax (d : Device) (f : Nat) : (settleFlight d f).nhmax = d.nhmax := by
  simp only [settleFlight]
  split_ifs <;> rfl

/-- The flights' boundary leaves the peak. -/
theorem flightBoundary_nhmax (d : Device) (f : Nat) : (flightBoundary d f).nhmax = d.nhmax := by
  have hreclamp (d : Device) (h : Nat) : ((hallBlocks d h).foldl (fun d e => modBlock d e.1 fun b =>
      { b with preq := recordClass d h b.preq.toNat }) d).nhmax = d.nhmax :=
    foldl_keeps (m := Device.nhmax) (fun d (e : Nat × Block) => modBlock_nhmax d e.1 _) _ d
  simp only [flightBoundary, retarget, settleFlight_nhmax, modCk, modHall_nhmax, hreclamp]
  rfl

/-- The leases' boundary leaves the peak. -/
theorem leaseBoundary_nhmax (d : Device) : (leaseBoundary d).nhmax = d.nhmax := by
  refine foldl_keeps (m := Device.nhmax) (fun d i => ?_) _ d
  dsimp only
  split_ifs <;> rfl

/-- The registers of a hall at a boundary leave the peak. -/
theorem hallStep_nhmax (pl : Plant) (ss : List HallSample) (d : Device) (h : Nat) : (hallStep pl ss d h).nhmax = d.nhmax :=
  (modHall_nhmax ..).trans (chargeHall_nhmax ..)

/-- The halls and flights of a boundary leave the peak. -/
theorem dieHalls_nhmax (pl : Plant) (ss : List HallSample) (hs fs : List Nat) (d : Device) :
    (fs.foldl flightBoundary (hs.foldl retireHall (hs.foldl applyMargin { hs.foldl (hallStep pl ss) d with
      ctxs := tblMap (fun _ => chargeNetwork) (hs.foldl (hallStep pl ss) d).ctxs }))).nhmax = d.nhmax := by
  rw [foldl_keeps flightBoundary_nhmax, foldl_keeps retireHall_nhmax,
    foldl_keeps (m := Device.nhmax) (f := applyMargin) fun d h => modHall_nhmax d h _]
  exact foldl_keeps (hallStep_nhmax pl ss) _ d

/-- The module's register at a boundary holds the peak (Table 12.7). -/
theorem moduleBoundary_nhmax {outside x : W32} {d : Device} (hx : d.nhmax = x) :
    (moduleBoundary outside (waitBoundary (leaseBoundary d))).nhmax = if x.toNat < outside.toNat then outside else x := by
  have hlease := (leaseBoundary_nhmax d).trans hx
  rw [← hlease]
  rfl

/-- The die's boundary raises the peak to what was measured (Table 12.7). -/
theorem dieBoundary_nhmax (pl : Plant) (ss : List HallSample) (outside : W32) (d : Device) :
    (dieBoundary pl ss outside d).nhmax = if d.nhmax.toNat < outside.toNat then outside else d.nhmax := by
  unfold dieBoundary
  generalize List.range Config.halls = hs, List.range (Config.halls / 2) = fs
  exact moduleBoundary_nhmax (dieHalls_nhmax pl ss hs fs d)

/-! ### Zones and flights -/

/-- A boundary sets the budgets of the compute zones (R338, step 3). -/
theorem zoneOf_zoneBoundary (pl : Plant) {z : Nat} (hz : z < 32) :
    zoneOf (zoneBoundary pl) z = { zoneOf pl z with tbud := BitVec.ofNat 32 (tbudOf (zoneOf pl z)) } := by
  have hfold (n : Nat) : zoneOf ((List.range n).foldl (fun pl z => modZone pl z fun x =>
      { x with tbud := BitVec.ofNat 32 (tbudOf x) }) pl) z =
        if z < n then { zoneOf pl z with tbud := BitVec.ofNat 32 (tbudOf (zoneOf pl z)) } else zoneOf pl z := by
    induction n with
    | zero => rfl
    | succ n ih =>
      rw [List.range_succ, List.foldl_append, List.foldl_cons, List.foldl_nil]
      by_cases hn : z = n
      · subst hn
        rw [zoneOf_modZone_same, ih, if_neg (lt_irrefl z), if_pos (Nat.lt_succ_self z)]
      · rw [zoneOf_modZone_ne _ _ hn, ih]
        exact if_congr (by omega) rfl rfl
  exact (hfold 32).trans (if_pos hz)

/-- A changed flight reads as changed. -/
theorem flightOf_modFlight_same (d : Device) (f : Nat) (g : Flight → Flight) :
    tblGet blankFlight (modFlight d f g).flights f = g (tblGet blankFlight d.flights f) := by simp [modFlight]

/-- A stage's entry leaves the flights. -/
theorem stageEntry_flights (enter : Bool) (code f : Nat) (d : Device) : (stageEntry enter code f d).flights = d.flights := by
  cases enter <;> rfl

/-- The ballast drawn leaves the flights. -/
theorem drawBallast_flights (d : Device) (f : Nat) : (drawBallast d f).flights = d.flights := rfl

/-- What a sample leaves of its flight: the stop, and with both halls in service the ballast asked for (R341, R436). -/
theorem landingSample_flight (d : Device) (f : Nat) (r : LandingReading) :
    (tblGet blankFlight (landingSample d f r).flights f).stop = decide (60 < r.offMv) ∧
    ((servedHalls d f).length = 2 → (tblGet blankFlight (landingSample d f r).flights f).ballast =
      ballastFor (rawReading (tblGet blankFlight d.flights f) r)) := by
  unfold landingSample
  split
  next htwo =>
    simp only [landingPairSample, stageEntry_flights, flightOf_modFlight_same, implies_true, and_self]
  next hone =>
    simp only [loneLanding, stageEntry_flights, flightOf_modFlight_same, true_and]
    exact fun htwo => absurd htwo hone

/-! ### Ageing (R343, Table 12.4) -/

/-- A telemetry entry leaves the halls. -/
theorem hallOf_telemetryPut (d : Device) (src : Source) (kind code source data h : Nat) :
    hallOf (telemetryPut d src kind code source data) h = hallOf d h := rfl

/-- A margin code is a nibble. -/
theorem marginCode_lt (mv : Nat) : marginCode mv < 16 := by
  unfold marginCode ceilDiv
  split <;> omega

/-- The code 15 stands for more than 60 mV. -/
theorem marginCode_ne_iff (mv : Nat) : marginCode mv ≠ 15 ↔ mv ≤ 60 := by
  unfold marginCode ceilDiv
  split <;> omega

/-- A number written in nibbles is bounded, and gives each of them back. -/
theorem nibble_of_sum {f : Nat → Nat} (hf : ∀ k, f k < 16) (n : Nat) :
    ((List.range n).map fun k => f k * 16 ^ k).sum < 16 ^ n ∧
      ∀ c, c < n → ((List.range n).map fun k => f k * 16 ^ k).sum / 16 ^ c % 16 = f c := by
  induction n with
  | zero => exact ⟨Nat.one_pos, fun _ h => absurd h (Nat.not_lt_zero _)⟩
  | succ n ih =>
    obtain ⟨hlt, hnibble⟩ := ih
    have htop : f n * 16 ^ n ≤ 15 * 16 ^ n := Nat.mul_le_mul_right _ (Nat.le_of_lt_succ (hf n))
    simp only [List.range_succ, List.map_append, List.sum_append, List.map_cons, List.map_nil, List.sum_singleton]
    refine ⟨by rw [pow_succ]; omega, fun c hc => ?_⟩
    obtain hc | rfl := Nat.lt_succ_iff_lt_or_eq.mp hc
    · have hpow : f n * 16 ^ n = 16 ^ c * (16 * (f n * 16 ^ (n - c - 1))) := by
        rw [show n = c + 1 + (n - c - 1) by omega, pow_add, pow_succ]
        simp only [show c + 1 + (n - c - 1) - c - 1 = n - c - 1 by omega]
        ring
      rw [hpow, Nat.add_mul_div_left _ _ (by positivity), Nat.add_mul_mod_self_left]
      exact hnibble c hc
    · rw [Nat.add_mul_div_right _ _ (by positivity), Nat.div_eq_of_lt hlt, Nat.zero_add, Nat.mod_eq_of_lt (hf c)]

/-- The nibbles of a re-plan's margin word are its classes' codes. -/
theorem marginWord_nibble (mvs : List Nat) {c : Nat} (hc : c < 8) :
    (marginWord mvs).toNat / 16 ^ c % 16 = marginCode (mvs.getD c 61) := by
  obtain ⟨hlt, hnibble⟩ := nibble_of_sum (fun k => marginCode_lt (mvs.getD k 61)) 8
  rw [marginWord, BitVec.toNat_ofNat, Nat.mod_eq_of_lt (hlt.trans_eq (by norm_num))]
  exact hnibble c hc

/-- A class of a re-plan is usable where it needs no more than 60 mV. -/
theorem usable_marginWord (mvs : List Nat) {c : Nat} (hc : c < 8) :
    usable (marginWord mvs) c = decide (mvs.getD c 61 ≤ 60) := by
  rw [usable, marginWord_nibble mvs hc]
  exact decide_eq_decide.mpr (marginCode_ne_iff _)

/-- The last number below a bound with a property is the one above which none has it. -/
theorem getLast?_filter_range {p : Nat → Bool} {c : Nat} (hc : p c = true) :
    ∀ {n : Nat}, c < n → (∀ k, c < k → k < n → p k = false) → ((List.range n).filter p).getLast? = some c
  | n + 1, hlt, hlater => by
    rw [List.range_succ, List.filter_append]
    by_cases hn : c = n
    · subst hn
      simp [hc]
    · have hlast : p n = false := hlater n (by omega) (Nat.lt_succ_self n)
      rw [List.filter_singleton, hlast]
      simpa using getLast?_filter_range hc (n := n) (by omega) fun k hk hkn => hlater k hk (by omega)

/-- A re-plan without a usable class finds the hall unusable (R440). -/
theorem ageingReplan_unusable {d : Device} {h : Nat} {mvs : List Nat} (hservice : (hallOf d h).ck.service = true)
    (hmvs : ∀ c, c < 8 → 60 < mvs.getD c 61) : (hallOf (ageingReplan d h mvs) h).ck.unusable = true := by
  have hnone : ((List.range 8).filter fun c => usable (marginWord mvs) c) = [] := by
    refine List.filter_eq_nil_iff.mpr fun c hc => ?_
    have hc8 : c < 8 := List.mem_range.mp hc
    rw [usable_marginWord mvs hc8, decide_eq_true_eq, not_le]
    exact hmvs c hc8
  simp only [ageingReplan, hservice, Bool.not_true, Bool.false_eq_true, if_false, hnone, List.getLast?_nil]
  rw [hallOf_telemetryPut, modCk, hallOf_modHall_same]

/-- A re-plan plans the highest usable class as the hall's cap (R343). -/
theorem ageingReplan_cap {d : Device} {h c : Nat} {mvs : List Nat} (hservice : (hallOf d h).ck.service = true) (hc : c < 8)
    (hmv : mvs.getD c 61 ≤ 60) (hlater : ∀ k, c < k → k < 8 → 60 < mvs.getD k 61) :
    (hallOf (ageingReplan d h mvs) h).ck.newCap = some (BitVec.ofNat 3 c) ∧
      (hallOf (ageingReplan d h mvs) h).ck.unusable = false := by
  have htop : ((List.range 8).filter fun c => usable (marginWord mvs) c).getLast? = some c := by
    refine getLast?_filter_range ?_ hc fun k hk hk8 => ?_
    · rw [usable_marginWord mvs hc]
      exact decide_eq_true hmv
    · rw [usable_marginWord mvs hk8]
      exact decide_eq_false (Nat.not_le_of_lt (hlater k hk hk8))
  simp only [ageingReplan, hservice, Bool.not_true, Bool.false_eq_true, if_false, htop]
  rw [hallOf_telemetryPut, modCk, hallOf_modHall_same]
  exact ⟨rfl, rfl⟩

/-! ### The steps -/

/-- What a boundary leaves of a hall's energy (R338, R340). -/
theorem hallBoundary_energy {emeas : W32} {c : HallCount} {tbud : Nat} {p : HallPower}
    (howed : p.overspend.toNat + (emeas.toNat - p.bprev.toNat) < 2 ^ 32) :
    (hallBoundary emeas c tbud p).emeas = emeas ∧
    (hallBoundary emeas c tbud p).erem.toNat =
      min p.ebud.toNat tbud - (p.overspend.toNat + (emeas.toNat - p.bprev.toNat)) ∧
    (hallBoundary emeas c tbud p).overspend.toNat =
      p.overspend.toNat + (emeas.toNat - p.bprev.toNat) - min p.ebud.toNat tbud ∧
    (hallBoundary emeas c tbud p).bprev.toNat = min p.ebud.toNat tbud := by
  have hebud := p.ebud.isLt
  simp only [hallBoundary, BitVec.toNat_ofNat, true_and]
  refine ⟨Nat.mod_eq_of_lt ?_, Nat.mod_eq_of_lt ?_, Nat.mod_eq_of_lt ?_⟩ <;> omega

/-- Settles O44: each step of classes, budgets, ageing and droops leaves what the spec says of its hall or flight. -/
theorem powerSteps : Obligations.PowerSteps := by
  refine ⟨?ibud, ?boundary, ?energy, ?slew, ?hop, ?hopEnd, ?landing, ?droop, ?clear, ?ageing, ?retired⟩
  case ibud =>
    intro hall value s
    refine ⟨_, dieGoes_of (f := fun d => refreshIrem (modPw d hall fun p => { p with ibud := value }) hall) rfl rfl, ?_, ?_⟩
    · simp [refreshIrem, modPw]
    · simp only [refreshIrem, modPw, hallOf_modHall_same, iremOf]
      rfl
  case boundary =>
    intro samples outside s
    refine ⟨_, rfl, rfl, dieBoundary_nhmax .., fun z hz => ?_⟩
    exact congrArg Zone.tbud (zoneOf_zoneBoundary s.plant hz)
  case energy =>
    intro emeas c tbud p q owed b howed
    exact hallBoundary_energy howed
  case slew =>
    intro f c s hslew hlow hhigh down
    refine dieGoes_of (f := fun d => slewEnd d f) rfl ?_
    simp only [slewEnd, hslew, hlow, hhigh, Bool.false_eq_true, or_self, if_false]
    rfl
  case hop =>
    intro h s hdue hdroop
    refine dieGoes_of (f := fun d => hopStart d h) rfl ?_
    simp only [hopStart, hdue, hdroop, Bool.not_true, Bool.or_self, Bool.false_eq_true, if_false]
  case hopEnd =>
    intro h c s hhop hdroop fell
    refine dieGoes_of (f := fun d => Machine.hopEnd d h) rfl ?_
    simp only [Machine.hopEnd, hhop, hdroop, Bool.false_eq_true, if_false]
    rfl
  case landing =>
    intro f r s
    exact ⟨_, dieGoes_of (f := fun d => landingSample d f r) rfl rfl, landingSample_flight s.dev f r⟩
  case droop =>
    intro h s
    exact dieGoes_of (f := fun d => modCk d h fun c => { c with droop := true }) rfl rfl
  case clear =>
    intro h cycles s hdroop
    refine dieGoes_of (f := fun d => droopClear d h cycles) rfl ?_
    simp only [droopClear, hdroop, Bool.not_true, Bool.false_eq_true, if_false]
  case ageing =>
    intro h mvs s hservice
    exact ⟨_, dieGoes_of (f := fun d => ageingReplan d h mvs) rfl rfl, ageingReplan_unusable hservice,
      fun c hc hmv hlater => ageingReplan_cap hservice hc hmv hlater⟩
  case retired =>
    intro h mvs s hservice
    refine dieGoes_of (f := fun d => ageingReplan d h mvs) rfl ?_
    simp only [ageingReplan, hservice, Bool.not_false, if_true]

end Sys2Proof.Machine
end

section
/-! PROOFS. O45: coolant zones (R342, R437 to R439). What an event does to a zone's halls is said hall by hall; a change of
targets, a termination and a lost alcove leave what it says. -/

namespace Sys2Proof.Machine

/-! ### The halls of a zone -/

/-- What each hall's step brings about in its hall and keeps in the others holds of every hall stepped. -/
theorem foldl_holds {P : Hall → Prop} {f : Device → Nat → Device} (hset : ∀ d h, P (hallOf (f d h) h))
    (hkeep : ∀ d h y, P (hallOf d y) → P (hallOf (f d h) y)) :
    ∀ {hs : List Nat} {d : Device} {y : Nat}, y ∈ hs → P (hallOf (hs.foldl f d) y)
  | h :: hs, d, y, hy => by
    rw [List.foldl_cons]
    by_cases hmem : y ∈ hs
    · exact foldl_holds hset hkeep hmem
    · obtain rfl : y = h := (List.mem_cons.mp hy).resolve_right hmem
      exact List.foldlRecOn (motive := fun d => P (hallOf d y)) hs f (hset d y) fun d hd h _ => hkeep d h y hd

/-- The halls of a compute zone (R19). -/
theorem mem_zoneHalls {z i : Nat} (hz : z < 32) (hi : i < 4) : 4 * z + i ∈ zoneHalls z := by
  rw [zoneHalls, if_pos hz]
  exact List.mem_map_of_mem (List.mem_range.mpr hi)

/-- What each hall's step brings about holds of every hall of the zone. -/
theorem eachHall_holds {P : Hall → Prop} {f : Device → Nat → Device} (hset : ∀ d h, P (hallOf (f d h) h))
    (hkeep : ∀ d h y, P (hallOf d y) → P (hallOf (f d h) y)) {z : Nat} (hz : z < 32) (d : Device) :
    ∀ i, i < 4 → P (hallOf (eachHall z f d) (4 * z + i)) :=
  fun _ hi => foldl_holds hset hkeep (mem_zoneHalls hz hi)

/-- What a change keeps of the hall changed is kept of every hall. -/
theorem hallOf_modHall_keeps {β : Type} {m : Hall → β} {g : Hall → Hall} (hg : ∀ x, m (g x) = m x) (d : Device) (h y : Nat) :
    m (hallOf (modHall d h g) y) = m (hallOf d y) := by
  by_cases hy : y = h
  · subst hy
    rw [hallOf_modHall_same, hg]
  · rw [hallOf_modHall_ne _ _ hy]

/-- What an event of coolant says of a hall: its energy left, whether it is held and whether it is stopped. -/
def coolantState (h : Hall) : W32 × Bool × Bool := (h.pw.erem, h.ck.held, h.ck.stopped)

/-- A change of a hall's clock that keeps what coolant says keeps it of every hall. -/
theorem modCk_coolantState {g : HallClock → HallClock} (hheld : ∀ c, (g c).held = c.held)
    (hstopped : ∀ c, (g c).stopped = c.stopped) (d : Device) (h y : Nat) :
    coolantState (hallOf (modCk d h g) y) = coolantState (hallOf d y) :=
  hallOf_modHall_keeps (fun x => by simp only [coolantState, hheld, hstopped]) d h y

/-- A flight's next step leaves what coolant says of its halls. -/
theorem settleFlight_coolantState (d : Device) (f y : Nat) :
    coolantState (hallOf (settleFlight d f) y) = coolantState (hallOf d y) := by
  have hclocks {g : HallClock → HallClock} (hheld : ∀ c, (g c).held = c.held) (hstopped : ∀ c, (g c).stopped = c.stopped)
      (d : Device) : coolantState (hallOf (modClocks d f g) y) = coolantState (hallOf d y) :=
    (modCk_coolantState hheld hstopped ..).trans (modCk_coolantState hheld hstopped ..)
  simp only [settleFlight]
  split
  · rfl
  · split
    · exact hclocks (by exact fun _ => rfl) (by exact fun _ => rfl) d
    · split
      · exact (hclocks (by exact fun _ => rfl) (by exact fun _ => rfl) _).trans rfl
      · split <;> rfl

/-- New targets leave what coolant says of the halls. -/
theorem retarget_coolantState (d : Device) (f y : Nat) :
    coolantState (hallOf (retarget d f) y) = coolantState (hallOf d y) :=
  (settleFlight_coolantState ..).trans ((modCk_coolantState (by exact fun _ => rfl) (by exact fun _ => rfl) ..).trans
    (modCk_coolantState (by exact fun _ => rfl) (by exact fun _ => rfl) ..))

/-- A hall evacuated is held and has no energy (R438). -/
theorem evacuateHall_coolantState (d : Device) (h : Nat) :
    coolantState (hallOf (evacuateHall d h) h) = (0, true, (hallOf d h).ck.stopped) := by
  rw [evacuateHall, retarget_coolantState]
  simp only [modPw, modCk, hallOf_modHall_same, coolantState]

/-- An evacuated hall leaves held halls held, and energy where there was none. -/
theorem evacuateHall_keeps (d : Device) (h y : Nat) (hy : (hallOf d y).ck.held = true ∧ (hallOf d y).pw.erem = 0) :
    (hallOf (evacuateHall d h) y).ck.held = true ∧ (hallOf (evacuateHall d h) y).pw.erem = 0 := by
  have hstate : coolantState (hallOf (evacuateHall d h) y) = (0, true, (hallOf d y).ck.stopped) := by
    by_cases hyh : y = h
    · subst hyh
      exact evacuateHall_coolantState d y
    · obtain ⟨hheld, herem⟩ := hy
      rw [evacuateHall, retarget_coolantState]
      simp only [modPw, modCk, hallOf_modHall_ne _ _ hyh, coolantState, hheld, herem]
  exact ⟨congrArg (·.2.1) hstate, congrArg (·.1) hstate⟩

/-- A hall released is not held. -/
theorem releaseHall_held (d : Device) (h y : Nat) :
    (hallOf (releaseHall d h) y).ck.held = if y = h then false else (hallOf d y).ck.held := by
  have hstate := retarget_coolantState (modCk d h fun k => { k with held := false }) (flightNo h) y
  refine (congrArg (·.2.1) hstate).trans ?_
  split
  next hy =>
    subst hy
    exact congrArg (fun x : Hall => x.ck.held) (hallOf_modHall_same ..)
  next hy => exact congrArg (fun x : Hall => x.ck.held) (hallOf_modHall_ne _ _ hy)

/-! ### A hall stopped for heat (R439): terminations leave the halls' clocks -/

/-- A write to memory leaves the halls' clocks. -/
theorem memWrite_ck (d : Device) (own a : Nat) (bs : List Byte) (y : Nat) :
    (hallOf (memWrite d own a bs) y).ck = (hallOf d y).ck := by
  obtain ⟨c, l, h⟩ := memWrite_eq d own a bs
  rw [h]
  simp only [hallOf, memSettle, tblGet_eq, tblFind_tblMap]
  cases tblFind d.halls y with
  | none => rfl
  | some x => rfl

/-- A fault record leaves the halls' clocks. -/
theorem faultRecord_ck (d : Device) (src : Source) (ctx : Nat) (cause : BitVec 8) (term : Bool) (mask : Mask) (info : W64)
    (p : Where) (y : Nat) : (hallOf (faultRecord d src ctx cause term mask info p) y).ck = (hallOf d y).ck := by
  unfold faultRecord
  rw [hallOf, emit_halls, raiseIrq_halls, modCtx_halls]
  exact memWrite_ck ..

/-- The attachments of a block that end leave the halls. -/
theorem releaseAttachments_halls (d : Device) (bid : Nat) : (releaseAttachments d bid).halls = d.halls := by
  unfold releaseAttachments
  split
  · rfl
  · refine foldl_keeps (m := Device.halls) (fun d (a : Attach) => ?_) _ d
    simp only [alcDetach]
    split_ifs <;> rfl

/-- A terminated block leaves the halls' clocks. -/
theorem terminate_ck (d : Device) (bid : Nat) (src : Source) (cause : BitVec 8) (mask : Mask) (info : W64) (p : Where)
    (y : Nat) : (hallOf (terminate d bid src cause mask info p) y).ck = (hallOf d y).ck := by
  unfold terminate
  split
  · rfl
  · split
    · rfl
    · rw [hallOf, modGrid_halls, modBlock_halls]
      refine (faultRecord_ck _ src _ cause true mask info p y).trans ?_
      rw [hallOf, releaseAttachments_halls, modCore_halls]
      exact hallOf_modHall_keeps (m := Hall.ck) (g := discardBlock bid) (fun _ => rfl) d _ y

/-- A lost alcove leaves the halls' clocks. -/
theorem loseAlcove_ck (d : Device) (i y : Nat) : (hallOf (loseAlcove d i) y).ck = (hallOf d y).ck := by
  rw [loseAlcove, faultRecord_ck]
  rfl

/-- A hall cleared leaves the halls' clocks. -/
theorem clearHall_ck (d : Device) (h : Nat) (src : Source) (cause : BitVec 8) (info : W64) (y : Nat) :
    (hallOf (clearHall d h src cause info) y).ck = (hallOf d y).ck :=
  (foldl_keeps (m := fun d => (hallOf d y).ck) (fun d i => loseAlcove_ck d i y) _ _).trans
    (foldl_keeps (m := fun d => (hallOf d y).ck) (fun _ _ => terminate_ck ..) _ d)

/-- A stopped clock is stopped, and another is left alone. -/
theorem stopHall_stopped (d : Device) (h y : Nat) :
    (hallOf (stopHall d h) y).ck.stopped = if y = h then true else (hallOf d y).ck.stopped := by
  split
  next hy =>
    subst hy
    exact congrArg (fun x : Hall => x.ck.stopped) (hallOf_modHall_same ..)
  next hy => exact congrArg (fun x : Hall => x.ck.stopped) (hallOf_modHall_ne _ _ hy)

/-- A hall stopped for heat is stopped. -/
theorem overheatHall_stopped (z : Nat) (d : Device) (h y : Nat) :
    (hallOf (overheatHall z d h) y).ck.stopped = if y = h then true else (hallOf d y).ck.stopped := by
  rw [overheatHall, clearHall_ck]
  exact stopHall_stopped d h y

/-- A flag that each hall's step gives its value holds of every hall of the zone. -/
theorem eachHall_flag {m : Hall → Bool} {b : Bool} {f : Device → Nat → Device}
    (hf : ∀ d h y, m (hallOf (f d h) y) = if y = h then b else m (hallOf d y)) {z : Nat} (hz : z < 32) (d : Device) :
    ∀ i, i < 4 → m (hallOf (eachHall z f d) (4 * z + i)) = b := by
  refine eachHall_holds (P := fun x => m x = b) (fun d h => (hf d h h).trans (if_pos rfl)) (fun d h y hy => ?_) hz d
  rw [hf, hy, ite_self]

/-! ### Zones and ports -/

/-- A sound reading is what the zone then reads (R437). -/
theorem readZone_valid {r : ZoneReading} (hr : r.valid = true) (x : Zone) :
    readZone r x = { x with temp := r.temp, flow := r.flow, press := r.press, dry := r.dry, failed := false } := if_pos hr

/-- A reading that fails its check takes the budget away (R437). -/
theorem readZone_invalid {r : ZoneReading} (hr : r.valid = false) (x : Zone) :
    readZone r x = { x with failed := true, tbud := 0 } := if_neg (by simp [hr])

/-- A reading leaves what its zone does and how its valve stands. -/
theorem readZone_course (r : ZoneReading) (x : Zone) :
    (readZone r x).evacuating = x.evacuating ∧ (readZone r x).closed = x.closed ∧ (readZone r x).valve = x.valve := by
  unfold readZone
  split <;> exact ⟨rfl, rfl, rfl⟩

/-- The valve goes one step nearer the grant (R342). -/
theorem stepValve_valve {x : Zone} (he : x.evacuating = false) (hc : x.closed = false) :
    (stepValve x).valve.toNat = if x.valve.toNat < x.grant.toNat then x.valve.toNat + 1
      else if x.grant.toNat < x.valve.toNat then x.valve.toNat - 1 else x.valve.toNat := by
  have hgrant := x.grant.isLt
  simp only [stepValve, he, hc, Bool.or_self, Bool.false_eq_true, if_false]
  split
  · exact BitVec.toNat_add_of_lt (by simp; omega)
  · split
    · exact BitVec.toNat_sub_of_le (by simp [BitVec.le_def]; omega)
    · rfl

/-- A table that gives each of its keys a value gives it back. -/
theorem tblFind_map_keys {β : Type} (f : Nat → β) {k : Nat} : ∀ {ks : List Nat}, k ∈ ks →
    tblFind (ks.map fun x => (x, f x)) k = some (f k)
  | x :: ks, hk => by
    simp only [List.map_cons, tblFind]
    split
    next hx => rw [hx]
    next hx => exact tblFind_map_keys f ((List.mem_cons.mp hk).resolve_left fun h => hx h)

/-- Each port that exists takes the speed set (R438). -/
theorem portOf_slowPorts (slow : Bool) (pl : Plant) {p : Nat} (hp : p < 16) : (portOf (slowPorts slow pl) p).slow = slow := by
  rw [portOf, tblGet_eq, slowPorts, tblFind_map_keys _ (List.mem_range.mpr hp), Option.getD_some]

/-- Settles O45: each event leaves what the spec says of its zone, its halls and the ports. -/
theorem coolantSteps : Obligations.CoolantSteps := by
  refine ⟨?grant, ?valve, ?event, ?evacuates, ?ends, ?overheats, ?periphery⟩
  case grant =>
    intro z value s hz
    refine ⟨grantWrite z value s, congrArg Host.Outcome.next (if_pos hz), ?_, ?_, ?_, fun y hy => zoneOf_modZone_ne _ _ hy⟩
    · simp [grantWrite]
    · simp [grantWrite]
    · simp only [grantWrite, zoneOf_modZone_same]
      exact clampGrant_toNat ..
  case valve =>
    intro z r s hz he hc
    obtain ⟨hevac, hclosed, hvalve⟩ := readZone_course r (zoneOf s.plant z)
    refine ⟨_, congrArg Host.Outcome.next (if_pos hz), ?_, rfl, ?_⟩
    · simp only [senseZone, zoneOf_modZone_same, stepValve_grant, readZone_grant]
    · simp only [senseZone, zoneOf_modZone_same]
      rw [stepValve_valve (hevac.trans he) (hclosed.trans hc), hvalve, readZone_grant]
  case event =>
    intro z r s hz
    refine ⟨senseZone z r s, congrArg Host.Outcome.next (if_pos hz), fun hr => ?_, fun hr => ?_⟩
    · simp only [senseZone, zoneOf_modZone_same, readZone_valid hr, and_self]
    · simp only [senseZone, zoneOf_modZone_same, readZone_invalid hr, readingCodes, hr, Bool.not_false, if_true, true_and]
      rfl
  case evacuates =>
    intro z s hz hdry he hc
    have hgoes : z < 36 ∧ (zoneOf s.plant z).dry ∧ !(zoneOf s.plant z).evacuating ∧ !(zoneOf s.plant z).closed := by
      simp [hz, hdry, he, hc]
    have hzone : zoneOf (evacuate z s).plant z = { zoneOf s.plant z with
        evacuating := true, tbud := 0, valve := if z < 32 then 15 else (zoneOf s.plant z).valve } := by
      rw [← zoneOf_modZone_same s.plant z fun x =>
        { x with evacuating := true, tbud := 0, valve := if z < 32 then 15 else x.valve }]
      simp only [evacuate]
      split <;> rfl
    refine ⟨evacuate z s, congrArg Host.Outcome.next (if_pos hgoes), ?_, ?_, fun hz32 => ⟨?_, ?_⟩, ?_⟩
    · rw [hzone]
    · rw [hzone]
    · rw [hzone]
      exact if_pos hz32
    · refine eachHall_holds (P := fun x => x.ck.held = true ∧ x.pw.erem = 0) (fun d h => ?_) evacuateHall_keeps hz32 _
      have hstate := evacuateHall_coolantState d h
      exact ⟨congrArg (·.2.1) hstate, congrArg (·.1) hstate⟩
    · rintro rfl p hp
      exact portOf_slowPorts true _ hp
  case ends =>
    intro z r s hz he hr
    have hgoes : z < 36 ∧ (zoneOf s.plant z).evacuating = true := ⟨by omega, he⟩
    have hread : zoneOf (senseZone z r s).plant z = { zoneOf s.plant z with
        temp := r.temp, flow := r.flow, press := r.press, dry := r.dry, failed := false } :=
      (zoneOf_modZone_same ..).trans (readZone_valid hr _)
    refine ⟨endEvacuation z r s, congrArg Host.Outcome.next (if_pos hgoes), ?_, fun hdry htemp => ?_, fun hhot => ?_⟩
    · simp only [endEvacuation, if_neg (Nat.not_le_of_lt hz)]
      split <;> simp
    · have hwell : (!r.dry && decide (r.temp.toNat ≤ (zoneOf s.plant z).tgt.toNat)) = true := by simp [hdry, htemp]
      simp only [endEvacuation, if_neg (Nat.not_le_of_lt hz), hread, hwell, if_true, zoneOf_modZone_same, true_and]
      exact eachHall_flag (m := fun x => x.ck.held) releaseHall_held hz _
    · have hill : (!r.dry && decide (r.temp.toNat ≤ (zoneOf s.plant z).tgt.toNat)) = false := by
        obtain hdry | hhot := hhot
        · simp [hdry]
        · simp [Nat.not_le_of_lt hhot]
      simp only [endEvacuation, if_neg (Nat.not_le_of_lt hz), hread, hill, Bool.false_eq_true, if_false, zoneOf_modZone_same,
        true_and]
      exact eachHall_flag (m := fun x => x.ck.stopped) stopHall_stopped hz _
  case overheats =>
    intro z s hz htemp
    have hgoes : z < 36 ∧ 1760 ≤ (zoneOf s.plant z).temp.toNat := ⟨by omega, htemp⟩
    have hzone : zoneOf (overheat z s).plant z = { zoneOf s.plant z with evacuating := false, closed := true } := by
      simp only [overheat, if_pos hz, zoneOf_modZone_same]
    refine ⟨overheat z s, congrArg Host.Outcome.next (if_pos hgoes), ?_, ?_, ?_⟩
    · rw [hzone]
    · rw [hzone]
    · exact eachHall_flag (m := fun x => x.ck.stopped) (overheatHall_stopped z) hz _
  case periphery =>
    intro z s hz hz36 htemp
    have hgoes : z < 36 ∧ 1760 ≤ (zoneOf s.plant z).temp.toNat := ⟨hz36, htemp⟩
    refine (congrArg Host.Outcome.next (if_pos hgoes)).trans ?_
    simp only [overheat, if_neg (Nat.not_lt_of_le hz), eachHall, zoneHalls, List.foldl_nil]
    rfl

end Sys2Proof.Machine
end

section
/-! PROOFS. O46: engines reset, units reloaded, decoders expired, storage damaged, requests of and to other modules (R408 to
R413, R419, R420, R427, R430). -/

namespace Sys2Proof.Machine

/-- A key that a filter on keys refuses reads as if it were not listed. -/
theorem tblGet_filter_refused {β : Type} (b : β) {p : Nat → Bool} {k : Nat} (hk : p k = false) (t : Tbl β) :
    tblGet b (t.filter fun e => p e.1) k = b := by
  have hnone : tblFind (t.filter fun e => p e.1) k = none := by
    induction t with
    | nil => rfl
    | cons e t ih =>
      rw [List.filter_cons]
      split
      next he =>
        rw [tblFind, if_neg (by rintro rfl; simp [hk] at he)]
        exact ih
      next he => exact ih
  rw [tblGet_eq, hnone, Option.getD_none]

/-- A cleared accumulator file reads +0 (R420, step 4). -/
theorem clearAcc_zero (h : Nat) (st : Stores) {tile i j : Nat} (htile : tile < 12) (hi : i < 64) (hj : j < 128) :
    tblGet 0#80 (clearAcc h st).acc (accKey h tile i j) = 0 := by
  refine tblGet_filter_refused (p := fun k => !(decide (accKey h 0 0 0 ≤ k) && decide (k < accKey (h + 1) 0 0 0))) 0#80 ?_ st.acc
  have hlow : accKey h 0 0 0 ≤ accKey h tile i j := by simp only [accKey]; omega
  have hhigh : accKey h tile i j < accKey (h + 1) 0 0 0 := by simp only [accKey]; omega
  simp [hlow, hhigh]

/-- A hung engine of a hall without blocks stops, its tiles and metadata cleared (R420). -/
theorem matHang_empty {d : Device} {h : Nat} (hhung : (hallOf d h).matHung = false) (hover : matOverdue (hallOf d h) = true)
    (hblocks : hallBlocks d h = []) :
    (hallOf (matHang d h) h).matHung = true ∧ (hallOf (matHang d h) h).matHeld = true ∧
      (matHang d h).st = clearAcc h d.st := by
  simp only [matHang, hhung, hover, hblocks, Bool.not_true, Bool.or_self, Bool.false_eq_true, if_false, List.filter_nil,
    List.foldl_nil]
  generalize (match runningEntry (hallOf d h) with | some e => e.opc.toNat | none => openTel 6 0) = opc
  refine ⟨?_, ?_, rfl⟩
  · rw [hallOf_telemetryPut]
    exact congrArg Hall.matHung (hallOf_modHall_same ..)
  · rw [hallOf_telemetryPut]
    exact congrArg Hall.matHeld (hallOf_modHall_same ..)

/-- An orphaned token leaves the blocks. -/
theorem orphanOf_blocks (d : Device) (core slot block : Nat) (tok : Option (BitVec 4)) :
    (orphanOf d core slot block tok).blocks = d.blocks := by
  cases tok <;> rfl

/-- A queue whose head is hung is reset, with its record (R430). -/
theorem resetQueue_hung {d : Device} {h q : Nat} {o : CopyOp} {t : List CopyOp} {b : Block} (hops : cqOf (hallOf d h) q = o :: t)
    (hover : copyOverdue d o = true) (hb : tblFind d.blocks o.block = some b) :
    resetQueue d h q = faultRecord ((o :: t).foldl (fun d o => orphanOf d o.core o.slot o.block (eTok o.word))
      (modHall d h fun k => (o :: t).foldl (fun k o => unlockOp o.id k) { k with cq := tblSet k.cq q ((o :: t).map hangCopy) }))
      (.copyQueue h q) o.ctx 0x5B false 0 (BitVec.ofNat 64 (q + 4 * h)) { blockWhere b with hdr := 0, word := 0, slot := 0 } := by
  have hblocks (d : Device) : ((o :: t).foldl (fun d o => orphanOf d o.core o.slot o.block (eTok o.word)) d).blocks = d.blocks :=
    foldl_keeps (m := Device.blocks) (fun d (o : CopyOp) => orphanOf_blocks d o.core o.slot o.block _) _ d
  simp only [resetQueue, hops, hover, Bool.not_true, Bool.false_eq_true, if_false, hblocks, modHall_blocks, hb]

/-- Settles O46: each failure has the effect that the spec gives it. -/
theorem failureSteps : Obligations.FailureSteps := by
  refine ⟨?hang, ?restart, ?queue, ?reload, ?early, ?reloaded, ?decoder, ?expansion, ?lost, ?remote, ?logged⟩
  case hang =>
    intro h s hh hhung hover hblocks
    obtain ⟨hstopped, hheld, hst⟩ := matHang_empty hhung hover hblocks
    refine ⟨matHang s.dev h, dieGoes_of (f := fun d => if h < Config.halls then matHang d h else d) rfl (if_pos hh), hstopped,
      hheld, fun tile i j htile hi hj => ?_⟩
    rw [accGet, hst]
    exact clearAcc_zero h s.dev.st htile hi hj
  case restart =>
    intro h s hhung
    exact dieGoes_of (f := fun d => if (hallOf d h).matHung then
      modHall d h fun h => { h with matHung := false, matHeld := false } else d) rfl (if_pos hhung)
  case queue =>
    intro h q s o t b hops hover hb d
    exact dieGoes_of (f := fun d => resetQueue d h q) rfl (resetQueue_hung hops hover hb)
  case reload =>
    intro kind unit s hkind hstopped hover
    have hlt : kind < 5 := by omega
    have hray : kind ≠ 0 := by omega
    have hpass : kind ≠ 4 := by omega
    refine dieGoes_of (f := fun d => if kind < 5 && unitOverdue d kind unit then unitReload d kind unit else d) rfl ?_
    simp only [hlt, decide_true, hover, Bool.and_self, if_true, unitReload, hstopped, Bool.false_eq_true, if_false, hray, hpass,
      unitSource]
  case early =>
    intro kind unit s hlt hearly
    refine dieGoes_of (f := fun d => if kind < 5 && unitOverdue d kind unit then unitReload d kind unit else d) rfl ?_
    simp only [hearly, Bool.and_false, Bool.false_eq_true, if_false]
  case reloaded =>
    intro kind unit s hstopped
    exact dieGoes_of (f := fun d => if unitStopped d kind unit then
      modUnit d kind unit fun u => { u with reloading := false, idle := 0 } else d) rfl (if_pos hstopped)
  case decoder =>
    intro core slot va s w a hslot hw ha
    refine dieGoes_of (f := fun d => decoderExpire d core slot va) rfl ?_
    simp only [decoderExpire, if_pos hslot, waveExpire, hw, expireInfo, ha]
  case expansion =>
    intro hall q va s o t hq hops hbegun hfinished hopc hplace
    refine dieGoes_of (f := fun d => decoderExpire d hall (64 + q) va) rfl ?_
    have hgoes : (o.begun && !o.finished && decide (o.opc = 0x33) &&
        decide (vaNat ((opDst o).base + o.unit) = va.toNat / 256 * 256)) = true := by simp [hbegun, hfinished, hopc, hplace]
    simp only [decoderExpire, if_neg (show ¬ 64 + q < 64 by omega), if_pos (show 64 + q < 68 by omega), copyExpire,
      Nat.add_sub_cancel_left, hops, hgoes, if_true]
  case lost =>
    intro core slot op module port s w o hw ho hparts
    refine dieGoes_of (f := fun d => storeLost d core slot op module port) rfl ?_
    simp only [storeLost, hw, ho, if_neg hparts]
  case remote =>
    intro addr bs s hbs hline hregion
    have hfits : remoteFits addr bs.length = true := by
      simp [remoteFits, List.length_pos_iff.mpr hbs, hline, hregion]
    exact congrArg Host.Outcome.next (if_pos hfits)
  case logged =>
    intro x s hstore hcorrectable
    refine dieGoes_of (f := fun d => damage d x) rfl ?_
    simp only [damage, if_neg hstore, hcorrectable, if_true]

end Sys2Proof.Machine
end

section
/-! PROOFS. O47: ports, boot, attestation, captures, updates and checkpoints (R352, R354 to R357, R442 to R445). -/

namespace Sys2Proof.Machine

/-! ### Ports (R442, R443) -/

/-- A changed port reads as changed. -/
theorem portOf_modPort_same (p : Nat) (f : Port → Port) (s : State) :
    portOf (modPort p f s).plant p = f (portOf s.plant p) := by simp [portOf, modPort]

/-- A port taken out of the routes is in no mask (R443). -/
theorem unroute_masks (p : Nat) (d : Device) (m : Nat) : tblGet 0#16 (unroute p d).routes m &&& BitVec.ofNat 16 (2 ^ p) = 0 := by
  simp only [unroute, tblGet_eq, tblFind_tblMap]
  cases tblFind d.routes m with
  | none => exact BitVec.zero_and
  | some x =>
    rw [Option.map_some, Option.getD_some, BitVec.and_assoc]
    ext i
    simp

/-! ### Boot (R355) -/

/-- A first image that verifies is measured and loaded, and the rest follow. -/
theorem bootImages_verified {r : Nat} {rs : List Nat} {i : SignedImage} {is : List SignedImage} {pl : Plant} (hr : i.role = r)
    (hi : imageOk i = true) : bootImages (r :: rs) (i :: is) pl = bootImages rs is { pl with
      bootStage := pl.bootStage + 1, measure := extendM pl.measure i.bytes, versions := pl.versions ++ [imageVersion i]
      loaded := pl.loaded ++ [i] } := by
  rw [bootImages]
  exact if_pos ⟨hr, hi⟩

/-- A first image that does not verify stops the boot. -/
theorem bootImages_refused {r : Nat} {rs : List Nat} {i : SignedImage} {is : List SignedImage} {pl : Plant}
    (hi : ¬ (i.role = r ∧ imageOk i = true)) : bootImages (r :: rs) (i :: is) pl =
      { pl with bootStage := pl.bootStage + 1, mgmtOut := pl.mgmtOut ++ [leBytes 1 (pl.bootStage + 1)] } := by
  rw [bootImages]
  exact if_neg hi

/-- A full list of sound images boots to the end. -/
theorem bootImages_all : ∀ {is : List SignedImage} {rs : List Nat} {pl : Plant}, is.map (·.role) = rs → is.all imageOk = true →
    bootImages rs is pl = { pl with
      bootStage := pl.bootStage + rs.length + 1, apcUp := true
      measure := is.foldl (fun m i => extendM m i.bytes) pl.measure
      versions := pl.versions ++ is.map imageVersion, loaded := pl.loaded ++ is }
  | [], _, pl, rfl, _ => by simp [bootImages]
  | i :: is, _, pl, rfl, hall => by
    rw [List.all_cons, Bool.and_eq_true] at hall
    obtain ⟨hi, his⟩ := hall
    rw [List.map_cons, bootImages_verified rfl hi, bootImages_all rfl his]
    simp [Nat.add_assoc, Nat.add_comm 1]

/-- A full list with an image that does not verify stops there, with its number reported. -/
theorem bootImages_some : ∀ {is : List SignedImage} {rs : List Nat} {pl : Plant}, is.map (·.role) = rs →
    is.all imageOk = false → ∃ k, (is.take k).all imageOk = true ∧ ((is.drop k).head?.elim true imageOk) = false ∧
      (bootImages rs is pl).apcUp = pl.apcUp ∧ (bootImages rs is pl).loaded = pl.loaded ++ is.take k ∧
      (bootImages rs is pl).mgmtOut = pl.mgmtOut ++ [leBytes 1 (pl.bootStage + k + 1)]
  | [], _, _, _, hall => nomatch hall
  | i :: is, _, pl, rfl, hall => by
    cases hi : imageOk i with
    | false =>
      rw [List.map_cons, bootImages_refused (by simp [hi])]
      exact ⟨0, rfl, hi, rfl, (List.append_nil _).symm, rfl⟩
    | true =>
      rw [List.all_cons, hi, Bool.true_and] at hall
      rw [List.map_cons, bootImages_verified rfl hi]
      obtain ⟨k, hgood, hbad, hup, hloaded, hout⟩ := bootImages_some (pl := { pl with
        bootStage := pl.bootStage + 1, measure := extendM pl.measure i.bytes, versions := pl.versions ++ [imageVersion i]
        loaded := pl.loaded ++ [i] }) rfl hall
      refine ⟨k + 1, ?_, hbad, hup, ?_, ?_⟩
      · rw [List.take_succ_cons, List.all_cons, hi, hgood, Bool.and_self]
      · rw [hloaded, List.take_succ_cons, List.append_assoc, List.singleton_append]
      · rw [hout, Nat.add_right_comm pl.bootStage 1 k, Nat.add_assoc pl.bootStage k 1]

/-- A boot from reset takes the images of the eight roles in order. -/
theorem exec_moduleBoot {s : State} (h0 : s.plant.bootStage = 0) (is : List SignedImage) :
    exec (.moduleBoot is) s = .next { s with plant := bootImages (List.range 8) is s.plant } :=
  congrArg Host.Outcome.next (if_pos h0)

/-! ### The canonical form of a range copied (R357) -/

/-- The canonical form: no address below the bound, no zero byte, addresses rising. -/
theorem wfFrom_iff : ∀ {m : Memory} {lo : Nat}, Memory.wfFrom lo m = true ↔
    (∀ e ∈ m, lo ≤ e.1 ∧ e.2 ≠ 0#8) ∧ m.Pairwise fun a b => a.1 < b.1
  | [], _ => by simp [Memory.wfFrom]
  | (a, v) :: t, lo => by
    simp only [Memory.wfFrom, Bool.and_eq_true, decide_eq_true_eq, wfFrom_iff (m := t), List.forall_mem_cons,
      List.pairwise_cons]
    constructor
    · rintro ⟨⟨hlo, hv⟩, hall, hrising⟩
      exact ⟨⟨⟨hlo, hv⟩, fun e he => ⟨by have := (hall e he).1; omega, (hall e he).2⟩⟩, fun e he => (hall e he).1, hrising⟩
    · rintro ⟨⟨⟨hlo, hv⟩, hall⟩, hafter, hrising⟩
      exact ⟨⟨hlo, hv⟩, fun e he => ⟨hafter e he, (hall e he).2⟩, hrising⟩

/-- A range made a copy of another keeps the canonical form. -/
theorem copyRange_wf (src dst n : Nat) {m : Memory} (h : Memory.wf m = true) : Memory.wf (copyRange src dst n m) = true := by
  obtain ⟨hall, hrising⟩ := wfFrom_iff.mp h
  have hmoved {e : Nat × Byte} (he : e ∈ m.filterMap fun e =>
      if src ≤ e.1 ∧ e.1 < src + n then some (e.1 - src + dst, e.2) else none) : dst ≤ e.1 ∧ e.1 < dst + n ∧ e.2 ≠ 0#8 := by
    obtain ⟨a, ha, hae⟩ := List.mem_filterMap.mp he
    rw [Option.ite_none_right_eq_some, Option.some.injEq] at hae
    obtain ⟨⟨hlow, hhigh⟩, rfl⟩ := hae
    exact ⟨by simp, by simp only; omega, (hall a ha).2⟩
  refine wfFrom_iff.mpr ⟨fun e he => ⟨Nat.zero_le _, ?_⟩, ?_⟩
  · rw [copyRange, List.mem_append, List.mem_append] at he
    obtain (he | he) | he := he
    · exact (hall e (List.mem_filter.mp he).1).2
    · exact (hmoved he).2.2
    · exact (hall e (List.mem_filter.mp he).1).2
  · rw [copyRange, List.pairwise_append, List.pairwise_append]
    refine ⟨⟨hrising.filter _, ?_, fun a ha b hb => ?_⟩, hrising.filter _, fun a ha b hb => ?_⟩
    · refine hrising.filterMap _ fun a b hab x hx y hy => ?_
      rw [Option.ite_none_right_eq_some, Option.some.injEq] at hx hy
      obtain ⟨hxr, rfl⟩ := hx
      obtain ⟨hyr, rfl⟩ := hy
      simp only
      omega
    · have hlow := of_decide_eq_true (List.mem_filter.mp ha).2
      have hin := hmoved hb
      omega
    · have hhigh := of_decide_eq_true (List.mem_filter.mp hb).2
      obtain ha | ha := List.mem_append.mp ha
      · have hlow := of_decide_eq_true (List.mem_filter.mp ha).2
        omega
      · have hin := hmoved ha
        omega

/-- The copy of a checkpoint keeps the canonical form. -/
theorem moveTier_wf (src dst : Nat) {d : Device} (h : Memory.wf d.st.mem = true) :
    Memory.wf (moveTier src dst d).st.mem = true := by
  unfold moveTier
  generalize List.range Config.halls = hs
  exact List.foldlRecOn (motive := fun (d : Device) => Memory.wf d.st.mem = true) hs _ h fun _ hd _ _ => copyRange_wf _ _ _ hd

/-! ### The checkpoint record (R357) -/

/-- Bytes read inside a write are those written. -/
theorem memBytes_memPut {m : Memory} (w : Memory.wf m = true) (a : Nat) (bs : List Byte) : ∀ (n off : Nat),
    off + n ≤ bs.length → memBytes (memPut m a bs) (a + off) n = (bs.drop off).take n
  | 0, _, _ => (List.take_zero ..).symm
  | n + 1, off, h => by
    have hoff : off < bs.length := by omega
    rw [memBytes, memGet_memPut_in bs a w hoff, Nat.add_assoc, memBytes_memPut w a bs n (off + 1) (by omega),
      List.drop_eq_getElem_cons hoff, List.take_succ_cons, List.getD_eq_getElem _ _ hoff]

/-- The record is as long as its fields. -/
theorem checkpointRecord_length (seq : W64) (valid : Bool) (s : State) :
    (checkpointRecord seq valid s).length = 64 + s.plant.measure.length := by
  simp only [checkpointRecord, List.length_append, leBytes_length, List.length_replicate]

/-- The record's module number. -/
theorem checkpointRecord_modno (seq : W64) (valid : Bool) (s : State) :
    ((checkpointRecord seq valid s).drop 8).take 8 = leBytes 8 s.dev.modno.toNat := by
  simp only [checkpointRecord, List.append_assoc]
  rw [List.drop_left' (leBytes_length ..), List.take_left' (leBytes_length ..)]

/-- The record's VALID. -/
theorem checkpointRecord_valid (seq : W64) (valid : Bool) (s : State) :
    ((checkpointRecord seq valid s).drop 16).take 8 = leBytes 8 (nat1 valid) := by
  simp only [checkpointRecord]
  rw [List.append_assoc, List.append_assoc, List.drop_left' (by simp), List.take_left' (leBytes_length ..)]

/-- The record's measurement. -/
theorem checkpointRecord_measure (seq : W64) (valid : Bool) (s : State) :
    (checkpointRecord seq valid s).drop 64 = s.plant.measure := by
  simp only [checkpointRecord]
  exact List.drop_left' (by simp)

/-- What a restore finds speaks of memory, the module's number and M alone. -/
theorem restoreReason_congr {s t : State} (hmem : t.dev.st.mem = s.dev.st.mem) (hmod : t.dev.modno = s.dev.modno)
    (hmeasure : t.plant.measure = s.plant.measure) : restoreReason t = restoreReason s := by
  simp only [restoreReason, recordBase, safeBase, domainAddr, hmem, hmod, hmeasure]
  rfl

/-- The record stands where it stood. -/
theorem recordBase_putRecord (seq : W64) (valid : Bool) (s : State) : recordBase (putRecord seq valid s).dev = recordBase s.dev :=
  rfl

/-- VALID and the module's number as the record just written gives them. -/
theorem putRecord_reads {s : State} (w : Memory.wf s.dev.st.mem = true) (seq : W64) (valid : Bool) :
    leNat (memBytes (putRecord seq valid s).dev.st.mem (recordBase (putRecord seq valid s).dev + 16) 8) = nat1 valid ∧
    leNat (memBytes (putRecord seq valid s).dev.st.mem (recordBase (putRecord seq valid s).dev + 8) 8) =
      (putRecord seq valid s).dev.modno.toNat := by
  have hlen := checkpointRecord_length seq valid s
  have hnum := s.dev.modno.isLt
  rw [recordBase_putRecord]
  simp only [putRecord]
  rw [memBytes_memPut w _ _ 8 16 (by omega), memBytes_memPut w _ _ 8 8 (by omega), checkpointRecord_valid,
    checkpointRecord_modno, leNat_leBytes, leNat_leBytes]
  refine ⟨?_, Nat.mod_eq_of_lt (hnum.trans (by norm_num))⟩
  cases valid <;> rfl

/-- M as the record just written gives it. -/
theorem putRecord_measure {s : State} (w : Memory.wf s.dev.st.mem = true) (hm : s.plant.measure.length = 64) (seq : W64)
    (valid : Bool) : memBytes (putRecord seq valid s).dev.st.mem (recordBase (putRecord seq valid s).dev + 64) 64 =
      (putRecord seq valid s).plant.measure := by
  rw [recordBase_putRecord]
  simp only [putRecord]
  rw [memBytes_memPut w _ _ 64 64 (by rw [checkpointRecord_length, hm]), checkpointRecord_measure]
  exact List.take_of_length_le hm.le

/-- A restore goes on from a record that a checkpoint has just written. -/
theorem restoreReason_written {s : State} (w : Memory.wf s.dev.st.mem = true) (hm : s.plant.measure.length = 64) (seq : W64) :
    restoreReason (putRecord seq true s) = none := by
  obtain ⟨hvalid, hnum⟩ := putRecord_reads w seq true
  rw [show nat1 true = 1 from rfl] at hvalid
  unfold restoreReason
  dsimp only
  rw [if_neg (not_not_intro hvalid), if_neg (not_not_intro hnum), if_neg (not_not_intro (putRecord_measure w hm seq true))]

/-- A restore finds VALID clear in a record that a checkpoint has begun. -/
theorem restoreReason_begun {s : State} (w : Memory.wf s.dev.st.mem = true) (seq : W64) :
    restoreReason (putRecord seq false s) = some 1 := by
  obtain ⟨hvalid, -⟩ := putRecord_reads w seq false
  unfold restoreReason
  dsimp only
  rw [if_pos (hvalid.trans_ne Nat.zero_ne_one)]

/-- With no block there is no copy that a failing safe tier stops. -/
theorem failTier_empty {d : Device} (h : d.blocks = []) : failTier d = d := by
  refine foldl_unchanged fun e _ => foldl_unchanged fun q _ => ?_
  cases q.2 with
  | nil => rfl
  | cons o t =>
    simp only [stopCopy, h, tblFind, ite_self]

/-- A checkpoint's telemetry entry leaves what is stored. -/
theorem checkpointEntry_st (code : Nat) (d : Device) : (checkpointEntry code d).st = d.st := rfl

/-- A record written leaves what engines serve the ranges. -/
theorem tierServed_putRecord (seq : W64) (valid : Bool) (s : State) :
    tierServed (putRecord seq valid s).dev = tierServed s.dev := by
  unfold tierServed
  rfl

/-- Device memory copied to the safe tier, with the entry of a checkpoint that takes longer (R357, R444). -/
def tierCopied (slow : Bool) (s : State) : State :=
  let s2 := { s with dev := moveTier (domainAddr s.dev 0) (safeBase s.dev) s.dev }
  if tierSlow s2.dev || slow then { s2 with dev := checkpointEntry 2 s2.dev } else s2

/-- The copy keeps the canonical form of memory, and M. -/
theorem tierCopied_keeps (slow : Bool) {s : State} (w : Memory.wf s.dev.st.mem = true) :
    Memory.wf (tierCopied slow s).dev.st.mem = true ∧ (tierCopied slow s).plant = s.plant := by
  have hmoved := moveTier_wf (domainAddr s.dev 0) (safeBase s.dev) w
  unfold tierCopied
  dsimp only
  split
  · exact ⟨by rw [checkpointEntry_st]; exact hmoved, rfl⟩
  · exact ⟨hmoved, rfl⟩

/-- A record written keeps the canonical form. -/
theorem putRecord_wf {s : State} (w : Memory.wf s.dev.st.mem = true) (seq : W64) (valid : Bool) :
    Memory.wf (putRecord seq valid s).dev.st.mem = true := by
  simp only [putRecord]
  exact memPut_wf (checkpointRecord seq valid s) (recordBase s.dev) w

/-- A checkpoint of contexts that are saved out, whose ranges all have an engine and whose writes succeed (R357). -/
theorem execCheckpoint_well {s : State} (hsaved : unsavedCtxs s.dev = []) (hserved : tierServed s.dev = true) (seq : W64) :
    execCheckpoint seq .well s =
      .next (putRecord seq true (tierCopied (decide (TierWrites.well = .remapped)) (putRecord seq false s))) := by
  have hgood : ¬ (TierWrites.well = .fails ∨ (!tierServed (putRecord seq false s).dev) = true) := by
    simp [tierServed_putRecord, hserved]
  unfold execCheckpoint tierCopied
  dsimp only
  rw [if_neg (not_not_intro hsaved), if_neg hgood]

/-- A checkpoint that goes well can be restored. -/
theorem checkpoint_well {s : State} (w : Memory.wf s.dev.st.mem = true) (hm : s.plant.measure.length = 64)
    (hsaved : unsavedCtxs s.dev = []) (hserved : tierServed s.dev = true) (seq : W64) :
    ∃ t, execCheckpoint seq .well s = .next t ∧ restoreReason t = none := by
  obtain ⟨hw, hplant⟩ := tierCopied_keeps (decide (TierWrites.well = .remapped)) (putRecord_wf w seq false)
  have hlen : (tierCopied (decide (TierWrites.well = .remapped)) (putRecord seq false s)).plant.measure.length = 64 := by
    rw [hplant]
    exact hm
  exact ⟨_, execCheckpoint_well hsaved hserved seq, restoreReason_written hw hlen seq⟩

/-- A checkpoint that fails leaves VALID clear. -/
theorem checkpoint_fails {s : State} (w : Memory.wf s.dev.st.mem = true) (hsaved : unsavedCtxs s.dev = [])
    (hblocks : s.dev.blocks = []) {tier : TierWrites} (hfail : tier = .fails ∨ tierServed s.dev = false) (seq : W64) :
    ∃ t, execCheckpoint seq tier s = .next t ∧ restoreReason t = some 1 := by
  have hbad : tier = .fails ∨ (!tierServed (putRecord seq false s).dev) = true :=
    hfail.imp_right fun h => by rw [tierServed_putRecord, h]; rfl
  have htier : failTier (putRecord seq false s).dev = (putRecord seq false s).dev := failTier_empty hblocks
  refine ⟨_, congrArg Host.Outcome.next ((if_neg (not_not_intro hsaved)).trans (if_pos hbad)), ?_⟩
  rw [htier, ite_self]
  exact (restoreReason_congr rfl rfl rfl).trans (restoreReason_begun w seq)

/-! ### The steps -/

/-- The first move of the input is the step's. -/
theorem step_of_moves {s : State} {m : Move} {t : List Move} (h : s.moves = m :: t) :
    step s = moveStep exec m { s with moves := t } := by rw [step, h]

/-- Settles O47: ports, boot, attestation, captures, updates, checkpoints and restores. -/
theorem moduleSteps : Obligations.ModuleSteps := by
  refine ⟨?replay, ?retrain, ?trained, ?removed, ?first, ?boot, ?attest, ?number, ?capture, ?well, ?fails, ?preempts, ?update,
    ?restores, ?refuses, fun _ => rfl⟩
  case replay =>
    intro p flits s hp now
    exact congrArg Host.Outcome.next (if_pos hp)
  case retrain =>
    intro p lanes s hp hremoved htraining hdue
    have hgoes : p < portCount ∧ (!(portOf s.plant p).removed) = true ∧ (portOf s.plant p).training = none ∧
        (16 < recentFlits s.dev.fcycle (portOf s.plant p) ∨ lanes < (portOf s.plant p).lanes) :=
      ⟨hp, by simp [hremoved], htraining, hdue⟩
    have hport := portOf_modPort_same p (fun p => { p with training := some s.dev.fcycle, replays := [] }) s
    exact ⟨_, congrArg Host.Outcome.next (if_pos hgoes), congrArg Port.training hport, congrArg Port.replays hport⟩
  case trained =>
    intro p lanes s htraining hlanes
    have hwidth : portWidth lanes = true := by simpa [portWidth, or_assoc] using hlanes
    have hport := portOf_modPort_same p (fun p => { p with training := none, lanes := lanes }) s
    exact ⟨_, congrArg Host.Outcome.next (if_pos ⟨htraining, hwidth⟩), congrArg Port.training hport, congrArg Port.lanes hport⟩
  case removed =>
    intro p t0 s htraining hlate
    have hgoes : ((portOf s.plant p).training.any fun t => decide (fabricMs ≤ (s.dev.fcycle - t).toNat)) = true := by
      rw [htraining]
      exact decide_eq_true hlate
    have hport := portOf_modPort_same p (fun p => { p with training := none, removed := true }) s
    exact ⟨_, congrArg Host.Outcome.next (if_pos hgoes), congrArg Port.removed hport, unroute_masks p s.dev⟩
  case first =>
    intro i t s h0
    have hrange : List.range 8 = [0, 1, 2, 3, 4, 5, 6, 7] := rfl
    rw [exec_moduleBoot h0, hrange]
    split
    next hi =>
      obtain ⟨hrole, hrom⟩ := hi
      have hok : imageOk i = true := (if_pos hrole).trans hrom
      have hversion : imageVersion i = i.version := if_neg (by omega)
      rw [bootImages_verified hrole hok, hversion, h0]
    next hi =>
      have hbad : ¬ (i.role = 0 ∧ imageOk i = true) := fun ⟨hrole, hok⟩ => hi ⟨hrole, (if_pos hrole).symm.trans hok⟩
      rw [bootImages_refused hbad, h0]
  case boot =>
    intro is s h0 hroles good
    change if is.all imageOk = true then _ else _
    cases hall : is.all imageOk with
    | true =>
      rw [if_pos rfl, exec_moduleBoot h0, bootImages_all hroles hall, h0]
      rfl
    | false =>
      obtain ⟨k, hgood, hbad, hup, hloaded, hout⟩ := bootImages_some (pl := s.plant) hroles hall
      rw [if_neg Bool.false_ne_true]
      rw [h0, Nat.zero_add] at hout
      exact ⟨k, _, exec_moduleBoot h0 is, hgood, hbad, rfl, hup, hloaded, hout⟩
  case attest =>
    intro nonce s hlen a
    exact congrArg Host.Outcome.next (if_pos hlen)
  case number =>
    intro n s hn
    rfl
  case capture =>
    intro addr len s hlen
    exact congrArg Host.Outcome.next (if_pos hlen)
  case well =>
    intro seq s w hm hsaved hserved
    exact checkpoint_well w hm hsaved hserved seq
  case fails =>
    intro seq tier s w hsaved hblocks hfail
    exact checkpoint_fails w hsaved hblocks hfail seq
  case preempts =>
    intro seq tier s hunsaved
    exact congrArg Host.Outcome.next (if_pos hunsaved)
  case update =>
    intro i t s hmoves hrole
    have hstep : step s = .next (takeUpdate { s with moves := t } i) := step_of_moves hmoves
    split
    next hi =>
      have hgoes : ¬ (decide (8 ≤ i.role) || !imageOk i) = true := by simp [hi, Nat.not_le_of_lt hrole]
      rw [takeUpdate, if_neg hgoes] at hstep
      refine ⟨_, hstep, rfl, rfl, rfl, ?_⟩
      have hgone : (s.plant.loaded.filter fun x => decide (x.role ≠ i.role)).filter (fun x => decide (x.role = i.role)) = [] := by
        refine List.filter_eq_nil_iff.mpr fun x hx => ?_
        simpa using (List.mem_filter.mp hx).2
      rw [List.filter_append, hgone]
      simp
    next hi =>
      have hrefused : (decide (8 ≤ i.role) || !imageOk i) = true := by simp [hi]
      rw [hstep, takeUpdate, if_pos hrefused]
  case restores =>
    intro s hnone
    have hexec : exec .checkpointRestore s = execCheckpointRestore s := rfl
    rw [hexec, execCheckpointRestore, hnone]
  case refuses =>
    intro s r hsome
    have hexec : exec .checkpointRestore s = execCheckpointRestore s := rfl
    rw [hexec, execCheckpointRestore, hsome]
    rfl

end Sys2Proof.Machine
end

section
/-! PROOFS. O48: control registers, the windows of the application cores, and a core's own step (R6, R77, R345). -/

namespace Sys2Proof.Machine

/-! ### Registers read back (R6) -/

/-- Two halves of a word make it up again. -/
theorem extract_halves (x : W64) : x.extractLsb' 32 32 ++ x.extractLsb' 0 32 = x := by
  refine BitVec.eq_of_getLsbD_eq fun i hi => ?_
  rw [BitVec.getLsbD_append, BitVec.getLsbD_extractLsb', BitVec.getLsbD_extractLsb']
  split
  next hlow => simp [hlow]
  next hhigh =>
    have hlt : i - 32 < 32 := by omega
    have hplace : 32 + (i - 32) = i := by omega
    simp [hlt, hplace]

/-- The budgets read back as they were written (R337, R338). -/
theorem readReg_writeReg_budgets (apc : Nat) (s : State) (h : Nat) (x : W64) :
    readReg (writeReg apc s (.power h 0) x) (.power h 0) = x := by
  simp only [readReg, writeReg, writePowerReg, readPowerReg, refreshIrem, modPw, hallOf_modHall_same]
  exact extract_halves x

/-! ### A core's own step (R345) -/

/-- The core as a retired instruction leaves it: its counts taken, unless the instruction wrote them itself. -/
def rvCounted (c : Nat) (op : RvOp) (k : ApcCore) : ApcCore :=
  let k2 := if rvWritesCount op then k else rvRetire k
  if rvWritesCycle op then k2 else rvTick c k2

/-- The counts are all that a retired instruction adds. -/
theorem rvCounted_keeps (c : Nat) (op : RvOp) (k : ApcCore) : (rvCounted c op k).pc = k.pc ∧ (rvCounted c op k).x = k.x ∧
    (rvCounted c op k).f = k.f ∧ (rvCounted c op k).priv = k.priv := by
  dsimp only [rvCounted, rvRetire, rvTick]
  split_ifs <;> exact ⟨rfl, rfl, rfl, rfl⟩

/-- A core's step where no interrupt is due. -/
theorem apcStep_instr {s : State} {c : Nat} (hc : c < 16) (hup : s.plant.apcUp = true)
    (hint : rvInterrupt s (apcOf s.dev c) = none) : apcStep c s = rvInstr s c (apcOf s.dev c) := by
  simp only [apcStep, hc, hup, and_self, if_true, hint]

/-- The counts of a trap taken leave where it leads and what it saves. -/
theorem rvTick_keeps (c : Nat) (k : ApcCore) : (rvTick c k).pc = k.pc ∧ (rvTick c k).csrs.mepc = k.csrs.mepc ∧
    (rvTick c k).csrs.mcause = k.csrs.mcause ∧ (rvTick c k).csrs.mtval = k.csrs.mtval := by
  unfold rvTick
  split <;> exact ⟨rfl, rfl, rfl, rfl⟩

/-- An exception in machine mode saves pc, cause and value, and goes to the vector's base. -/
theorem rvTake_machine {k : ApcCore} (hpriv : k.priv = 3) (cause : Nat) (tval : W64) :
    (rvTake k false cause tval).pc = k.csrs.mtvec &&& ~~~3#64 ∧ (rvTake k false cause tval).csrs.mepc = k.pc ∧
    (rvTake k false cause tval).csrs.mcause = BitVec.ofNat 64 cause ∧ (rvTake k false cause tval).csrs.mtval = tval := by
  simp [rvTake, hpriv, rvVecPc, nat1]

/-! ### A store to the control window -/

/-- In machine mode, without MPRV, a store's address is physical. -/
theorem rvTranslate_machine {k : ApcCore} (hpriv : k.priv = 3) (hmprv : k.csrs.mstatus.getLsbD 17 = false) (s : State) (c : Nat)
    (va : W64) : rvTranslate s c k .store va = .ok va.toNat := by
  have hmode : rvModeOf k .store = 3 := by
    simp only [rvModeOf, hmprv, Bool.false_eq_true, and_false, if_false, hpriv]
  simp only [rvTranslate, hmode, true_or, if_true]

/-- An address of the control window lies in a module's part of the domain. -/
theorem lt_of_ctrl {a : Nat} (h : regionOf a = .ctrl) : a < 2 ^ 46 := by
  unfold regionOf at h
  split_ifs at h
  omega

/-- A module's own addresses name it and their place in it (R20). -/
theorem domainAddr_local {d : Device} {a : Nat} (ha : a < 2 ^ 46) :
    domainAddr d a < 2 ^ 52 ∧ isRemote d (domainAddr d a) = false ∧ localOf (domainAddr d a) = a := by
  have hnum := d.modno.isLt
  have hmodule : moduleOf (domainAddr d a) = d.modno.toNat := by
    rw [moduleOf, domainAddr]
    omega
  refine ⟨?_, decide_eq_false (not_not_intro hmodule), ?_⟩
  · rw [domainAddr]
    omega
  · rw [localOf, domainAddr]
    omega

/-- An access of eight bytes to the control window is one to a register. -/
theorem rvAccessOf_ctrl {s : State} {a : Nat} (c : Nat) (x : Option W64) (hregion : regionOf a = .ctrl) :
    rvAccessOf s c (domainAddr s.dev a) 8 x =
      if (regAt (a - ctrlBase)).isSome then some { apc := c, addr := a, size := 8, wdata := x } else none := by
  obtain ⟨hlt, hlocal, hplace⟩ := domainAddr_local (d := s.dev) (lt_of_ctrl hregion)
  have hlegal : windowLegal { apc := c, addr := a, size := 8, wdata := x } = (regAt (a - ctrlBase)).isSome := by
    simp only [windowLegal, hregion, decide_true, Bool.true_and]
  unfold rvAccessOf
  dsimp only
  rw [hplace, hlocal, hlegal]
  exact if_congr ⟨fun h => h.2.2, fun h => ⟨hlt, rfl, h⟩⟩ rfl rfl

/-- A store of eight bytes to a register of the control window writes it; one to an address without a register is none. -/
theorem rvWrite_ctrl {s : State} {a : Nat} (c : Nat) (x : W64) (hregion : regionOf a = .ctrl) :
    rvWrite s c (domainAddr s.dev a) 8 x = (regAt (a - ctrlBase)).map fun r => writeReg c s r x := by
  rw [rvWrite, rvAccessOf_ctrl c _ hregion]
  cases hreg : regAt (a - ctrlBase) with
  | none => rfl
  | some r => simp only [Option.isSome_some, if_true, Option.map_some, windowStore, hregion, hreg]

/-- A store of eight bytes by a core in machine mode to the control window (R345). -/
theorem rvStore_ctrl {s : State} {c a : Nat} {k : ApcCore} {va x : W64} {reg : Option Reg} (hpriv : k.priv = 3)
    (hmprv : k.csrs.mstatus.getLsbD 17 = false) (hregion : regionOf a = .ctrl) (hva : va.toNat = domainAddr s.dev a)
    (halign : a % 8 = 0) (hreg : regAt (a - ctrlBase) = reg) : rvStore s c k va 8 x = match reg with
      | some r => .ok (writeReg c s r x, dropApcResv (domainAddr s.dev a) 8 k)
      | none => .error { cause := 7, tval := va } := by
  have haligned : va.toNat % 8 = 0 := by
    rw [hva, domainAddr]
    omega
  have hwrite : rvWrite s c (domainAddr s.dev a) 8 x = reg.map fun r => writeReg c s r x := by
    rw [← hreg]
    exact rvWrite_ctrl c x hregion
  unfold rvStore
  rw [if_neg (not_not_intro haligned), rvTranslate_machine hpriv hmprv]
  dsimp only
  rw [hva, hwrite]
  cases reg with
  | none => rfl
  | some r => rfl

/-- A register write is the step of that name. -/
theorem exec_registerWrite (addr : Nat) (x : W64) (s : State) : exec (.registerWrite addr x) s = execRegisterWrite addr x s :=
  rfl

/-- Settles O48: register writes and window accesses, and what a core's own step leaves. -/
theorem windowSteps : Obligations.WindowSteps := by
  refine ⟨?register, ?illegal, ?before, ?stores, ?loads, ?route, ?budgets, ?base, ?held, ?instr, ?except, ?control⟩
  case register =>
    intro o r x s hr
    have hnot : ¬ 0x200020000000 + o < ctrlBase := by
      unfold ctrlBase
      omega
    have hoff : 0x200020000000 + o - ctrlBase = o := by
      unfold ctrlBase
      omega
    rw [exec_registerWrite, execRegisterWrite, if_neg hnot, hoff, hr]
  case illegal =>
    intro a s hup hlegal
    refine congrArg Host.Outcome.next ((if_pos hup).trans ?_)
    simp only [windowAccess, hlegal, Bool.not_false, if_true]
    rfl
  case before =>
    intro a s hup
    exact congrArg Host.Outcome.next (if_neg (by simp [hup]))
  case stores =>
    intro a x s hup hlegal hregion hx
    refine congrArg Host.Outcome.next ((if_pos hup).trans ?_)
    simp only [windowAccess, hlegal, Bool.not_true, Bool.false_eq_true, if_false, hx, windowStore, if_neg hregion]
    rfl
  case loads =>
    intro a s hup hlegal hregion hx
    refine congrArg Host.Outcome.next ((if_pos hup).trans ?_)
    simp only [windowAccess, hlegal, Bool.not_true, Bool.false_eq_true, if_false, hx, windowRead, if_neg hregion]
    rfl
  case route =>
    intro s m x hm
    exact congrArg (BitVec.setWidth 64) (tblGet_tblSet_same ..)
  case budgets => exact fun s h x => readReg_writeReg_budgets 0 s h x
  case base =>
    intro s c x
    exact congrArg Ctx.l0base (ctxOf_modCtx_same s.dev c _)
  case held =>
    intro s c t hmoves hup
    refine (step_of_moves hmoves).trans (congrArg Host.Outcome.next ?_)
    simp only [apcStep, hup, Bool.false_eq_true, and_false, if_false]
  case instr =>
    intro s s1 c w t op k1 hmoves hc hup s0 k hint hfetch hdecode hexec
    have hstep : step s = .next (rvInstr s0 c k) :=
      (step_of_moves hmoves).trans (congrArg Host.Outcome.next (apcStep_instr (s := s0) hc hup hint))
    have hrun : rvInstr s0 c k = { s1 with dev := setApc s1.dev c (rvCounted c op k1) } := by
      simp only [rvInstr, hfetch, hdecode, hexec, rvCounted]
    obtain ⟨hpc, hx, hf, hpriv⟩ := rvCounted_keeps c op k1
    refine ⟨_, hstep.trans (congrArg Host.Outcome.next hrun), rfl, rfl, ?_⟩
    simp only [apcOf_setApc_same]
    exact ⟨hpc, hx, hf, hpriv⟩
  case except =>
    intro s c w t op e hmoves hc hup s0 k hint hfetch hdecode hpriv hexec
    have hstep : step s = .next (rvInstr s0 c k) :=
      (step_of_moves hmoves).trans (congrArg Host.Outcome.next (apcStep_instr (s := s0) hc hup hint))
    have hrun : rvInstr s0 c k = rvExcept s0 c k e := by simp only [rvInstr, hfetch, hdecode, hexec]
    obtain ⟨hpc, hmepc, hmcause, hmtval⟩ := rvTake_machine hpriv e.cause e.tval
    obtain ⟨hpc', hmepc', hmcause', hmtval'⟩ := rvTick_keeps c (rvTake k false e.cause e.tval)
    refine ⟨_, hstep.trans (congrArg Host.Outcome.next hrun), rfl, rfl, ?_⟩
    simp only [rvExcept, apcOf_setApc_same]
    exact ⟨hmepc'.trans hmepc, hmcause'.trans hmcause, hmtval'.trans hmtval, hpc'.trans hpc⟩
  case control =>
    intro s c w a rs1 rs2 k here off reg hpriv hmprv hregion hva halign hreg
    have hstore := rvStore_ctrl (c := c) (x := rvX k rs2) hpriv hmprv hregion hva halign hreg
    cases reg with
    | none => exact hstore
    | some r => exact ⟨_, hstore, rfl, rfl, rfl⟩

end Sys2Proof.Machine
end
